-- ==== Sys2Proof/Word.lean ====
section
/-!
DEFINITION. The word types of the Ovori 7 (R2, R3, R9).
-/
namespace Sys2Proof

/-- One byte. -/
abbrev Byte := BitVec 8
/-- A register or instruction word: 32 bits (R9, R53). -/
abbrev Word := BitVec 32
/-- A 64-bit value: a pair of registers, a page-table entry, GTIME. -/
abbrev DWord := BitVec 64
/-- A lane mask: bit i is lane i of the group (R8). -/
abbrev Mask := BitVec 32

end Sys2Proof
end

