-- ==== Sys2Proof/Syntax.lean ====
section
/-!
DEFINITION. The instructions and events of the part: one constructor of Instr per row of spec/opcode_table.json.
A word's operand structure holds the fields of its encoding as the table lays them out; an event's arguments name
what it happens to, or carry what an outside party supplies.
-/
namespace Sys2Proof

/-- Lane-set VR word (R54, R55): U, NW, D, A and a register B. -/
structure LaneR where
  u : Bool
  nw : Bool
  d : BitVec 8
  a : BitVec 8
  b : BitVec 7
deriving DecidableEq, Repr

/-- Lane-set VU word with no B operand (R55, R59). -/
structure LaneU where
  u : Bool
  nw : Bool
  d : BitVec 8
  a : BitVec 8
deriving DecidableEq, Repr

/-- IADDI: a VI word with a signed 7-bit immediate (R58). -/
structure LaneI where
  u : Bool
  nw : Bool
  d : BitVec 8
  a : BitVec 8
  imm : BitVec 7
deriving DecidableEq, Repr

/-- SHFI's four kinds: a VI word with a 5-bit amount (R58, R409). -/
structure LaneS where
  u : Bool
  nw : Bool
  d : BitVec 8
  a : BitVec 8
  s : BitVec 5
deriving DecidableEq, Repr

/-- LID: a destination alone (R372). -/
structure LaneD where
  nw : Bool
  d : BitVec 8
deriving DecidableEq, Repr

/-- A VR word on which U = 1 is ILLEGAL: SHFL, QNT8 (R57, R58). -/
structure CrossR where
  nw : Bool
  d : BitVec 8
  a : BitVec 8
  b : BitVec 7
deriving DecidableEq, Repr

/-- SHFLX, SHFLUP, SHFLDN: a mask or distance in bits 4:0 (R58). -/
structure CrossS where
  nw : Bool
  d : BitVec 8
  a : BitVec 8
  s : BitVec 5
deriving DecidableEq, Repr

/-- QSWZ: mode and quad lane or mask (R58, R395). -/
structure CrossQ where
  nw : Bool
  d : BitVec 8
  a : BitVec 8
  bcast : Bool
  l : BitVec 2
deriving DecidableEq, Repr

/-- QSUM: FN7 0x00 .i32 or 0x01 .f32 (R58, R394). -/
structure CrossSum where
  nw : Bool
  d : BitVec 8
  a : BitVec 8
  f32 : Bool
deriving DecidableEq, Repr

/-- BALLOT: D a group field, A a vector field (R317). -/
structure LaneBallot where
  d : BitVec 8
  a : BitVec 8
deriving DecidableEq, Repr

/-- LRD and LWR: a lane number (R374, R375). -/
structure LaneSel where
  d : BitVec 8
  a : BitVec 8
  l : BitVec 5
deriving DecidableEq, Repr

/-- TRW: window index (R426). -/
structure LaneTrw where
  u : Bool
  d : BitVec 8
  a : BitVec 8
  w : BitVec 2
deriving DecidableEq, Repr

/-- LD, ST, ATOM, RED: the VM layout (R55, R60). -/
structure LaneVM where
  u : Bool
  d : BitVec 8
  a : BitVec 8
  ar : BitVec 3
  mf : BitVec 4
deriving DecidableEq, Repr

/-- LDS and STS: the VM layout with AR zero (R58, R371). -/
structure LaneVS where
  u : Bool
  d : BitVec 8
  a : BitVec 8
  mf : BitVec 4
deriving DecidableEq, Repr

/-- MMA: the VC control field split into queue indices and ACCZ (R106). -/
structure LaneMma where
  d : BitVec 8
  a : BitVec 8
  qa : BitVec 3
  qb : BitVec 3
  accz : Bool
deriving DecidableEq, Repr

/-- Uniform UR word (R61). -/
structure UniR where
  d : BitVec 8
  a : BitVec 8
  b : BitVec 8
deriving DecidableEq, Repr

/-- Uniform UR word with FN8 in B, or another word of one source (R64). -/
structure UniU where
  d : BitVec 8
  a : BitVec 8
deriving DecidableEq, Repr

/-- UADDI (R61). -/
structure UniI where
  d : BitVec 8
  a : BitVec 8
  imm : BitVec 8
deriving DecidableEq, Repr

/-- USHFI's four kinds (R452). -/
structure UniS where
  d : BitVec 8
  a : BitVec 8
  s : BitVec 5
deriving DecidableEq, Repr

/-- UL words: ULI, ULIH, CALL (R61). -/
structure UniL where
  d : BitVec 8
  imm : BitVec 16
deriving DecidableEq, Repr

/-- UJ register form: BRZ, BRNZ, BRD, JMP (R61). -/
structure UniJ where
  r : BitVec 8
  off : BitVec 16
deriving DecidableEq, Repr

/-- UM words: ULD, UST, UATOM (R61). -/
structure UniM where
  d : BitVec 8
  ar : BitVec 3
  mf : BitVec 4
  imm : BitVec 9
deriving DecidableEq, Repr

/-- US words: ULDS, USTS (R61). -/
structure UniMS where
  d : BitVec 8
  a : BitVec 8
  mf : BitVec 4
  imm : BitVec 4
deriving DecidableEq, Repr

/-- ADDR and QBIND: a three-bit index and two register fields (R304, R389). -/
structure UniN where
  n : BitVec 3
  a : BitVec 8
  b : BitVec 8
deriving DecidableEq, Repr

/-- AQRY and QSTAT: a register and a three-bit index (R308, R393). -/
structure UniQ where
  d : BitVec 8
  n : BitVec 3
deriving DecidableEq, Repr

/-- FENCE (R197). -/
structure UniFence where
  kind : BitVec 2
  scope : BitVec 3
deriving DecidableEq, Repr

/-- BARA, BARW, BARS: two source registers (R320). -/
structure UniAB where
  a : BitVec 8
  b : BitVec 8
deriving DecidableEq, Repr

/-- TWSET (R432). -/
structure UniTw where
  w : BitVec 2
  a : BitVec 8
deriving DecidableEq, Repr

/-- TSDEP (R177). -/
structure UniTs where
  d : BitVec 8
  a : BitVec 8
  c : BitVec 3
  ar : BitVec 3
deriving DecidableEq, Repr

/-- TSCPY and TSTAK, with the wait flag (R177). -/
structure UniTsw where
  d : BitVec 8
  a : BitVec 8
  wait : Bool
  c : BitVec 3
  ar : BitVec 3
deriving DecidableEq, Repr

/-- SYSRD: destination and register number (R417). -/
structure UniSysRd where
  d : BitVec 8
  n : BitVec 8
deriving DecidableEq, Repr

/-- SYSWR: source and register number (R420). -/
structure UniSysWr where
  a : BitVec 8
  n : BitVec 8
deriving DecidableEq, Repr

/-- PFX of kind REG (R65). -/
structure PfxReg where
  dh : BitVec 2
  ah : BitVec 2
  bh : BitVec 2
  b8 : Bool
  rel : BitVec 2
  idx : BitVec 10
deriving DecidableEq, Repr

/-- PFX of kind MEM (R65, R68). -/
structure PfxMem where
  scope : BitVec 3
  cache : BitVec 2
  order : BitVec 2
  ofs : BitVec 15
deriving DecidableEq, Repr

/-- A host request for a swap-out (R495): the context whose table maps the page, its address, and the remote place. -/
structure SwapReq where
  ctx : Nat
  va : Nat
  toPeer : Option Nat
  addr : Nat
deriving DecidableEq, Repr

/-- Frames the host adds to a pool (R495): function, partition index, frame size in bytes, first address, count. -/
structure FrameReq where
  vf : Nat
  part : Nat
  size : Nat
  base : Nat
  count : Nat
deriving DecidableEq, Repr

/-- What the host gives when it creates a context (R206, R246). -/
structure CtxReq where
  ctx : Nat
  vf : Nat
  /-- index of the context's partition among its function's -/
  part : Nat
  rootPart : Nat
  rootAddr : Nat
  cls : Nat
  floor : Nat
  /-- member modules of a spanning context, leader first; empty when it does not span (R252) -/
  members : List Nat
deriving DecidableEq, Repr

/-- The loop parameters of R245. -/
structure LoopParams where
  kp : BitVec 16
  ki : BitVec 16
  imin : Int
  imax : Int
  base : BitVec 16
  /-- five values -/
  lo : List Nat
  hi : List Nat
deriving DecidableEq, Repr

/-- An engine that can fail or be reset (R281, R284). -/
inductive Engine where
  | matrix (cluster : Nat)
  | copy (cluster : Nat)
  | cast (die : Nat)
deriving DecidableEq, Repr

/-- What an uncorrectable error of HBM or L2 strikes (R281): a granule by an address of the module, a stored manifest entry (R165, R174), a
divergence-stack entry (R35), a stored tuple (R186), or a context image (R275). -/
inductive ErrPlace where
  | memory (addr : Nat)
  | manifest (vf tile entry : Nat)
  | stack (g entry : Nat)
  | tuple (index : Nat)
  | image (ctx : Nat)
deriving DecidableEq, Repr

/-- A host register write with no row of its own (R5, R220, R218, R262). -/
inductive HostReg where
  | sqBase (vf q : Nat) (v : DWord)
  | sqCtlSize (vf q : Nat) (v : BitVec 17)
  | sqStatusW1C (vf q : Nat) (v : Word)
  | sqReadOnly (vf q : Nat)
  | fbStatusW1C (part : Nat) (v : Word)
  | fbReadOnly (part : Nat)
  | fbValidW1C (part index : Nat)
  | pwrStatusW1C (v : Word)
  | pwrReadOnly (part : Nat)
  | unlisted (vf offset : Nat)
  /-- a write at a byte offset of a function's register window (R289) -/
  | window (vf offset : Nat) (v : DWord)
deriving DecidableEq, Repr

/-- A signed image of the station's firmware (R293): its bytes stand as a digest number, with version and signature. -/
structure FwImage where
  body : List Byte
  version : Nat
  securityVersion : Nat
  signature : List Byte
deriving DecidableEq, Repr

/-- What a kind 0 flit carries (R290): a peer module's request under a translation this module granted (R214), or a peer's data about its
own memory, from an address of its space on. -/
inductive PeerReq where
  | read (src port grant offset len : Nat)
  | write (src port grant offset : Nat) (data : List Byte) (psn : List Bool)
  | data (src port addr : Nat) (data : List Byte) (psn : List Bool)
deriving DecidableEq, Repr

namespace Machine

/-- One partition of the configuration block (R18, R159, R164, R256, R257). -/
structure PartCfg where
  units : List Nat
  systemShare : Nat
  manifestArea : Nat
  allot : Nat
  floor : Nat
  dranovMask : DWord
  cxlMask : DWord
deriving DecidableEq, Repr

/-- The signed configuration block (R18, R294, R297): partitions in ascending PARTID, the secure functions, the bytes that are signed, and
their signature. -/
structure ConfigBlock where
  parts : List PartCfg
  secureVfs : List Nat
  body : List Byte
  signature : List Byte
deriving DecidableEq, Repr

end Machine

/-- A host access over CXL.mem to a function's window (R288, R297). -/
structure CxlReq where
  vf : Nat
  part : Nat
  addr : Nat
  write : Bool
  len : Nat
  data : List Byte
deriving DecidableEq, Repr

/-- The master's GTIME as it was sent, and the measured delay of the path (R290, R291). -/
structure TimeMsg where
  gtime : Nat
  delay : Nat
deriving DecidableEq, Repr

/-- The loop result the leader returns (R252). -/
structure LoopResult where
  ctx : Nat
  /-- GTIME of the boundary -/
  boundary : Nat
  m : Nat
  integ : Int
  level : BitVec 16
  flags : BitVec 5
  held : Bool
deriving DecidableEq, Repr

/-- Station control between modules (R290): a write of LOOP.TGT of a spanning context with its member and GTIME (R253), the members of a
spanning context once one has migrated (R252, log 72), or anything else, which bears on no state the spec names. -/
inductive StationMsg where
  | target (ctx member at_ : Nat) (tgt : BitVec 16)
  | members (ctx : Nat) (modules : List Nat)
  | other (payload : List Byte)
deriving DecidableEq, Repr

/-- Every word and event of spec/opcode_table.json, in the table's order. -/
inductive Instr where
  /-- IADD (R360) -/
  | iadd (o : LaneR)
  /-- ISUB (R360) -/
  | isub (o : LaneR)
  /-- IADDI (R360) -/
  | iaddi (o : LaneI)
  /-- IMUL (R364) -/
  | imul (o : LaneR)
  /-- IMULHS (R364) -/
  | imulhs (o : LaneR)
  /-- IMULHN (R364) -/
  | imulhn (o : LaneR)
  /-- IMAD (R362) -/
  | imad (o : LaneR)
  /-- QMUL (R391) -/
  | qmul (o : LaneR)
  /-- AND (R307) -/
  | and (o : LaneR)
  /-- OR (R386) -/
  | or (o : LaneR)
  /-- XOR (R462) -/
  | xor (o : LaneR)
  /-- ANDN (R307) -/
  | andn (o : LaneR)
  /-- SHL (R410) -/
  | shl (o : LaneR)
  /-- SHR (R410) -/
  | shr (o : LaneR)
  /-- SRA (R410) -/
  | sra (o : LaneR)
  /-- SHLI (R409) -/
  | shli (o : LaneS)
  /-- SHRI (R409) -/
  | shri (o : LaneS)
  /-- SRAI (R409) -/
  | srai (o : LaneS)
  /-- ROTLI (R409) -/
  | rotli (o : LaneS)
  /-- IMINS (R363) -/
  | imins (o : LaneR)
  /-- IMAXS (R363) -/
  | imaxs (o : LaneR)
  /-- IMINN (R363) -/
  | iminn (o : LaneR)
  /-- IMAXN (R363) -/
  | imaxn (o : LaneR)
  /-- ICMPEQ (R361) -/
  | icmpeq (o : LaneR)
  /-- ICMPNE (R361) -/
  | icmpne (o : LaneR)
  /-- ICMPLT (R361) -/
  | icmplt (o : LaneR)
  /-- ICMPLE (R361) -/
  | icmple (o : LaneR)
  /-- ICMPLTN (R361) -/
  | icmpltn (o : LaneR)
  /-- ICMPLEN (R361) -/
  | icmplen (o : LaneR)
  /-- SEL (R406) -/
  | sel (o : LaneR)
  /-- MOV (R381) -/
  | mov (o : LaneU)
  /-- NEG (R381) -/
  | neg (o : LaneU)
  /-- NOT (R381) -/
  | not (o : LaneU)
  /-- ABS (R303) -/
  | abs (o : LaneU)
  /-- CLZ (R336) -/
  | clz (o : LaneU)
  /-- POPC (R381) -/
  | popc (o : LaneU)
  /-- BREV (R331) -/
  | brev (o : LaneU)
  /-- LID (R372) -/
  | lid (o : LaneD)
  /-- FNEG (R353) -/
  | fneg (o : LaneU)
  /-- FABS (R353) -/
  | fabs (o : LaneU)
  /-- F2I (R352) -/
  | f2i (o : LaneU)
  /-- F2IZ (R352) -/
  | f2iz (o : LaneU)
  /-- F2N (R352) -/
  | f2n (o : LaneU)
  /-- F2NZ (R352) -/
  | f2nz (o : LaneU)
  /-- I2F (R359) -/
  | i2f (o : LaneU)
  /-- N2F (R384) -/
  | n2f (o : LaneU)
  /-- F2BF (R351) -/
  | f2bf (o : LaneU)
  /-- BF2F (R326) -/
  | bf2f (o : LaneU)
  /-- BF2FH (R326) -/
  | bf2fh (o : LaneU)
  /-- RCP (R397) -/
  | rcp (o : LaneU)
  /-- RSQ (R405) -/
  | rsq (o : LaneU)
  /-- SQRT (R412) -/
  | sqrt (o : LaneU)
  /-- EXP2 (R350) -/
  | exp2 (o : LaneU)
  /-- LOG2 (R373) -/
  | log2 (o : LaneU)
  /-- SIN (R411) -/
  | sin (o : LaneU)
  /-- COS (R338) -/
  | cos (o : LaneU)
  /-- TANH (R422) -/
  | tanh (o : LaneU)
  /-- FLOOR (R335) -/
  | floor (o : LaneU)
  /-- CEIL (R335) -/
  | ceil (o : LaneU)
  /-- TRUNC (R425) -/
  | trunc (o : LaneU)
  /-- RINT (R404) -/
  | rint (o : LaneU)
  /-- FADD (R354) -/
  | fadd (o : LaneR)
  /-- FSUB (R354) -/
  | fsub (o : LaneR)
  /-- FMUL (R354) -/
  | fmul (o : LaneR)
  /-- FFMA (R357) -/
  | ffma (o : LaneR)
  /-- FMIN (R358) -/
  | fmin (o : LaneR)
  /-- FMAX (R358) -/
  | fmax (o : LaneR)
  /-- FCMPEQ (R355) -/
  | fcmpeq (o : LaneR)
  /-- FCMPLT (R355) -/
  | fcmplt (o : LaneR)
  /-- FCMPLE (R355) -/
  | fcmple (o : LaneR)
  /-- FCMPUN (R355) -/
  | fcmpun (o : LaneR)
  /-- BADD2 (R315) -/
  | badd2 (o : LaneR)
  /-- BMUL2 (R315) -/
  | bmul2 (o : LaneR)
  /-- BFMA2 (R315) -/
  | bfma2 (o : LaneR)
  /-- BDOT2 (R315) -/
  | bdot2 (o : LaneR)
  /-- SHFL (R407) -/
  | shfl (o : CrossR)
  /-- SHFLX (R407) -/
  | shflx (o : CrossS)
  /-- SHFLUP (R407) -/
  | shflup (o : CrossS)
  /-- SHFLDN (R407) -/
  | shfldn (o : CrossS)
  /-- QSWZ (R395) -/
  | qswz (o : CrossQ)
  /-- QSUM (R394) -/
  | qsum (o : CrossSum)
  /-- BALLOT (R317) -/
  | ballot (o : LaneBallot)
  /-- LRD (R374) -/
  | lrd (o : LaneSel)
  /-- LWR (R375) -/
  | lwr (o : LaneSel)
  /-- QNT8 (R95) -/
  | qnt8 (o : CrossR)
  /-- DQ8 (R346) -/
  | dq8 (o : LaneU)
  /-- BPERM (R327) -/
  | bperm (o : LaneR)
  /-- TRW (R427) -/
  | trw (o : LaneTrw)
  /-- LD (R369) -/
  | ld (o : LaneVM)
  /-- ST (R414) -/
  | st (o : LaneVM)
  /-- LDS (R371) -/
  | lds (o : LaneVS)
  /-- STS (R416) -/
  | sts (o : LaneVS)
  /-- ATOM (R311) -/
  | atom (o : LaneVM)
  /-- RED (R399) -/
  | red (o : LaneVM)
  /-- MMA (R106) -/
  | mma (o : LaneMma)
  /-- MIX (R378) -/
  | mix (o : LaneR)
  /-- UADD (R436) -/
  | uadd (o : UniR)
  /-- USUB (R436) -/
  | usub (o : UniR)
  /-- UADDI (R436) -/
  | uaddi (o : UniI)
  /-- UMUL (R449) -/
  | umul (o : UniR)
  /-- UMULHS (R449) -/
  | umulhs (o : UniR)
  /-- UMULHN (R449) -/
  | umulhn (o : UniR)
  /-- UAND (R438) -/
  | uand (o : UniR)
  /-- UOR (R438) -/
  | uor (o : UniR)
  /-- UXOR (R438) -/
  | uxor (o : UniR)
  /-- UANDN (R438) -/
  | uandn (o : UniR)
  /-- USHL (R453) -/
  | ushl (o : UniR)
  /-- USHR (R453) -/
  | ushr (o : UniR)
  /-- USRA (R453) -/
  | usra (o : UniR)
  /-- USHLI (R452) -/
  | ushli (o : UniS)
  /-- USHRI (R452) -/
  | ushri (o : UniS)
  /-- USRAI (R452) -/
  | usrai (o : UniS)
  /-- UROTLI (R452) -/
  | urotli (o : UniS)
  /-- UMINS (R448) -/
  | umins (o : UniR)
  /-- UMAXS (R448) -/
  | umaxs (o : UniR)
  /-- UMINN (R448) -/
  | uminn (o : UniR)
  /-- UMAXN (R448) -/
  | umaxn (o : UniR)
  /-- UCMPEQ (R442) -/
  | ucmpeq (o : UniR)
  /-- UCMPNE (R442) -/
  | ucmpne (o : UniR)
  /-- UCMPLT (R442) -/
  | ucmplt (o : UniR)
  /-- UCMPLE (R442) -/
  | ucmple (o : UniR)
  /-- UCMPLTN (R442) -/
  | ucmpltn (o : UniR)
  /-- UCMPLEN (R442) -/
  | ucmplen (o : UniR)
  /-- USEL (R451) -/
  | usel (o : UniR)
  /-- UMOV (R441) -/
  | umov (o : UniU)
  /-- UNEG (R441) -/
  | uneg (o : UniU)
  /-- UNOT (R441) -/
  | unot (o : UniU)
  /-- UCLZ (R441) -/
  | uclz (o : UniU)
  /-- UPOPC (R441) -/
  | upopc (o : UniU)
  /-- UBREV (R441) -/
  | ubrev (o : UniU)
  /-- UFFS (R441) -/
  | uffs (o : UniU)
  /-- UF2I (R443) -/
  | uf2i (o : UniU)
  /-- UI2F (R443) -/
  | ui2f (o : UniU)
  /-- ULI (R447) -/
  | uli (o : UniL)
  /-- ULIH (R447) -/
  | ulih (o : UniL)
  /-- UADD64 (R437) -/
  | uadd64 (o : UniR)
  /-- USUB64 (R437) -/
  | usub64 (o : UniR)
  /-- UFADD (R444) -/
  | ufadd (o : UniR)
  /-- UFMUL (R444) -/
  | ufmul (o : UniR)
  /-- UFFMA (R444) -/
  | uffma (o : UniR)
  /-- UQMUL (R450) -/
  | uqmul (o : UniR)
  /-- BRA (R328) -/
  | bra (off : BitVec 24)
  /-- BRZ (R332) -/
  | brz (o : UniJ)
  /-- BRNZ (R332) -/
  | brnz (o : UniJ)
  /-- BRD (R330) -/
  | brd (o : UniJ)
  /-- JSET (R367) -/
  | jset (off : BitVec 24)
  /-- CALL (R333) -/
  | call (o : UniL)
  /-- JMP (R365) -/
  | jmp (o : UniJ)
  /-- RET (R402) -/
  | ret (r : BitVec 8)
  /-- JMPV (R366) -/
  | jmpv (r : BitVec 8)
  /-- RETV (R403) -/
  | retv (r : BitVec 8)
  /-- EXIT (R348) -/
  | exit
  /-- NOP (R385) -/
  | nop
  /-- YIELD (R463) -/
  | yield
  /-- TRAP (R423) -/
  | trap (c : BitVec 8)
  /-- ERET (R271) -/
  | eret
  /-- TRIG (R228) -/
  | trig
  /-- ULD (R445) -/
  | uld (o : UniM)
  /-- UST (R454) -/
  | ust (o : UniM)
  /-- ULDS (R446) -/
  | ulds (o : UniMS)
  /-- USTS (R446) -/
  | usts (o : UniMS)
  /-- UATOM (R440) -/
  | uatom (o : UniM)
  /-- ADDR (R305) -/
  | addr (o : UniN)
  /-- AQRY (R308) -/
  | aqry (o : UniQ)
  /-- FENCE (R197) -/
  | fence (o : UniFence)
  /-- BARA (R322) -/
  | bara (o : UniAB)
  /-- BARW (R322) -/
  | barw (o : UniAB)
  /-- BARS (R322) -/
  | bars (o : UniAB)
  /-- MOPF (R125) -/
  | mopf
  /-- MWAIT (R126) -/
  | mwait (n : BitVec 8)
  /-- CBATCH (R334) -/
  | cbatch (d : BitVec 8)
  /-- CWAIT (R345) -/
  | cwait (a : BitVec 8)
  /-- QBIND (R156) -/
  | qbind (o : UniN)
  /-- QSTAT (R393) -/
  | qstat (o : UniQ)
  /-- CPY (R342) -/
  | cpy (a : BitVec 8)
  /-- MFAC (R133) -/
  | mfac (a : BitVec 8)
  /-- MTRS (R139) -/
  | mtrs (a : BitVec 8)
  /-- VTENC (R457) -/
  | vtenc (a : BitVec 8)
  /-- TWSET (R434) -/
  | twset (o : UniTw)
  /-- BANKCFG (R153) -/
  | bankcfg (o : UniR)
  /-- TSDEP (R430) -/
  | tsdep (o : UniTs)
  /-- TSCPY (R430) -/
  | tscpy (o : UniTsw)
  /-- TSTAK (R430) -/
  | tstak (o : UniTsw)
  /-- BEAT (R238) -/
  | beat (n : BitVec 16)
  /-- SYSRD (R417) -/
  | sysrd (o : UniSysRd)
  /-- SYSWR (R420) -/
  | syswr (o : UniSysWr)
  /-- PFX_REG (R66) -/
  | pfxReg (p : PfxReg)
  /-- PFX_IMM (R67) -/
  | pfxImm (imm : BitVec 22)
  /-- PFX_MEM (R68) -/
  | pfxMem (p : PfxMem)
  /-- REACH_JOIN (R36) -/
  | reachJoin (g : Nat) (p : Bool)
  /-- ICACHE_FILL (R30) -/
  | icacheFill (g : Nat) (p : Bool)
  /-- QUEUE_WAKE (R49) -/
  | queueWake (g : Nat) (p : Bool)
  /-- ISSUE_PROMOTION (R50) -/
  | issuePromotion (g : Nat) (p : Bool)
  /-- YIELD_HOLD_END (R463) -/
  | yieldHoldEnd (g : Nat) (p : Bool)
  /-- MEMORY_RESPONSE (R369) -/
  | memoryResponse (f : Nat)
  /-- HOME_LOAD_REQUEST (R190) -/
  | homeLoadRequest (f line : Nat)
  /-- HOME_WRITE_ARRIVAL (R191) -/
  | homeWriteArrival (f line : Nat)
  /-- OWNED_LINE_REQUEST (R199) -/
  | ownedLineRequest (cl line : Nat)
  /-- UPDATE_ONLY_REQUEST (R200) -/
  | updateOnlyRequest (cl line : Nat)
  /-- WRITE_ACK (R191) -/
  | writeAck (f : Nat)
  /-- WRITE_VISIBLE (R192) -/
  | writeVisible (w : Nat)
  /-- FENCE_RELEASE (R197) -/
  | fenceRelease (g : Nat) (p : Bool)
  /-- TILE_ARRIVAL (R171) -/
  | tileArrival (id : Nat)
  /-- SWAP_OUT (R495) -/
  | swapOut (r : SwapReq)
  /-- SWAP_COPY_COMPLETE (R172) -/
  | swapCopyComplete (id : Nat)
  /-- FRAME_POOL_ADD (R495) -/
  | framePoolAdd (r : FrameReq)
  /-- TUPLE_REGION_REGISTER (R175) -/
  | tupleRegionRegister (vf base size : Nat)
  /-- TUPLE_DEPOSIT_AT_HOME (R182) -/
  | tupleDepositAtHome (id : Nat)
  /-- TUPLE_TAKE_AT_HOME (R181) -/
  | tupleTakeAtHome (id : Nat)
  /-- TUPLE_RESULT_DELIVERY (R183) -/
  | tupleResultDelivery (id : Nat)
  /-- BITMAP_READ (R122) -/
  | bitmapRead (cl id : Nat)
  /-- PASS_GRANT (R122) -/
  | passGrant (cl : Nat)
  /-- FUSION_WAIT_EXPIRY (R122) -/
  | fusionWaitExpiry (cl id : Nat)
  /-- ARBITER_AGE_PROMOTION (R122) -/
  | arbiterAgePromotion (cl id : Nat)
  /-- PASS_COMPLETE (R123) -/
  | passComplete (cl : Nat)
  /-- MATRIX_RESIDUE_ERROR (R127) -/
  | matrixResidueError (cl : Nat)
  /-- FACTOR_COMMAND_START (R134) -/
  | factorCommandStart (cl : Nat)
  /-- FACTOR_MATRIX_COMPLETE (R140) -/
  | factorMatrixComplete (cl : Nat)
  /-- COPY_COMPLETE (R343) -/
  | copyComplete (cl id : Nat)
  /-- CWAIT_RELEASE (R202) -/
  | cwaitRelease (g : Nat) (p : Bool)
  /-- CAST_BLOCK_COMPLETE (R461) -/
  | castBlockComplete (die : Nat)
  /-- BANKCFG_DONE (R153) -/
  | bankcfgDone (g : Nat) (p : Bool)
  /-- BARRIER_POLL (R323) -/
  | barrierPoll (g : Nat) (p : Bool)
  /-- FB_HEAD_WRITE (R219) -/
  | fbHeadWrite (part value : Nat)
  /-- FB_REPLY_RETRY (R215) -/
  | fbReplyRetry (part seq : Nat)
  /-- FB_REPLY_ABORT (R215) -/
  | fbReplyAbort (part seq : Nat)
  /-- SHOOTDOWN (R213) -/
  | shootdown (vf : Nat) (ctx : Option Nat) (lo hi : Nat)
  /-- SHOOTDOWN_COMPLETE (R213) -/
  | shootdownComplete (id : Nat)
  /-- BASE_BOUND_SET (R209) -/
  | baseBoundSet (vf part base bound : Nat)
  /-- PEER_TRANSLATION_REQUEST (R214) -/
  | peerTranslationRequest (src ctx va : Nat)
  /-- PEER_TRANSLATION_RECALL (R214) -/
  | peerTranslationRecall (id : Nat)
  /-- PEER_RECALL_ACK (R214) -/
  | peerRecallAck (id : Nat)
  /-- PEER_LEASE_EXPIRY (R214) -/
  | peerLeaseExpiry (id : Nat)
  /-- PEER_MEMORY_FLIT (R290) -/
  | peerMemoryFlit (r : PeerReq)
  /-- SQ_ENABLE (R221) -/
  | sqEnable (vf q : Nat)
  /-- SQ_DISABLE (R221) -/
  | sqDisable (vf q : Nat)
  /-- SQ_DOORBELL (R221) -/
  | sqDoorbell (vf q : Nat) (wr : BitVec 16)
  /-- LAUNCH_RECORD_READ (R223) -/
  | launchRecordRead (vf q : Nat)
  /-- BLOCK_PLACE (R234) -/
  | blockPlace (launch block : Nat)
  /-- PLACEMENT_RESERVE (R235) -/
  | placementReserve (launch block : Nat)
  /-- BITMAP_BIT_SET (R230) -/
  | bitmapBitSet (launch block : Nat)
  /-- LAUNCH_COMPLETE (R231) -/
  | launchComplete (launch : Nat)
  /-- CONTEXT_CREATE (R245) -/
  | contextCreate (r : CtxReq)
  /-- CONTEXT_DESTROY (R272) -/
  | contextDestroy (ctx : Nat)
  /-- LOOP_PARAMS_SET (R245) -/
  | loopParamsSet (ctx : Nat) (p : LoopParams)
  /-- LOOP_BOUNDARY (R241) -/
  | loopBoundary (ctx : Nat)
  /-- ALLOCATION (R249) -/
  | allocation (part : Nat)
  /-- GRANTS_IN_FORCE (R241) -/
  | grantsInForce (part : Nat)
  /-- LINK_FRAME_START (R256) -/
  | linkFrameStart
  /-- BEAT_MERGE_FLIT (R252) -/
  | beatMergeFlit (ctx mdl boundary count : Nat) (live : Bool)
  /-- LOOP_RESULT_FLIT (R252) -/
  | loopResultFlit (r : LoopResult)
  /-- MERGE_COUNT_DEADLINE (R252) -/
  | mergeCountDeadline (ctx : Nat)
  /-- MERGE_RESULT_DEADLINE (R252) -/
  | mergeResultDeadline (ctx : Nat)
  /-- METER_WINDOW_END (R258) -/
  | meterWindowEnd (meters : List Nat) (uncore : Nat)
  /-- THROTTLE_DRAIN_TIMEOUT (R259) -/
  | throttleDrainTimeout (cl : Nat)
  /-- POOL_REASSIGN (R260) -/
  | poolReassign (cl pool : Nat)
  /-- POOL_REASSIGN_DONE (R260) -/
  | poolReassignDone (cl : Nat)
  /-- VPS_TABLE_WRITE (R261) -/
  | vpsTableWrite (vf n : Nat) (floor maxstep : BitVec 2)
  /-- PWR_CAP_WRITE (R262) -/
  | pwrCapWrite (watts : Nat)
  /-- ENERGY_WEIGHT_SET (R263) -/
  | energyWeightSet (part : Nat) (weights : List (BitVec 16))
  /-- ENERGY_EPOCH_END (R264) -/
  | energyEpochEnd (cl core : Nat)
  /-- ENERGY_COUNTER_CLEAR (R265) -/
  | energyCounterClear (ctx : Nat)
  /-- IDLE_ACCOUNT_CLEAR (R264) -/
  | idleAccountClear (part : Nat)
  /-- SCOPE_MAX_SET (R195) -/
  | scopeMaxSet (vf value : Nat)
  /-- LEASE_LENGTH_SET (R189) -/
  | leaseLengthSet (part ns : Nat)
  /-- PREEMPT (R273) -/
  | preempt (ctx : Nat)
  /-- PREEMPT_DRAIN_COMPLETE (R273) -/
  | preemptDrainComplete (ctx : Nat)
  /-- PREEMPT_DRAIN_TIMEOUT (R274) -/
  | preemptDrainTimeout (ctx : Nat)
  /-- CONTEXT_RESTORE (R277) -/
  | contextRestore (ctx part : Nat)
  /-- HBM_UNCORRECTABLE_ERROR (R281) -/
  | hbmUncorrectableError (t : ErrPlace)
  /-- L2_DATA_UNCORRECTABLE_ERROR (R281) -/
  | l2DataUncorrectableError (t : ErrPlace)
  /-- L2_TAG_PARITY_ERROR (R282) -/
  | l2TagParityError (slice way line : Nat)
  /-- CLUSTER_BANK_UNCORRECTABLE (R281) -/
  | clusterBankUncorrectable (cl bank : Nat)
  /-- REGISTER_FILE_UNCORRECTABLE (R281) -/
  | registerFileUncorrectable (g : Nat)
  /-- COPY_ENGINE_ERROR (R281) -/
  | copyEngineError (e : Engine)
  /-- CORRECTABLE_ERROR (R281) -/
  | correctableError
  /-- STATION_CORE_FAULT (R281) -/
  | stationCoreFault
  /-- LINK_CRC_ERROR (R283) -/
  | linkCrcError (port : Nat)
  /-- PORT_RETRAIN_DONE (R283) -/
  | portRetrainDone (port : Nat)
  /-- PORT_ENABLE (R283) -/
  | portEnable (port : Nat)
  /-- DEVICE_RESET (R284) -/
  | deviceReset (block : Option Machine.ConfigBlock)
  /-- PARTITION_RESET (R284) -/
  | partitionReset (part : Nat)
  /-- VF_RESET (R286) -/
  | vfReset (vf : Nat)
  /-- ROW_TABLE_REGISTER (R287) -/
  | rowTableRegister (ctx va n : Nat)
  /-- ENGINE_RESET (R284) -/
  | engineReset (e : Engine)
  /-- LINK_RESET (R284) -/
  | linkReset (port : Nat)
  /-- CXL_MEM_ACCESS (R297) -/
  | cxlMemAccess (r : CxlReq)
  /-- TIME_FLIT (R291) -/
  | timeFlit (m : TimeMsg)
  /-- TIME_MASTER_SELECT (R291) -/
  | timeMasterSelect (mdl : Nat)
  /-- TIME_MASTER_LOST (R291) -/
  | timeMasterLost
  /-- TIME_RESYNC (R291) -/
  | timeResync (m : TimeMsg)
  /-- STATION_CONTROL_FLIT (R290) -/
  | stationControlFlit (port : Nat) (m : StationMsg)
  /-- INVALID_FLIT (R290) -/
  | invalidFlit (port kind : Nat)
  /-- ROUTE_TABLE_LOAD (R292) -/
  | routeTableLoad (peer : Nat) (ports : List Nat)
  /-- DOE_IMAGE_LOAD (R293) -/
  | doeImageLoad (slotB : Bool) (img : FwImage)
  /-- GET_MEASUREMENTS (R295) -/
  | getMeasurements
  /-- CHALLENGE (R295) -/
  | challenge (nonce : List Byte)
  /-- KEY_EXCHANGE (R295) -/
  | keyExchange (req : List Byte)
  /-- FINISH (R295) -/
  | finish (req : List Byte)
  /-- GET_VERSION (R298) -/
  | getVersion
  /-- FIRMWARE_UPDATE (R296) -/
  | firmwareUpdate
  /-- FIRMWARE_HEARTBEAT (R296) -/
  | firmwareHeartbeat
  /-- FIRMWARE_WATCHDOG_EXPIRY (R296) -/
  | firmwareWatchdogExpiry
  /-- ANTI_ROLLBACK_UPDATE (R296) -/
  | antiRollbackUpdate (version : Nat) (signature : List Byte)
  /-- LIFECYCLE_ADVANCE (R298) -/
  | lifecycleAdvance (signature : List Byte)
  /-- REGISTER_WRITE (R5) -/
  | registerWrite (r : HostReg)
  /-- BANK_ALLOCATE (R150) -/
  | bankAllocate (cl bank ctx mode : Nat)
  /-- UNIT_FAILURE (R250) -/
  | unitFailure (cl core : Nat)
  /-- STATION_RESTART_COMPLETE (R281) -/
  | stationRestartComplete
deriving DecidableEq, Repr

end Sys2Proof
end

