-- ==== Sys2Proof/WellFormed.lean ====
section
/-!
DEFINITION. Which words are well formed apart from their prefixes and the registers' values (R44, R48, R56 to R73):
the checks of R73 that the word's own fields decide. The checks that need the word's prefixes stand with the
operand forms in Machine/Operands.lean.
-/
namespace Sys2Proof

/-- Why a 32-bit pattern is no instruction (R73). -/
inductive Defect where
  /-- an opcode R58 or R63 leaves out -/
  | reservedOpcode
  /-- an FN7, FN8 or MF code R59, R64 or R60 leaves out -/
  | reservedFunction
  /-- a MUST-BE-ZERO bit is set -/
  | mustBeZero
  /-- U = 1 where R57 forbids it -/
  | uForbidden
  /-- NW = 1 on a word that is not chain-eligible (R44) -/
  | nwForbidden
  /-- a latch code in D (R43, R56) -/
  | latchInD
  /-- a queue code where R48 or R56 forbids it -/
  | queueForbidden
  /-- an odd pair number (R62) -/
  | oddPair
  /-- a misaligned uniform run (R60) -/
  | misalignedRun
  /-- a count, kind or immediate value that the opcode map calls ILLEGAL -/
  | badValue
  /-- fewer than four bytes -/
  | short
deriving DecidableEq, Repr

/-- `some e` where the condition holds. -/
def failIf (c : Bool) (e : Defect) : Option Defect := if c then some e else none

/-- An 8-bit lane field holds a queue code (R56). -/
def isQueueCode (f : BitVec 8) : Bool := 0xF4 ≤ f.toNat && f.toNat ≤ 0xFB

/-- An 8-bit lane field holds a latch code (R56). -/
def isLatchCode (f : BitVec 8) : Bool := 0xFC ≤ f.toNat

/-- D of a lane-set word that writes a vector register or a queue (R48, R56). -/
def defectD (u : Bool) (accumulates : Bool) (d : BitVec 8) : Option Defect :=
  (failIf (isLatchCode d) .latchInD).or (failIf (isQueueCode d && (u || accumulates)) .queueForbidden)

/-- NW = 1 needs a chain-eligible word: U = 0 and no queue register (R42, R44, R57). -/
def defectNw (nw u : Bool) (d a : BitVec 8) : Option Defect :=
  failIf (nw && (u || isQueueCode d || isQueueCode a)) .nwForbidden

/-- A word with D and A among the opcodes that may name queues. -/
def defectLane (nw u accumulates : Bool) (d a : BitVec 8) : Option Defect :=
  (defectD u accumulates d).or (defectNw nw u d a)

def LaneR.defect (o : LaneR) (accumulates : Bool) : Option Defect := defectLane o.nw o.u accumulates o.d o.a
def LaneU.defect (o : LaneU) : Option Defect := defectLane o.nw o.u false o.d o.a
def LaneI.defect (o : LaneI) : Option Defect := defectLane o.nw o.u false o.d o.a
def LaneS.defect (o : LaneS) : Option Defect := defectLane o.nw o.u false o.d o.a
def LaneD.defect (o : LaneD) : Option Defect := defectLane o.nw false false o.d 0
def CrossR.defect (o : CrossR) : Option Defect := defectLane o.nw false false o.d o.a
def CrossS.defect (o : CrossS) : Option Defect := defectLane o.nw false false o.d o.a
def CrossQ.defect (o : CrossQ) : Option Defect := defectLane o.nw false false o.d o.a
def CrossSum.defect (o : CrossSum) : Option Defect := defectLane o.nw false false o.d o.a

/-- LWR: D is a vector field that may name a queue; A a group field (R48, R375). -/
def LaneSel.defectLwr (o : LaneSel) : Option Defect := defectD false false o.d

/-- TRW: OP6 0x37, never chain-eligible (R42, R48). -/
def LaneTrw.defect (o : LaneTrw) : Option Defect := defectD o.u false o.d

/-- The vector fields of OP6 0x38 to 0x3D name no queue (R48). `dVector` says whether D is a vector field. -/
def defectMem (u dVector : Bool) (d a : BitVec 8) : Option Defect :=
  (failIf (dVector && isLatchCode d) .latchInD).or
    ((failIf (dVector && isQueueCode d) .queueForbidden).or (failIf (!u && isQueueCode a) .queueForbidden))

/-- MF of a load or store (R60). -/
def accessMfOk (mf : BitVec 4) : Bool := mf.toNat ≤ 7
/-- MF of an ATOM (R60). -/
def atomMfOk (mf : BitVec 4) : Bool := mf.toNat ≤ 12
/-- MF of a RED (R60). -/
def redMfOk (mf : BitVec 4) : Bool := mf.toNat ≤ 12 && mf.toNat != 9 && mf.toNat != 10

def isOdd (f : BitVec 8) : Bool := f.toNat % 2 == 1

/-- Alignment of a uniform run of a load or store (R60). -/
def accessRunAligned (mf : BitVec 4) (d : BitVec 8) : Bool :=
  match mf.toNat with
  | 5 => d.toNat % 2 == 0
  | 6 => d.toNat % 4 == 0
  | 7 => d.toNat % 8 == 0
  | _ => true

/-- Alignment of a uniform run of UATOM: CAS and ADD.i64 (R60). -/
def atomRunAligned (mf : BitVec 4) (d : BitVec 8) : Bool :=
  match mf.toNat with
  | 10 | 11 => d.toNat % 2 == 0
  | _ => true

def LaneVM.defectLoad (o : LaneVM) : Option Defect :=
  (failIf (!accessMfOk o.mf) .reservedFunction).or (defectMem o.u true o.d o.a)
def LaneVM.defectStore (o : LaneVM) : Option Defect :=
  (failIf (!accessMfOk o.mf) .reservedFunction).or ((defectMem o.u (!o.u) o.d o.a).or
    (failIf (o.u && !accessRunAligned o.mf o.d) .misalignedRun))
def LaneVS.defectLoad (o : LaneVS) : Option Defect :=
  (failIf (!accessMfOk o.mf) .reservedFunction).or (defectMem o.u true o.d o.a)
def LaneVS.defectStore (o : LaneVS) : Option Defect :=
  (failIf (!accessMfOk o.mf) .reservedFunction).or ((defectMem o.u (!o.u) o.d o.a).or
    (failIf (o.u && !accessRunAligned o.mf o.d) .misalignedRun))
def LaneVM.defectAtom (o : LaneVM) : Option Defect :=
  (failIf (!atomMfOk o.mf) .reservedFunction).or ((defectMem o.u true o.d o.a).or
    (failIf (o.u && !atomRunAligned o.mf o.d) .misalignedRun))
def LaneVM.defectRed (o : LaneVM) : Option Defect :=
  (failIf (!redMfOk o.mf) .reservedFunction).or ((defectMem o.u (!o.u) o.d o.a).or
    (failIf (o.u && !atomRunAligned o.mf o.d) .misalignedRun))
/-- MMA: the accumulator run is a vector field (R58). -/
def LaneMma.defect (o : LaneMma) : Option Defect :=
  (failIf (isLatchCode o.d) .latchInD).or (failIf (isQueueCode o.d) .queueForbidden)

/-- UADD64 and USUB64: three pairs (R63). -/
def UniR.defectPairs (o : UniR) : Option Defect := failIf (isOdd o.d || isOdd o.a || isOdd o.b) .oddPair

def UniM.defect (o : UniM) : Option Defect :=
  (failIf (!accessMfOk o.mf) .reservedFunction).or (failIf (!accessRunAligned o.mf o.d) .misalignedRun)
def UniMS.defect (o : UniMS) : Option Defect :=
  (failIf (!accessMfOk o.mf) .reservedFunction).or (failIf (!accessRunAligned o.mf o.d) .misalignedRun)
def UniM.defectAtom (o : UniM) : Option Defect :=
  (failIf (!atomMfOk o.mf) .reservedFunction).or (failIf (!atomRunAligned o.mf o.d) .misalignedRun)

/-- A tuple word: even D and A, at most four fields (R177). -/
def UniTs.defect (o : UniTs) : Option Defect :=
  (failIf (5 ≤ o.c.toNat) .badValue).or (failIf (isOdd o.d || isOdd o.a) .oddPair)
/-- A tuple word with a wait flag (R177). -/
def UniTsw.defect (o : UniTsw) : Option Defect :=
  (failIf (5 ≤ o.c.toNat) .badValue).or (failIf (isOdd o.d || isOdd o.a) .oddPair)

/-- The numbers of the system registers (R418). -/
def sysRegListed (n : BitVec 8) : Bool :=
  let k := n.toNat
  k ≤ 0x10 || (0x20 ≤ k && k ≤ 0x35) || k == 0x40 || k == 0x41 || (0x50 ≤ k && k ≤ 0x55) || k == 0x60 || k == 0x61 ||
    k == 0x70

/-- PFX of kind REG: IDX is zero where REL is (R66). -/
def PfxReg.defect (p : PfxReg) : Option Defect := failIf (p.rel == 0 && p.idx != 0) .mustBeZero
/-- PFX of kind MEM: CACHE 0b11 (R68). -/
def PfxMem.defect (p : PfxMem) : Option Defect := failIf (p.cache == 3) .badValue

/-- What R73 finds wrong with an instruction's own fields. An event has no encoding and nothing to find. -/
def Instr.defect : Instr → Option Defect
  | .iadd o | .isub o | .imul o | .imulhs o | .imulhn o | .qmul o | .and o | .or o | .xor o | .andn o
  | .shl o | .shr o | .sra o | .imins o | .imaxs o | .iminn o | .imaxn o | .icmpeq o | .icmpne o
  | .icmplt o | .icmple o | .icmpltn o | .icmplen o | .fadd o | .fsub o | .fmul o | .fmin o | .fmax o
  | .fcmpeq o | .fcmplt o | .fcmple o | .fcmpun o | .badd2 o | .bmul2 o | .bperm o | .mix o => o.defect false
  | .iaddi o => o.defect
  | .imad o | .sel o | .ffma o | .bfma2 o | .bdot2 o => o.defect true
  | .shli o | .shri o | .srai o | .rotli o => o.defect
  | .mov o | .neg o | .not o | .abs o | .clz o | .popc o | .brev o | .fneg o | .fabs o | .f2i o | .f2iz o
  | .f2n o | .f2nz o | .i2f o | .n2f o | .f2bf o | .bf2f o | .bf2fh o | .rcp o | .rsq o | .sqrt o | .exp2 o
  | .log2 o | .sin o | .cos o | .tanh o | .floor o | .ceil o | .trunc o | .rint o | .dq8 o => o.defect
  | .lid o => o.defect
  | .shfl o | .qnt8 o => o.defect
  | .shflx o | .shflup o | .shfldn o => o.defect
  | .qswz o => o.defect
  | .qsum o => o.defect
  | .lwr o => o.defectLwr
  | .trw o => o.defect
  | .ld o => o.defectLoad
  | .st o => o.defectStore
  | .lds o => o.defectLoad
  | .sts o => o.defectStore
  | .atom o => o.defectAtom
  | .red o => o.defectRed
  | .mma o => o.defect
  | .uadd64 o | .usub64 o => o.defectPairs
  | .jmpv o | .retv o => failIf (0xF4 ≤ o.toNat) .queueForbidden
  | .uld o | .ust o => o.defect
  | .ulds o | .usts o => o.defect
  | .uatom o => o.defectAtom
  | .addr o => failIf (isOdd o.a) .oddPair
  | .fence o => failIf (o.kind == 3) .badValue
  | .tsdep o => o.defect
  | .tscpy o | .tstak o => o.defect
  | .beat o => failIf (o == 0) .badValue
  | .sysrd o | .syswr o => failIf (!sysRegListed o.n) .badValue
  | .pfxReg o => o.defect
  | .pfxMem o => o.defect
  | .ballot .. | .lrd .. | .uadd .. | .usub .. | .uaddi .. | .umul .. | .umulhs .. | .umulhn .. | .uand ..
  | .uor .. | .uxor .. | .uandn .. | .ushl .. | .ushr .. | .usra .. | .ushli .. | .ushri .. | .usrai ..
  | .urotli .. | .umins .. | .umaxs .. | .uminn .. | .umaxn .. | .ucmpeq .. | .ucmpne .. | .ucmplt ..
  | .ucmple .. | .ucmpltn .. | .ucmplen .. | .usel .. | .umov .. | .uneg .. | .unot .. | .uclz ..
  | .upopc .. | .ubrev .. | .uffs .. | .uf2i .. | .ui2f .. | .uli .. | .ulih .. | .ufadd .. | .ufmul ..
  | .uffma .. | .uqmul .. | .bra .. | .brz .. | .brnz .. | .brd .. | .jset .. | .call .. | .jmp ..
  | .ret .. | .trap .. | .aqry .. | .bara .. | .barw .. | .bars .. | .mwait .. | .cbatch .. | .cwait ..
  | .qbind .. | .qstat .. | .cpy .. | .mfac .. | .mtrs .. | .vtenc .. | .twset .. | .bankcfg ..
  | .pfxImm .. | .exit | .nop | .yield | .eret | .trig | .mopf => none
  | .reachJoin .. | .icacheFill .. | .queueWake .. | .issuePromotion .. | .yieldHoldEnd ..
  | .memoryResponse .. | .homeLoadRequest .. | .homeWriteArrival .. | .ownedLineRequest ..
  | .updateOnlyRequest .. | .writeAck .. | .writeVisible .. | .fenceRelease .. | .tileArrival ..
  | .swapOut .. | .swapCopyComplete .. | .framePoolAdd .. | .tupleRegionRegister ..
  | .tupleDepositAtHome .. | .tupleTakeAtHome .. | .tupleResultDelivery .. | .bitmapRead .. | .passGrant ..
  | .fusionWaitExpiry .. | .arbiterAgePromotion .. | .passComplete .. | .matrixResidueError ..
  | .factorCommandStart .. | .factorMatrixComplete .. | .copyComplete .. | .cwaitRelease ..
  | .castBlockComplete .. | .bankcfgDone .. | .barrierPoll .. | .fbHeadWrite .. | .fbReplyRetry ..
  | .fbReplyAbort .. | .shootdown .. | .shootdownComplete .. | .baseBoundSet ..
  | .peerTranslationRequest .. | .peerTranslationRecall .. | .peerRecallAck .. | .peerLeaseExpiry ..
  | .peerMemoryFlit .. | .sqEnable .. | .sqDisable .. | .sqDoorbell .. | .launchRecordRead ..
  | .blockPlace .. | .placementReserve .. | .bitmapBitSet .. | .launchComplete .. | .contextCreate ..
  | .contextDestroy .. | .loopParamsSet .. | .loopBoundary .. | .allocation .. | .grantsInForce ..
  | .linkFrameStart | .beatMergeFlit .. | .loopResultFlit .. | .mergeCountDeadline ..
  | .mergeResultDeadline .. | .meterWindowEnd .. | .throttleDrainTimeout .. | .poolReassign ..
  | .poolReassignDone .. | .vpsTableWrite .. | .pwrCapWrite .. | .energyWeightSet .. | .energyEpochEnd ..
  | .energyCounterClear .. | .idleAccountClear .. | .scopeMaxSet .. | .leaseLengthSet .. | .preempt ..
  | .preemptDrainComplete .. | .preemptDrainTimeout .. | .contextRestore .. | .hbmUncorrectableError ..
  | .l2DataUncorrectableError .. | .l2TagParityError .. | .clusterBankUncorrectable ..
  | .registerFileUncorrectable .. | .copyEngineError .. | .correctableError | .stationCoreFault
  | .linkCrcError .. | .portRetrainDone .. | .portEnable .. | .deviceReset .. | .partitionReset ..
  | .vfReset .. | .rowTableRegister .. | .engineReset .. | .linkReset .. | .cxlMemAccess .. | .timeFlit ..
  | .timeMasterSelect .. | .timeMasterLost | .timeResync .. | .stationControlFlit .. | .invalidFlit ..
  | .routeTableLoad .. | .doeImageLoad .. | .getMeasurements | .challenge .. | .keyExchange .. | .finish ..
  | .getVersion | .firmwareUpdate | .firmwareHeartbeat | .firmwareWatchdogExpiry
  | .antiRollbackUpdate .. | .lifecycleAdvance .. | .registerWrite .. | .bankAllocate .. | .unitFailure ..
  | .stationRestartComplete => none

/-- Nothing is wrong with the instruction's own fields. -/
def wellFormed (i : Instr) : Bool := i.defect.isNone

end Sys2Proof
end

