-- ==== Sys2Proof/Decode.lean ====
section
/-!
DEFINITION. Decoding and encoding of instruction words (R53 to R73): decode is total on 32-bit words and rejects by
name; encode is written from the same layouts. Below them, the decoder on bytes and the table's numbering of words.
-/
namespace Sys2Proof

/-! ## Layouts (R54, R55, R61, R65) -/

/-- A bit as a field. -/
def bit (b : Bool) : BitVec 1 := BitVec.ofBool b

/-- The lane-set layout of R54. -/
def laneWord (u nw : Bool) (op : BitVec 6) (d a : BitVec 8) (b : BitVec 7) : Word :=
  0#1 ++ bit u ++ bit nw ++ op ++ d ++ a ++ b

/-- The uniform-set layouts of three bytes, UR and UI (R61). -/
def uniWord (op : BitVec 7) (d a b : BitVec 8) : Word := 1#1 ++ op ++ d ++ a ++ b

/-- The uniform-set layouts with a 16-bit field, UL and UJ register form (R61). -/
def uniWord16 (op : BitVec 7) (d : BitVec 8) (x : BitVec 16) : Word := 1#1 ++ op ++ d ++ x

/-- The uniform-set layout with a 24-bit field, UJ immediate form (R61). -/
def uniWord24 (op : BitVec 7) (x : BitVec 24) : Word := 1#1 ++ op ++ x

/-- The prefix layout (R65). -/
def pfxWord (kind : BitVec 2) (payload : BitVec 22) : Word := 1#1 ++ 0x7F#7 ++ kind ++ payload

/-! ## Fields -/

def fU (w : Word) : Bool := w.getLsbD 30
def fNw (w : Word) : Bool := w.getLsbD 29
def fOp6 (w : Word) : BitVec 6 := w.extractLsb' 23 6
def fD (w : Word) : BitVec 8 := w.extractLsb' 15 8
def fA (w : Word) : BitVec 8 := w.extractLsb' 7 8
def fB (w : Word) : BitVec 7 := w.extractLsb' 0 7
def fOp7 (w : Word) : BitVec 7 := w.extractLsb' 24 7
def gD (w : Word) : BitVec 8 := w.extractLsb' 16 8
def gA (w : Word) : BitVec 8 := w.extractLsb' 8 8
def gB (w : Word) : BitVec 8 := w.extractLsb' 0 8
def g16 (w : Word) : BitVec 16 := w.extractLsb' 0 16
def g24 (w : Word) : BitVec 24 := w.extractLsb' 0 24

def lr (w : Word) : LaneR := ⟨fU w, fNw w, fD w, fA w, fB w⟩
def lu (w : Word) : LaneU := ⟨fU w, fNw w, fD w, fA w⟩
def ls (w : Word) : LaneS := ⟨fU w, fNw w, fD w, fA w, w.extractLsb' 0 5⟩
def cr (w : Word) : CrossR := ⟨fNw w, fD w, fA w, fB w⟩
def cs (w : Word) : CrossS := ⟨fNw w, fD w, fA w, w.extractLsb' 0 5⟩
def vm (w : Word) : LaneVM := ⟨fU w, fD w, fA w, w.extractLsb' 4 3, w.extractLsb' 0 4⟩
def vs (w : Word) : LaneVS := ⟨fU w, fD w, fA w, w.extractLsb' 0 4⟩
def ur (w : Word) : UniR := ⟨gD w, gA w, gB w⟩
def uu (w : Word) : UniU := ⟨gD w, gA w⟩
def us (w : Word) : UniS := ⟨gD w, gA w, w.extractLsb' 0 5⟩
def ul (w : Word) : UniL := ⟨gD w, g16 w⟩
def uj (w : Word) : UniJ := ⟨gD w, g16 w⟩
def um (w : Word) : UniM := ⟨gD w, w.extractLsb' 13 3, w.extractLsb' 9 4, w.extractLsb' 0 9⟩
def ums (w : Word) : UniMS := ⟨gD w, gA w, w.extractLsb' 4 4, w.extractLsb' 0 4⟩
def uab (w : Word) : UniAB := ⟨gA w, gB w⟩

/-- The instruction, where the bits that must be zero are; else the defect. -/
def need (ok : Bool) (e : Defect) (i : Instr) : Except Defect Instr := if ok then .ok i else .error e

/-! ## Decoding -/

/-- SHFI (R58, R409). -/
def decodeShfi (w : Word) : Except Defect Instr :=
  match (w.extractLsb' 5 2).toNat with
  | 0 => .ok (.shli (ls w))
  | 1 => .ok (.shri (ls w))
  | 2 => .ok (.srai (ls w))
  | _ => .ok (.rotli (ls w))

/-- The lane-set unary group (R59). -/
def decodeUnary (w : Word) : Except Defect Instr :=
  match (fB w).toNat with
  | 0x00 => .ok (.mov (lu w))
  | 0x01 => .ok (.neg (lu w))
  | 0x02 => .ok (.not (lu w))
  | 0x03 => .ok (.abs (lu w))
  | 0x04 => .ok (.clz (lu w))
  | 0x05 => .ok (.popc (lu w))
  | 0x06 => .ok (.brev (lu w))
  | 0x07 =>
    if fU w then .error .uForbidden
    else need (fA w == 0) .mustBeZero (.lid ⟨fNw w, fD w⟩)
  | 0x08 => .ok (.fneg (lu w))
  | 0x09 => .ok (.fabs (lu w))
  | 0x10 => .ok (.f2i (lu w))
  | 0x11 => .ok (.f2iz (lu w))
  | 0x12 => .ok (.f2n (lu w))
  | 0x13 => .ok (.f2nz (lu w))
  | 0x14 => .ok (.i2f (lu w))
  | 0x15 => .ok (.n2f (lu w))
  | 0x16 => .ok (.f2bf (lu w))
  | 0x17 => .ok (.bf2f (lu w))
  | 0x18 => .ok (.bf2fh (lu w))
  | 0x20 => .ok (.rcp (lu w))
  | 0x21 => .ok (.rsq (lu w))
  | 0x22 => .ok (.sqrt (lu w))
  | 0x23 => .ok (.exp2 (lu w))
  | 0x24 => .ok (.log2 (lu w))
  | 0x25 => .ok (.sin (lu w))
  | 0x26 => .ok (.cos (lu w))
  | 0x27 => .ok (.tanh (lu w))
  | 0x28 => .ok (.floor (lu w))
  | 0x29 => .ok (.ceil (lu w))
  | 0x2A => .ok (.trunc (lu w))
  | 0x2B => .ok (.rint (lu w))
  | _ => .error .reservedFunction

/-- A word on which U = 1 is ILLEGAL (R57). -/
def noU (w : Word) (r : Except Defect Instr) : Except Defect Instr := if fU w then .error .uForbidden else r

/-- A word that is not chain-eligible, on which NW = 1 is ILLEGAL (R44). -/
def noNw (w : Word) (r : Except Defect Instr) : Except Defect Instr := if fNw w then .error .nwForbidden else r

/-- Bits hi:lo of the word are zero. -/
def zeroBits (w : Word) (lo n : Nat) : Bool := w.extractLsb' lo n == 0

/-- The lane-set opcode map (R58). -/
def decodeLane (w : Word) : Except Defect Instr :=
  match (fOp6 w).toNat with
  | 0x00 => .ok (.iadd (lr w))
  | 0x01 => .ok (.isub (lr w))
  | 0x02 => .ok (.iaddi ⟨fU w, fNw w, fD w, fA w, fB w⟩)
  | 0x03 => .ok (.imul (lr w))
  | 0x04 => .ok (.imulhs (lr w))
  | 0x05 => .ok (.imulhn (lr w))
  | 0x06 => .ok (.imad (lr w))
  | 0x07 => .ok (.qmul (lr w))
  | 0x08 => .ok (.and (lr w))
  | 0x09 => .ok (.or (lr w))
  | 0x0A => .ok (.xor (lr w))
  | 0x0B => .ok (.andn (lr w))
  | 0x0C => .ok (.shl (lr w))
  | 0x0D => .ok (.shr (lr w))
  | 0x0E => .ok (.sra (lr w))
  | 0x0F => decodeShfi w
  | 0x10 => .ok (.imins (lr w))
  | 0x11 => .ok (.imaxs (lr w))
  | 0x12 => .ok (.iminn (lr w))
  | 0x13 => .ok (.imaxn (lr w))
  | 0x14 => .ok (.icmpeq (lr w))
  | 0x15 => .ok (.icmpne (lr w))
  | 0x16 => .ok (.icmplt (lr w))
  | 0x17 => .ok (.icmple (lr w))
  | 0x18 => .ok (.icmpltn (lr w))
  | 0x19 => .ok (.icmplen (lr w))
  | 0x1A => .ok (.sel (lr w))
  | 0x1B => decodeUnary w
  | 0x1C => .ok (.fadd (lr w))
  | 0x1D => .ok (.fsub (lr w))
  | 0x1E => .ok (.fmul (lr w))
  | 0x1F => .ok (.ffma (lr w))
  | 0x20 => .ok (.fmin (lr w))
  | 0x21 => .ok (.fmax (lr w))
  | 0x22 => .ok (.fcmpeq (lr w))
  | 0x23 => .ok (.fcmplt (lr w))
  | 0x24 => .ok (.fcmple (lr w))
  | 0x25 => .ok (.fcmpun (lr w))
  | 0x26 => .ok (.badd2 (lr w))
  | 0x27 => .ok (.bmul2 (lr w))
  | 0x28 => .ok (.bfma2 (lr w))
  | 0x29 => .ok (.bdot2 (lr w))
  | 0x2A => noU w (.ok (.shfl (cr w)))
  | 0x2B => noU w (need (zeroBits w 5 2) .mustBeZero (.shflx (cs w)))
  | 0x2C => noU w (need (zeroBits w 5 2) .mustBeZero (.shflup (cs w)))
  | 0x2D => noU w (need (zeroBits w 5 2) .mustBeZero (.shfldn (cs w)))
  | 0x2E => noU w (need (zeroBits w 3 4) .mustBeZero (.qswz ⟨fNw w, fD w, fA w, w.getLsbD 2, w.extractLsb' 0 2⟩))
  | 0x2F => noU w (need (zeroBits w 1 6) .reservedFunction (.qsum ⟨fNw w, fD w, fA w, w.getLsbD 0⟩))
  | 0x30 => noU w (noNw w (need (zeroBits w 0 7) .reservedFunction (.ballot ⟨fD w, fA w⟩)))
  | 0x32 => noU w (noNw w (need (zeroBits w 5 2) .mustBeZero (.lrd ⟨fD w, fA w, w.extractLsb' 0 5⟩)))
  | 0x33 => noU w (noNw w (need (zeroBits w 5 2) .mustBeZero (.lwr ⟨fD w, fA w, w.extractLsb' 0 5⟩)))
  | 0x34 => noU w (.ok (.qnt8 (cr w)))
  | 0x35 => need (zeroBits w 0 7) .reservedFunction (.dq8 (lu w))
  | 0x36 => .ok (.bperm (lr w))
  | 0x37 => noNw w (need (zeroBits w 2 5) .mustBeZero (.trw ⟨fU w, fD w, fA w, w.extractLsb' 0 2⟩))
  | 0x38 => noNw w (.ok (.ld (vm w)))
  | 0x39 => noNw w (.ok (.st (vm w)))
  | 0x3A => noNw w (need (zeroBits w 4 3) .mustBeZero (.lds (vs w)))
  | 0x3B => noNw w (need (zeroBits w 4 3) .mustBeZero (.sts (vs w)))
  | 0x3C => noNw w (.ok (.atom (vm w)))
  | 0x3D => noNw w (.ok (.red (vm w)))
  | 0x3E => noU w (noNw w (.ok (.mma ⟨fD w, fA w, w.extractLsb' 4 3, w.extractLsb' 1 3, w.getLsbD 0⟩)))
  | 0x3F => .ok (.mix (lr w))
  | _ => .error .reservedOpcode

/-- USHFI (R63, R452). -/
def decodeUshfi (w : Word) : Except Defect Instr :=
  if w.getLsbD 7 then .error .mustBeZero
  else match (w.extractLsb' 5 2).toNat with
    | 0 => .ok (.ushli (us w))
    | 1 => .ok (.ushri (us w))
    | 2 => .ok (.usrai (us w))
    | _ => .ok (.urotli (us w))

/-- The uniform unary group (R64). -/
def decodeUuni (w : Word) : Except Defect Instr :=
  match (gB w).toNat with
  | 0x00 => .ok (.umov (uu w))
  | 0x01 => .ok (.uneg (uu w))
  | 0x02 => .ok (.unot (uu w))
  | 0x04 => .ok (.uclz (uu w))
  | 0x05 => .ok (.upopc (uu w))
  | 0x06 => .ok (.ubrev (uu w))
  | 0x07 => .ok (.uffs (uu w))
  | 0x10 => .ok (.uf2i (uu w))
  | 0x14 => .ok (.ui2f (uu w))
  | _ => .error .reservedFunction

/-- Prefix words (R65). -/
def decodePfx (w : Word) : Except Defect Instr :=
  match (w.extractLsb' 22 2).toNat with
  | 0 =>
    need (zeroBits w 0 3) .mustBeZero
      (.pfxReg ⟨w.extractLsb' 20 2, w.extractLsb' 18 2, w.extractLsb' 16 2, w.getLsbD 15, w.extractLsb' 13 2,
        w.extractLsb' 3 10⟩)
  | 1 => .ok (.pfxImm (w.extractLsb' 0 22))
  | 2 => .ok (.pfxMem ⟨w.extractLsb' 19 3, w.extractLsb' 17 2, w.extractLsb' 15 2, w.extractLsb' 0 15⟩)
  | _ => .error .badValue

/-- The uniform-set opcode map (R63). -/
def decodeUni (w : Word) : Except Defect Instr :=
  match (fOp7 w).toNat with
  | 0x00 => .ok (.uadd (ur w))
  | 0x01 => .ok (.usub (ur w))
  | 0x02 => .ok (.uaddi ⟨gD w, gA w, gB w⟩)
  | 0x03 => .ok (.umul (ur w))
  | 0x04 => .ok (.umulhs (ur w))
  | 0x05 => .ok (.umulhn (ur w))
  | 0x06 => .ok (.uand (ur w))
  | 0x07 => .ok (.uor (ur w))
  | 0x08 => .ok (.uxor (ur w))
  | 0x09 => .ok (.uandn (ur w))
  | 0x0A => .ok (.ushl (ur w))
  | 0x0B => .ok (.ushr (ur w))
  | 0x0C => .ok (.usra (ur w))
  | 0x0D => decodeUshfi w
  | 0x0E => .ok (.umins (ur w))
  | 0x0F => .ok (.umaxs (ur w))
  | 0x10 => .ok (.uminn (ur w))
  | 0x11 => .ok (.umaxn (ur w))
  | 0x12 => .ok (.ucmpeq (ur w))
  | 0x13 => .ok (.ucmpne (ur w))
  | 0x14 => .ok (.ucmplt (ur w))
  | 0x15 => .ok (.ucmple (ur w))
  | 0x16 => .ok (.ucmpltn (ur w))
  | 0x17 => .ok (.ucmplen (ur w))
  | 0x18 => .ok (.usel (ur w))
  | 0x19 => decodeUuni w
  | 0x1A => .ok (.uli (ul w))
  | 0x1B => .ok (.ulih (ul w))
  | 0x1C => .ok (.uadd64 (ur w))
  | 0x1D => .ok (.usub64 (ur w))
  | 0x1E => .ok (.ufadd (ur w))
  | 0x1F => .ok (.ufmul (ur w))
  | 0x20 => .ok (.uffma (ur w))
  | 0x21 => .ok (.uqmul (ur w))
  | 0x28 => .ok (.bra (g24 w))
  | 0x29 => .ok (.brz (uj w))
  | 0x2A => .ok (.brnz (uj w))
  | 0x2B => .ok (.brd (uj w))
  | 0x2C => .ok (.jset (g24 w))
  | 0x2D => .ok (.call (ul w))
  | 0x2E => .ok (.jmp (uj w))
  | 0x2F => need (zeroBits w 0 16) .mustBeZero (.ret (gD w))
  | 0x30 => need (zeroBits w 0 16) .mustBeZero (.jmpv (gD w))
  | 0x31 => need (zeroBits w 0 16) .mustBeZero (.retv (gD w))
  | 0x32 => need (zeroBits w 0 24) .mustBeZero .exit
  | 0x33 => need (zeroBits w 0 24) .mustBeZero .nop
  | 0x34 => need (zeroBits w 0 24) .mustBeZero .yield
  | 0x35 => need (zeroBits w 8 16) .mustBeZero (.trap (gB w))
  | 0x36 => need (zeroBits w 0 24) .mustBeZero .eret
  | 0x37 => need (zeroBits w 0 24) .mustBeZero .trig
  | 0x38 => .ok (.uld (um w))
  | 0x39 => .ok (.ust (um w))
  | 0x3A => .ok (.ulds (ums w))
  | 0x3B => .ok (.usts (ums w))
  | 0x3C => .ok (.uatom (um w))
  | 0x3D => need (zeroBits w 19 5) .mustBeZero (.addr ⟨w.extractLsb' 16 3, gA w, gB w⟩)
  | 0x3E => need (zeroBits w 0 8 && zeroBits w 11 5) .mustBeZero (.aqry ⟨gD w, w.extractLsb' 8 3⟩)
  | 0x40 => need (zeroBits w 5 19) .mustBeZero (.fence ⟨w.extractLsb' 3 2, w.extractLsb' 0 3⟩)
  | 0x41 => need (zeroBits w 16 8) .mustBeZero (.bara (uab w))
  | 0x42 => need (zeroBits w 16 8) .mustBeZero (.barw (uab w))
  | 0x43 => need (zeroBits w 16 8) .mustBeZero (.bars (uab w))
  | 0x44 => need (zeroBits w 0 24) .mustBeZero .mopf
  | 0x45 => need (zeroBits w 8 16) .mustBeZero (.mwait (gB w))
  | 0x46 => need (zeroBits w 0 16) .mustBeZero (.cbatch (gD w))
  | 0x47 => need (zeroBits w 16 8 && zeroBits w 0 8) .mustBeZero (.cwait (gA w))
  | 0x48 => need (zeroBits w 19 5) .mustBeZero (.qbind ⟨w.extractLsb' 16 3, gA w, gB w⟩)
  | 0x49 => need (zeroBits w 0 8 && zeroBits w 11 5) .mustBeZero (.qstat ⟨gD w, w.extractLsb' 8 3⟩)
  | 0x50 => need (zeroBits w 16 8 && zeroBits w 0 8) .mustBeZero (.cpy (gA w))
  | 0x51 => need (zeroBits w 16 8 && zeroBits w 0 8) .mustBeZero (.mfac (gA w))
  | 0x52 => need (zeroBits w 16 8 && zeroBits w 0 8) .mustBeZero (.mtrs (gA w))
  | 0x53 => need (zeroBits w 16 8 && zeroBits w 0 8) .mustBeZero (.vtenc (gA w))
  | 0x54 => need (zeroBits w 18 6 && zeroBits w 0 8) .mustBeZero (.twset ⟨w.extractLsb' 16 2, gA w⟩)
  | 0x55 => .ok (.bankcfg (ur w))
  | 0x58 => need (zeroBits w 6 2) .mustBeZero (.tsdep ⟨gD w, gA w, w.extractLsb' 3 3, w.extractLsb' 0 3⟩)
  | 0x59 => need (zeroBits w 6 1) .mustBeZero (.tscpy ⟨gD w, gA w, w.getLsbD 7, w.extractLsb' 3 3, w.extractLsb' 0 3⟩)
  | 0x5A => need (zeroBits w 6 1) .mustBeZero (.tstak ⟨gD w, gA w, w.getLsbD 7, w.extractLsb' 3 3, w.extractLsb' 0 3⟩)
  | 0x60 => need (zeroBits w 16 8) .mustBeZero (.beat (g16 w))
  | 0x61 => need (zeroBits w 8 8) .mustBeZero (.sysrd ⟨gD w, gB w⟩)
  | 0x62 => need (zeroBits w 16 8) .mustBeZero (.syswr ⟨gA w, gB w⟩)
  | 0x7F => decodePfx w
  | _ => .error .reservedOpcode

/-- The set bit, the opcode and the bits that must be zero (R53, R58, R63). -/
def decodeFields (w : Word) : Except Defect Instr := if w.getLsbD 31 then decodeUni w else decodeLane w

/-- The instruction a 32-bit pattern is, or why it is none (R73). -/
def decode (w : Word) : Except Defect Instr :=
  match decodeFields w with
  | .error e => .error e
  | .ok i =>
    match i.defect with
    | some e => .error e
    | none => .ok i

/-! ## Encoding -/

/-- The word of an instruction; an event has none. -/
def encode : Instr → Option Word
  | .iadd o => some (laneWord o.u o.nw 0x00#6 o.d o.a o.b)
  | .isub o => some (laneWord o.u o.nw 0x01#6 o.d o.a o.b)
  | .iaddi o => some (laneWord o.u o.nw 0x02#6 o.d o.a o.imm)
  | .imul o => some (laneWord o.u o.nw 0x03#6 o.d o.a o.b)
  | .imulhs o => some (laneWord o.u o.nw 0x04#6 o.d o.a o.b)
  | .imulhn o => some (laneWord o.u o.nw 0x05#6 o.d o.a o.b)
  | .imad o => some (laneWord o.u o.nw 0x06#6 o.d o.a o.b)
  | .qmul o => some (laneWord o.u o.nw 0x07#6 o.d o.a o.b)
  | .and o => some (laneWord o.u o.nw 0x08#6 o.d o.a o.b)
  | .or o => some (laneWord o.u o.nw 0x09#6 o.d o.a o.b)
  | .xor o => some (laneWord o.u o.nw 0x0A#6 o.d o.a o.b)
  | .andn o => some (laneWord o.u o.nw 0x0B#6 o.d o.a o.b)
  | .shl o => some (laneWord o.u o.nw 0x0C#6 o.d o.a o.b)
  | .shr o => some (laneWord o.u o.nw 0x0D#6 o.d o.a o.b)
  | .sra o => some (laneWord o.u o.nw 0x0E#6 o.d o.a o.b)
  | .shli o => some (laneWord o.u o.nw 0x0F#6 o.d o.a (0#2 ++ o.s))
  | .shri o => some (laneWord o.u o.nw 0x0F#6 o.d o.a (1#2 ++ o.s))
  | .srai o => some (laneWord o.u o.nw 0x0F#6 o.d o.a (2#2 ++ o.s))
  | .rotli o => some (laneWord o.u o.nw 0x0F#6 o.d o.a (3#2 ++ o.s))
  | .imins o => some (laneWord o.u o.nw 0x10#6 o.d o.a o.b)
  | .imaxs o => some (laneWord o.u o.nw 0x11#6 o.d o.a o.b)
  | .iminn o => some (laneWord o.u o.nw 0x12#6 o.d o.a o.b)
  | .imaxn o => some (laneWord o.u o.nw 0x13#6 o.d o.a o.b)
  | .icmpeq o => some (laneWord o.u o.nw 0x14#6 o.d o.a o.b)
  | .icmpne o => some (laneWord o.u o.nw 0x15#6 o.d o.a o.b)
  | .icmplt o => some (laneWord o.u o.nw 0x16#6 o.d o.a o.b)
  | .icmple o => some (laneWord o.u o.nw 0x17#6 o.d o.a o.b)
  | .icmpltn o => some (laneWord o.u o.nw 0x18#6 o.d o.a o.b)
  | .icmplen o => some (laneWord o.u o.nw 0x19#6 o.d o.a o.b)
  | .sel o => some (laneWord o.u o.nw 0x1A#6 o.d o.a o.b)
  | .mov o => some (laneWord o.u o.nw 0x1B#6 o.d o.a 0x00#7)
  | .neg o => some (laneWord o.u o.nw 0x1B#6 o.d o.a 0x01#7)
  | .not o => some (laneWord o.u o.nw 0x1B#6 o.d o.a 0x02#7)
  | .abs o => some (laneWord o.u o.nw 0x1B#6 o.d o.a 0x03#7)
  | .clz o => some (laneWord o.u o.nw 0x1B#6 o.d o.a 0x04#7)
  | .popc o => some (laneWord o.u o.nw 0x1B#6 o.d o.a 0x05#7)
  | .brev o => some (laneWord o.u o.nw 0x1B#6 o.d o.a 0x06#7)
  | .lid o => some (laneWord false o.nw 0x1B#6 o.d 0 0x07#7)
  | .fneg o => some (laneWord o.u o.nw 0x1B#6 o.d o.a 0x08#7)
  | .fabs o => some (laneWord o.u o.nw 0x1B#6 o.d o.a 0x09#7)
  | .f2i o => some (laneWord o.u o.nw 0x1B#6 o.d o.a 0x10#7)
  | .f2iz o => some (laneWord o.u o.nw 0x1B#6 o.d o.a 0x11#7)
  | .f2n o => some (laneWord o.u o.nw 0x1B#6 o.d o.a 0x12#7)
  | .f2nz o => some (laneWord o.u o.nw 0x1B#6 o.d o.a 0x13#7)
  | .i2f o => some (laneWord o.u o.nw 0x1B#6 o.d o.a 0x14#7)
  | .n2f o => some (laneWord o.u o.nw 0x1B#6 o.d o.a 0x15#7)
  | .f2bf o => some (laneWord o.u o.nw 0x1B#6 o.d o.a 0x16#7)
  | .bf2f o => some (laneWord o.u o.nw 0x1B#6 o.d o.a 0x17#7)
  | .bf2fh o => some (laneWord o.u o.nw 0x1B#6 o.d o.a 0x18#7)
  | .rcp o => some (laneWord o.u o.nw 0x1B#6 o.d o.a 0x20#7)
  | .rsq o => some (laneWord o.u o.nw 0x1B#6 o.d o.a 0x21#7)
  | .sqrt o => some (laneWord o.u o.nw 0x1B#6 o.d o.a 0x22#7)
  | .exp2 o => some (laneWord o.u o.nw 0x1B#6 o.d o.a 0x23#7)
  | .log2 o => some (laneWord o.u o.nw 0x1B#6 o.d o.a 0x24#7)
  | .sin o => some (laneWord o.u o.nw 0x1B#6 o.d o.a 0x25#7)
  | .cos o => some (laneWord o.u o.nw 0x1B#6 o.d o.a 0x26#7)
  | .tanh o => some (laneWord o.u o.nw 0x1B#6 o.d o.a 0x27#7)
  | .floor o => some (laneWord o.u o.nw 0x1B#6 o.d o.a 0x28#7)
  | .ceil o => some (laneWord o.u o.nw 0x1B#6 o.d o.a 0x29#7)
  | .trunc o => some (laneWord o.u o.nw 0x1B#6 o.d o.a 0x2A#7)
  | .rint o => some (laneWord o.u o.nw 0x1B#6 o.d o.a 0x2B#7)
  | .fadd o => some (laneWord o.u o.nw 0x1C#6 o.d o.a o.b)
  | .fsub o => some (laneWord o.u o.nw 0x1D#6 o.d o.a o.b)
  | .fmul o => some (laneWord o.u o.nw 0x1E#6 o.d o.a o.b)
  | .ffma o => some (laneWord o.u o.nw 0x1F#6 o.d o.a o.b)
  | .fmin o => some (laneWord o.u o.nw 0x20#6 o.d o.a o.b)
  | .fmax o => some (laneWord o.u o.nw 0x21#6 o.d o.a o.b)
  | .fcmpeq o => some (laneWord o.u o.nw 0x22#6 o.d o.a o.b)
  | .fcmplt o => some (laneWord o.u o.nw 0x23#6 o.d o.a o.b)
  | .fcmple o => some (laneWord o.u o.nw 0x24#6 o.d o.a o.b)
  | .fcmpun o => some (laneWord o.u o.nw 0x25#6 o.d o.a o.b)
  | .badd2 o => some (laneWord o.u o.nw 0x26#6 o.d o.a o.b)
  | .bmul2 o => some (laneWord o.u o.nw 0x27#6 o.d o.a o.b)
  | .bfma2 o => some (laneWord o.u o.nw 0x28#6 o.d o.a o.b)
  | .bdot2 o => some (laneWord o.u o.nw 0x29#6 o.d o.a o.b)
  | .shfl o => some (laneWord false o.nw 0x2A#6 o.d o.a o.b)
  | .shflx o => some (laneWord false o.nw 0x2B#6 o.d o.a (0#2 ++ o.s))
  | .shflup o => some (laneWord false o.nw 0x2C#6 o.d o.a (0#2 ++ o.s))
  | .shfldn o => some (laneWord false o.nw 0x2D#6 o.d o.a (0#2 ++ o.s))
  | .qswz o => some (laneWord false o.nw 0x2E#6 o.d o.a (0#4 ++ bit o.bcast ++ o.l))
  | .qsum o => some (laneWord false o.nw 0x2F#6 o.d o.a (0#6 ++ bit o.f32))
  | .ballot o => some (laneWord false false 0x30#6 o.d o.a 0)
  | .lrd o => some (laneWord false false 0x32#6 o.d o.a (0#2 ++ o.l))
  | .lwr o => some (laneWord false false 0x33#6 o.d o.a (0#2 ++ o.l))
  | .qnt8 o => some (laneWord false o.nw 0x34#6 o.d o.a o.b)
  | .dq8 o => some (laneWord o.u o.nw 0x35#6 o.d o.a 0x00#7)
  | .bperm o => some (laneWord o.u o.nw 0x36#6 o.d o.a o.b)
  | .trw o => some (laneWord o.u false 0x37#6 o.d o.a (0#5 ++ o.w))
  | .ld o => some (laneWord o.u false 0x38#6 o.d o.a (o.ar ++ o.mf))
  | .st o => some (laneWord o.u false 0x39#6 o.d o.a (o.ar ++ o.mf))
  | .lds o => some (laneWord o.u false 0x3A#6 o.d o.a (0#3 ++ o.mf))
  | .sts o => some (laneWord o.u false 0x3B#6 o.d o.a (0#3 ++ o.mf))
  | .atom o => some (laneWord o.u false 0x3C#6 o.d o.a (o.ar ++ o.mf))
  | .red o => some (laneWord o.u false 0x3D#6 o.d o.a (o.ar ++ o.mf))
  | .mma o => some (laneWord false false 0x3E#6 o.d o.a (o.qa ++ o.qb ++ bit o.accz))
  | .mix o => some (laneWord o.u o.nw 0x3F#6 o.d o.a o.b)
  | .uadd o => some (uniWord 0x00#7 o.d o.a o.b)
  | .usub o => some (uniWord 0x01#7 o.d o.a o.b)
  | .uaddi o => some (uniWord 0x02#7 o.d o.a o.imm)
  | .umul o => some (uniWord 0x03#7 o.d o.a o.b)
  | .umulhs o => some (uniWord 0x04#7 o.d o.a o.b)
  | .umulhn o => some (uniWord 0x05#7 o.d o.a o.b)
  | .uand o => some (uniWord 0x06#7 o.d o.a o.b)
  | .uor o => some (uniWord 0x07#7 o.d o.a o.b)
  | .uxor o => some (uniWord 0x08#7 o.d o.a o.b)
  | .uandn o => some (uniWord 0x09#7 o.d o.a o.b)
  | .ushl o => some (uniWord 0x0A#7 o.d o.a o.b)
  | .ushr o => some (uniWord 0x0B#7 o.d o.a o.b)
  | .usra o => some (uniWord 0x0C#7 o.d o.a o.b)
  | .ushli o => some (uniWord 0x0D#7 o.d o.a (0#3 ++ o.s))
  | .ushri o => some (uniWord 0x0D#7 o.d o.a (1#3 ++ o.s))
  | .usrai o => some (uniWord 0x0D#7 o.d o.a (2#3 ++ o.s))
  | .urotli o => some (uniWord 0x0D#7 o.d o.a (3#3 ++ o.s))
  | .umins o => some (uniWord 0x0E#7 o.d o.a o.b)
  | .umaxs o => some (uniWord 0x0F#7 o.d o.a o.b)
  | .uminn o => some (uniWord 0x10#7 o.d o.a o.b)
  | .umaxn o => some (uniWord 0x11#7 o.d o.a o.b)
  | .ucmpeq o => some (uniWord 0x12#7 o.d o.a o.b)
  | .ucmpne o => some (uniWord 0x13#7 o.d o.a o.b)
  | .ucmplt o => some (uniWord 0x14#7 o.d o.a o.b)
  | .ucmple o => some (uniWord 0x15#7 o.d o.a o.b)
  | .ucmpltn o => some (uniWord 0x16#7 o.d o.a o.b)
  | .ucmplen o => some (uniWord 0x17#7 o.d o.a o.b)
  | .usel o => some (uniWord 0x18#7 o.d o.a o.b)
  | .umov o => some (uniWord 0x19#7 o.d o.a 0x00#8)
  | .uneg o => some (uniWord 0x19#7 o.d o.a 0x01#8)
  | .unot o => some (uniWord 0x19#7 o.d o.a 0x02#8)
  | .uclz o => some (uniWord 0x19#7 o.d o.a 0x04#8)
  | .upopc o => some (uniWord 0x19#7 o.d o.a 0x05#8)
  | .ubrev o => some (uniWord 0x19#7 o.d o.a 0x06#8)
  | .uffs o => some (uniWord 0x19#7 o.d o.a 0x07#8)
  | .uf2i o => some (uniWord 0x19#7 o.d o.a 0x10#8)
  | .ui2f o => some (uniWord 0x19#7 o.d o.a 0x14#8)
  | .uli o => some (uniWord16 0x1A#7 o.d o.imm)
  | .ulih o => some (uniWord16 0x1B#7 o.d o.imm)
  | .uadd64 o => some (uniWord 0x1C#7 o.d o.a o.b)
  | .usub64 o => some (uniWord 0x1D#7 o.d o.a o.b)
  | .ufadd o => some (uniWord 0x1E#7 o.d o.a o.b)
  | .ufmul o => some (uniWord 0x1F#7 o.d o.a o.b)
  | .uffma o => some (uniWord 0x20#7 o.d o.a o.b)
  | .uqmul o => some (uniWord 0x21#7 o.d o.a o.b)
  | .bra off => some (uniWord24 0x28#7 off)
  | .brz o => some (uniWord16 0x29#7 o.r o.off)
  | .brnz o => some (uniWord16 0x2A#7 o.r o.off)
  | .brd o => some (uniWord16 0x2B#7 o.r o.off)
  | .jset off => some (uniWord24 0x2C#7 off)
  | .call o => some (uniWord16 0x2D#7 o.d o.imm)
  | .jmp o => some (uniWord16 0x2E#7 o.r o.off)
  | .ret r => some (uniWord 0x2F#7 r 0 0)
  | .jmpv r => some (uniWord 0x30#7 r 0 0)
  | .retv r => some (uniWord 0x31#7 r 0 0)
  | .exit => some (uniWord24 0x32#7 0)
  | .nop => some (uniWord24 0x33#7 0)
  | .yield => some (uniWord24 0x34#7 0)
  | .trap c => some (uniWord 0x35#7 0 0 c)
  | .eret => some (uniWord24 0x36#7 0)
  | .trig => some (uniWord24 0x37#7 0)
  | .uld o => some (uniWord16 0x38#7 o.d (o.ar ++ o.mf ++ o.imm))
  | .ust o => some (uniWord16 0x39#7 o.d (o.ar ++ o.mf ++ o.imm))
  | .ulds o => some (uniWord 0x3A#7 o.d o.a (o.mf ++ o.imm))
  | .usts o => some (uniWord 0x3B#7 o.d o.a (o.mf ++ o.imm))
  | .uatom o => some (uniWord16 0x3C#7 o.d (o.ar ++ o.mf ++ o.imm))
  | .addr o => some (uniWord 0x3D#7 (0#5 ++ o.n) o.a o.b)
  | .aqry o => some (uniWord 0x3E#7 o.d (0#5 ++ o.n) 0)
  | .fence o => some (uniWord 0x40#7 0 0 (0#3 ++ o.kind ++ o.scope))
  | .bara o => some (uniWord 0x41#7 0 o.a o.b)
  | .barw o => some (uniWord 0x42#7 0 o.a o.b)
  | .bars o => some (uniWord 0x43#7 0 o.a o.b)
  | .mopf => some (uniWord24 0x44#7 0)
  | .mwait n => some (uniWord 0x45#7 0 0 n)
  | .cbatch d => some (uniWord 0x46#7 d 0 0)
  | .cwait a => some (uniWord 0x47#7 0 a 0)
  | .qbind o => some (uniWord 0x48#7 (0#5 ++ o.n) o.a o.b)
  | .qstat o => some (uniWord 0x49#7 o.d (0#5 ++ o.n) 0)
  | .cpy a => some (uniWord 0x50#7 0 a 0)
  | .mfac a => some (uniWord 0x51#7 0 a 0)
  | .mtrs a => some (uniWord 0x52#7 0 a 0)
  | .vtenc a => some (uniWord 0x53#7 0 a 0)
  | .twset o => some (uniWord 0x54#7 (0#6 ++ o.w) o.a 0)
  | .bankcfg o => some (uniWord 0x55#7 o.d o.a o.b)
  | .tsdep o => some (uniWord 0x58#7 o.d o.a (0#2 ++ o.c ++ o.ar))
  | .tscpy o => some (uniWord 0x59#7 o.d o.a (bit o.wait ++ 0#1 ++ o.c ++ o.ar))
  | .tstak o => some (uniWord 0x5A#7 o.d o.a (bit o.wait ++ 0#1 ++ o.c ++ o.ar))
  | .beat n => some (uniWord16 0x60#7 0 n)
  | .sysrd o => some (uniWord 0x61#7 o.d 0 o.n)
  | .syswr o => some (uniWord 0x62#7 0 o.a o.n)
  | .pfxReg p => some (pfxWord 0 (p.dh ++ p.ah ++ p.bh ++ bit p.b8 ++ p.rel ++ p.idx ++ 0#3))
  | .pfxImm v => some (pfxWord 1 v)
  | .pfxMem p => some (pfxWord 2 (p.scope ++ p.cache ++ p.order ++ p.ofs))
  | .reachJoin .. | .icacheFill .. | .queueWake .. | .issuePromotion .. | .yieldHoldEnd ..
  | .memoryResponse .. | .homeLoadRequest .. | .homeWriteArrival .. | .ownedLineRequest ..
  | .updateOnlyRequest .. | .writeAck .. | .writeVisible .. | .fenceRelease .. | .tileArrival ..
  | .swapOut .. | .swapCopyComplete .. | .framePoolAdd .. | .tupleRegionRegister ..
  | .tupleDepositAtHome .. | .tupleTakeAtHome .. | .tupleResultDelivery .. | .bitmapRead .. | .passGrant ..
  | .fusionWaitExpiry .. | .arbiterAgePromotion .. | .passComplete .. | .matrixResidueError ..
  | .factorCommandStart .. | .factorMatrixComplete .. | .copyComplete .. | .cwaitRelease ..
  | .castBlockComplete .. | .bankcfgDone .. | .barrierPoll .. | .fbHeadWrite .. | .fbReplyRetry ..
  | .fbReplyAbort .. | .shootdown .. | .shootdownComplete .. | .baseBoundSet ..
  | .peerTranslationRequest .. | .peerTranslationRecall .. | .peerRecallAck .. | .peerLeaseExpiry ..
  | .peerMemoryFlit .. | .sqEnable .. | .sqDisable .. | .sqDoorbell .. | .launchRecordRead ..
  | .blockPlace .. | .placementReserve .. | .bitmapBitSet .. | .launchComplete .. | .contextCreate ..
  | .contextDestroy .. | .loopParamsSet .. | .loopBoundary .. | .allocation .. | .grantsInForce ..
  | .linkFrameStart | .beatMergeFlit .. | .loopResultFlit .. | .mergeCountDeadline ..
  | .mergeResultDeadline .. | .meterWindowEnd .. | .throttleDrainTimeout .. | .poolReassign ..
  | .poolReassignDone .. | .vpsTableWrite .. | .pwrCapWrite .. | .energyWeightSet .. | .energyEpochEnd ..
  | .energyCounterClear .. | .idleAccountClear .. | .scopeMaxSet .. | .leaseLengthSet .. | .preempt ..
  | .preemptDrainComplete .. | .preemptDrainTimeout .. | .contextRestore .. | .hbmUncorrectableError ..
  | .l2DataUncorrectableError .. | .l2TagParityError .. | .clusterBankUncorrectable ..
  | .registerFileUncorrectable .. | .copyEngineError .. | .correctableError | .stationCoreFault
  | .linkCrcError .. | .portRetrainDone .. | .portEnable .. | .deviceReset .. | .partitionReset ..
  | .vfReset .. | .rowTableRegister .. | .engineReset .. | .linkReset .. | .cxlMemAccess .. | .timeFlit ..
  | .timeMasterSelect .. | .timeMasterLost | .timeResync .. | .stationControlFlit .. | .invalidFlit ..
  | .routeTableLoad .. | .doeImageLoad .. | .getMeasurements | .challenge .. | .keyExchange .. | .finish ..
  | .getVersion | .firmwareUpdate | .firmwareHeartbeat | .firmwareWatchdogExpiry
  | .antiRollbackUpdate .. | .lifecycleAdvance .. | .registerWrite .. | .bankAllocate .. | .unitFailure ..
  | .stationRestartComplete => none

/-- An instruction word, not an event. -/
def Instr.isWord (i : Instr) : Bool := (encode i).isSome

/-! ## Bytes -/

/-- Four bytes as a word, the lowest address first (R3). -/
def wordOfBytes (b0 b1 b2 b3 : Byte) : Word := b3 ++ b2 ++ b1 ++ b0

/-- The bytes of a word, the lowest address first (R3). -/
def bytesOfWord (w : Word) : List Byte :=
  [w.extractLsb' 0 8, w.extractLsb' 8 8, w.extractLsb' 16 8, w.extractLsb' 24 8]

/-- The instruction at the head of a list of bytes, and the bytes after it. -/
def decodeBytes : List Byte → Except Defect (Instr × List Byte)
  | b0 :: b1 :: b2 :: b3 :: rest =>
    match decode (wordOfBytes b0 b1 b2 b3) with
    | .ok i => .ok (i, rest)
    | .error e => .error e
  | _ => .error .short

/-- The instruction the decoder reads from the bytes of a word numbered as the opcode table numbers it. -/
def decodeTableWord (nbits w : Nat) : Option Instr :=
  match decodeBytes (bytesOfWord (BitVec.ofNat 32 (w % 2 ^ nbits))) with
  | .ok (i, _) => some i
  | .error _ => none

/-! ## Words written out from the encoding tables

Each instruction's word at operands of its own, from R54 to R65 and the reference entries. -/

theorem decode_iadd : decode 0x20018287 = .ok (.iadd ⟨false, true, 3, 5, 7⟩) := rfl
theorem decode_isub : decode 0x00818287 = .ok (.isub ⟨false, false, 3, 5, 7⟩) := rfl
theorem decode_iaddi : decode 0x2101828B = .ok (.iaddi ⟨false, true, 3, 5, 11⟩) := rfl
theorem decode_imul : decode 0x01818287 = .ok (.imul ⟨false, false, 3, 5, 7⟩) := rfl
theorem decode_imulhs : decode 0x22018287 = .ok (.imulhs ⟨false, true, 3, 5, 7⟩) := rfl
theorem decode_imulhn : decode 0x02818287 = .ok (.imulhn ⟨false, false, 3, 5, 7⟩) := rfl
theorem decode_imad : decode 0x23018287 = .ok (.imad ⟨false, true, 3, 5, 7⟩) := rfl
theorem decode_qmul : decode 0x03818287 = .ok (.qmul ⟨false, false, 3, 5, 7⟩) := rfl
theorem decode_and : decode 0x24018287 = .ok (.and ⟨false, true, 3, 5, 7⟩) := rfl
theorem decode_or : decode 0x04818287 = .ok (.or ⟨false, false, 3, 5, 7⟩) := rfl
theorem decode_xor : decode 0x25018287 = .ok (.xor ⟨false, true, 3, 5, 7⟩) := rfl
theorem decode_andn : decode 0x05818287 = .ok (.andn ⟨false, false, 3, 5, 7⟩) := rfl
theorem decode_shl : decode 0x26018287 = .ok (.shl ⟨false, true, 3, 5, 7⟩) := rfl
theorem decode_shr : decode 0x06818287 = .ok (.shr ⟨false, false, 3, 5, 7⟩) := rfl
theorem decode_sra : decode 0x27018287 = .ok (.sra ⟨false, true, 3, 5, 7⟩) := rfl
theorem decode_shli : decode 0x07818289 = .ok (.shli ⟨false, false, 3, 5, 9⟩) := rfl
theorem decode_shri : decode 0x278182A9 = .ok (.shri ⟨false, true, 3, 5, 9⟩) := rfl
theorem decode_srai : decode 0x078182C9 = .ok (.srai ⟨false, false, 3, 5, 9⟩) := rfl
theorem decode_rotli : decode 0x278182E9 = .ok (.rotli ⟨false, true, 3, 5, 9⟩) := rfl
theorem decode_imins : decode 0x08018287 = .ok (.imins ⟨false, false, 3, 5, 7⟩) := rfl
theorem decode_imaxs : decode 0x28818287 = .ok (.imaxs ⟨false, true, 3, 5, 7⟩) := rfl
theorem decode_iminn : decode 0x09018287 = .ok (.iminn ⟨false, false, 3, 5, 7⟩) := rfl
theorem decode_imaxn : decode 0x29818287 = .ok (.imaxn ⟨false, true, 3, 5, 7⟩) := rfl
theorem decode_icmpeq : decode 0x0A018287 = .ok (.icmpeq ⟨false, false, 3, 5, 7⟩) := rfl
theorem decode_icmpne : decode 0x2A818287 = .ok (.icmpne ⟨false, true, 3, 5, 7⟩) := rfl
theorem decode_icmplt : decode 0x0B018287 = .ok (.icmplt ⟨false, false, 3, 5, 7⟩) := rfl
theorem decode_icmple : decode 0x2B818287 = .ok (.icmple ⟨false, true, 3, 5, 7⟩) := rfl
theorem decode_icmpltn : decode 0x0C018287 = .ok (.icmpltn ⟨false, false, 3, 5, 7⟩) := rfl
theorem decode_icmplen : decode 0x2C818287 = .ok (.icmplen ⟨false, true, 3, 5, 7⟩) := rfl
theorem decode_sel : decode 0x0D018287 = .ok (.sel ⟨false, false, 3, 5, 7⟩) := rfl
theorem decode_mov : decode 0x2D818280 = .ok (.mov ⟨false, true, 3, 5⟩) := rfl
theorem decode_neg : decode 0x0D818281 = .ok (.neg ⟨false, false, 3, 5⟩) := rfl
theorem decode_not : decode 0x2D818282 = .ok (.not ⟨false, true, 3, 5⟩) := rfl
theorem decode_abs : decode 0x0D818283 = .ok (.abs ⟨false, false, 3, 5⟩) := rfl
theorem decode_clz : decode 0x2D818284 = .ok (.clz ⟨false, true, 3, 5⟩) := rfl
theorem decode_popc : decode 0x0D818285 = .ok (.popc ⟨false, false, 3, 5⟩) := rfl
theorem decode_brev : decode 0x2D818286 = .ok (.brev ⟨false, true, 3, 5⟩) := rfl
theorem decode_lid : decode 0x0D818007 = .ok (.lid ⟨false, 3⟩) := rfl
theorem decode_fneg : decode 0x2D818288 = .ok (.fneg ⟨false, true, 3, 5⟩) := rfl
theorem decode_fabs : decode 0x0D818289 = .ok (.fabs ⟨false, false, 3, 5⟩) := rfl
theorem decode_f2i : decode 0x2D818290 = .ok (.f2i ⟨false, true, 3, 5⟩) := rfl
theorem decode_f2iz : decode 0x0D818291 = .ok (.f2iz ⟨false, false, 3, 5⟩) := rfl
theorem decode_f2n : decode 0x2D818292 = .ok (.f2n ⟨false, true, 3, 5⟩) := rfl
theorem decode_f2nz : decode 0x0D818293 = .ok (.f2nz ⟨false, false, 3, 5⟩) := rfl
theorem decode_i2f : decode 0x2D818294 = .ok (.i2f ⟨false, true, 3, 5⟩) := rfl
theorem decode_n2f : decode 0x0D818295 = .ok (.n2f ⟨false, false, 3, 5⟩) := rfl
theorem decode_f2bf : decode 0x2D818296 = .ok (.f2bf ⟨false, true, 3, 5⟩) := rfl
theorem decode_bf2f : decode 0x0D818297 = .ok (.bf2f ⟨false, false, 3, 5⟩) := rfl
theorem decode_bf2fh : decode 0x2D818298 = .ok (.bf2fh ⟨false, true, 3, 5⟩) := rfl
theorem decode_rcp : decode 0x0D8182A0 = .ok (.rcp ⟨false, false, 3, 5⟩) := rfl
theorem decode_rsq : decode 0x2D8182A1 = .ok (.rsq ⟨false, true, 3, 5⟩) := rfl
theorem decode_sqrt : decode 0x0D8182A2 = .ok (.sqrt ⟨false, false, 3, 5⟩) := rfl
theorem decode_exp2 : decode 0x2D8182A3 = .ok (.exp2 ⟨false, true, 3, 5⟩) := rfl
theorem decode_log2 : decode 0x0D8182A4 = .ok (.log2 ⟨false, false, 3, 5⟩) := rfl
theorem decode_sin : decode 0x2D8182A5 = .ok (.sin ⟨false, true, 3, 5⟩) := rfl
theorem decode_cos : decode 0x0D8182A6 = .ok (.cos ⟨false, false, 3, 5⟩) := rfl
theorem decode_tanh : decode 0x2D8182A7 = .ok (.tanh ⟨false, true, 3, 5⟩) := rfl
theorem decode_floor : decode 0x0D8182A8 = .ok (.floor ⟨false, false, 3, 5⟩) := rfl
theorem decode_ceil : decode 0x2D8182A9 = .ok (.ceil ⟨false, true, 3, 5⟩) := rfl
theorem decode_trunc : decode 0x0D8182AA = .ok (.trunc ⟨false, false, 3, 5⟩) := rfl
theorem decode_rint : decode 0x2D8182AB = .ok (.rint ⟨false, true, 3, 5⟩) := rfl
theorem decode_fadd : decode 0x0E018287 = .ok (.fadd ⟨false, false, 3, 5, 7⟩) := rfl
theorem decode_fsub : decode 0x2E818287 = .ok (.fsub ⟨false, true, 3, 5, 7⟩) := rfl
theorem decode_fmul : decode 0x0F018287 = .ok (.fmul ⟨false, false, 3, 5, 7⟩) := rfl
theorem decode_ffma : decode 0x2F818287 = .ok (.ffma ⟨false, true, 3, 5, 7⟩) := rfl
theorem decode_fmin : decode 0x10018287 = .ok (.fmin ⟨false, false, 3, 5, 7⟩) := rfl
theorem decode_fmax : decode 0x30818287 = .ok (.fmax ⟨false, true, 3, 5, 7⟩) := rfl
theorem decode_fcmpeq : decode 0x11018287 = .ok (.fcmpeq ⟨false, false, 3, 5, 7⟩) := rfl
theorem decode_fcmplt : decode 0x31818287 = .ok (.fcmplt ⟨false, true, 3, 5, 7⟩) := rfl
theorem decode_fcmple : decode 0x12018287 = .ok (.fcmple ⟨false, false, 3, 5, 7⟩) := rfl
theorem decode_fcmpun : decode 0x32818287 = .ok (.fcmpun ⟨false, true, 3, 5, 7⟩) := rfl
theorem decode_badd2 : decode 0x13018287 = .ok (.badd2 ⟨false, false, 3, 5, 7⟩) := rfl
theorem decode_bmul2 : decode 0x33818287 = .ok (.bmul2 ⟨false, true, 3, 5, 7⟩) := rfl
theorem decode_bfma2 : decode 0x14018287 = .ok (.bfma2 ⟨false, false, 3, 5, 7⟩) := rfl
theorem decode_bdot2 : decode 0x34818287 = .ok (.bdot2 ⟨false, true, 3, 5, 7⟩) := rfl
theorem decode_shfl : decode 0x15018287 = .ok (.shfl ⟨false, 3, 5, 7⟩) := rfl
theorem decode_shflx : decode 0x35818289 = .ok (.shflx ⟨true, 3, 5, 9⟩) := rfl
theorem decode_shflup : decode 0x16018289 = .ok (.shflup ⟨false, 3, 5, 9⟩) := rfl
theorem decode_shfldn : decode 0x36818289 = .ok (.shfldn ⟨true, 3, 5, 9⟩) := rfl
theorem decode_qswz : decode 0x17018286 = .ok (.qswz ⟨false, 3, 5, true, 2⟩) := rfl
theorem decode_qsum : decode 0x37818281 = .ok (.qsum ⟨true, 3, 5, true⟩) := rfl
theorem decode_ballot : decode 0x18018280 = .ok (.ballot ⟨3, 5⟩) := rfl
theorem decode_lrd : decode 0x19018282 = .ok (.lrd ⟨3, 5, 2⟩) := rfl
theorem decode_lwr : decode 0x19818282 = .ok (.lwr ⟨3, 5, 2⟩) := rfl
theorem decode_qnt8 : decode 0x3A018287 = .ok (.qnt8 ⟨true, 3, 5, 7⟩) := rfl
theorem decode_dq8 : decode 0x1A818280 = .ok (.dq8 ⟨false, false, 3, 5⟩) := rfl
theorem decode_bperm : decode 0x3B018287 = .ok (.bperm ⟨false, true, 3, 5, 7⟩) := rfl
theorem decode_trw : decode 0x1B818281 = .ok (.trw ⟨false, 3, 5, 1⟩) := rfl
theorem decode_ld : decode 0x1C0182B4 = .ok (.ld ⟨false, 3, 5, 3, 4⟩) := rfl
theorem decode_st : decode 0x1C8182B4 = .ok (.st ⟨false, 3, 5, 3, 4⟩) := rfl
theorem decode_lds : decode 0x1D018284 = .ok (.lds ⟨false, 3, 5, 4⟩) := rfl
theorem decode_sts : decode 0x1D818284 = .ok (.sts ⟨false, 3, 5, 4⟩) := rfl
theorem decode_atom : decode 0x1E0182B4 = .ok (.atom ⟨false, 3, 5, 3, 4⟩) := rfl
theorem decode_red : decode 0x1E8182B4 = .ok (.red ⟨false, 3, 5, 3, 4⟩) := rfl
theorem decode_mma : decode 0x1F0182A7 = .ok (.mma ⟨3, 5, 2, 3, true⟩) := rfl
theorem decode_mix : decode 0x1F818287 = .ok (.mix ⟨false, false, 3, 5, 7⟩) := rfl
theorem decode_uadd : decode 0x80030507 = .ok (.uadd ⟨3, 5, 7⟩) := rfl
theorem decode_usub : decode 0x81030507 = .ok (.usub ⟨3, 5, 7⟩) := rfl
theorem decode_uaddi : decode 0x8203050B = .ok (.uaddi ⟨3, 5, 11⟩) := rfl
theorem decode_umul : decode 0x83030507 = .ok (.umul ⟨3, 5, 7⟩) := rfl
theorem decode_umulhs : decode 0x84030507 = .ok (.umulhs ⟨3, 5, 7⟩) := rfl
theorem decode_umulhn : decode 0x85030507 = .ok (.umulhn ⟨3, 5, 7⟩) := rfl
theorem decode_uand : decode 0x86030507 = .ok (.uand ⟨3, 5, 7⟩) := rfl
theorem decode_uor : decode 0x87030507 = .ok (.uor ⟨3, 5, 7⟩) := rfl
theorem decode_uxor : decode 0x88030507 = .ok (.uxor ⟨3, 5, 7⟩) := rfl
theorem decode_uandn : decode 0x89030507 = .ok (.uandn ⟨3, 5, 7⟩) := rfl
theorem decode_ushl : decode 0x8A030507 = .ok (.ushl ⟨3, 5, 7⟩) := rfl
theorem decode_ushr : decode 0x8B030507 = .ok (.ushr ⟨3, 5, 7⟩) := rfl
theorem decode_usra : decode 0x8C030507 = .ok (.usra ⟨3, 5, 7⟩) := rfl
theorem decode_ushli : decode 0x8D030509 = .ok (.ushli ⟨3, 5, 9⟩) := rfl
theorem decode_ushri : decode 0x8D030529 = .ok (.ushri ⟨3, 5, 9⟩) := rfl
theorem decode_usrai : decode 0x8D030549 = .ok (.usrai ⟨3, 5, 9⟩) := rfl
theorem decode_urotli : decode 0x8D030569 = .ok (.urotli ⟨3, 5, 9⟩) := rfl
theorem decode_umins : decode 0x8E030507 = .ok (.umins ⟨3, 5, 7⟩) := rfl
theorem decode_umaxs : decode 0x8F030507 = .ok (.umaxs ⟨3, 5, 7⟩) := rfl
theorem decode_uminn : decode 0x90030507 = .ok (.uminn ⟨3, 5, 7⟩) := rfl
theorem decode_umaxn : decode 0x91030507 = .ok (.umaxn ⟨3, 5, 7⟩) := rfl
theorem decode_ucmpeq : decode 0x92030507 = .ok (.ucmpeq ⟨3, 5, 7⟩) := rfl
theorem decode_ucmpne : decode 0x93030507 = .ok (.ucmpne ⟨3, 5, 7⟩) := rfl
theorem decode_ucmplt : decode 0x94030507 = .ok (.ucmplt ⟨3, 5, 7⟩) := rfl
theorem decode_ucmple : decode 0x95030507 = .ok (.ucmple ⟨3, 5, 7⟩) := rfl
theorem decode_ucmpltn : decode 0x96030507 = .ok (.ucmpltn ⟨3, 5, 7⟩) := rfl
theorem decode_ucmplen : decode 0x97030507 = .ok (.ucmplen ⟨3, 5, 7⟩) := rfl
theorem decode_usel : decode 0x98030507 = .ok (.usel ⟨3, 5, 7⟩) := rfl
theorem decode_umov : decode 0x99030500 = .ok (.umov ⟨3, 5⟩) := rfl
theorem decode_uneg : decode 0x99030501 = .ok (.uneg ⟨3, 5⟩) := rfl
theorem decode_unot : decode 0x99030502 = .ok (.unot ⟨3, 5⟩) := rfl
theorem decode_uclz : decode 0x99030504 = .ok (.uclz ⟨3, 5⟩) := rfl
theorem decode_upopc : decode 0x99030505 = .ok (.upopc ⟨3, 5⟩) := rfl
theorem decode_ubrev : decode 0x99030506 = .ok (.ubrev ⟨3, 5⟩) := rfl
theorem decode_uffs : decode 0x99030507 = .ok (.uffs ⟨3, 5⟩) := rfl
theorem decode_uf2i : decode 0x99030510 = .ok (.uf2i ⟨3, 5⟩) := rfl
theorem decode_ui2f : decode 0x99030514 = .ok (.ui2f ⟨3, 5⟩) := rfl
theorem decode_uli : decode 0x9A03000B = .ok (.uli ⟨3, 11⟩) := rfl
theorem decode_ulih : decode 0x9B03000B = .ok (.ulih ⟨3, 11⟩) := rfl
theorem decode_uadd64 : decode 0x9C020406 = .ok (.uadd64 ⟨2, 4, 6⟩) := rfl
theorem decode_usub64 : decode 0x9D020406 = .ok (.usub64 ⟨2, 4, 6⟩) := rfl
theorem decode_ufadd : decode 0x9E030507 = .ok (.ufadd ⟨3, 5, 7⟩) := rfl
theorem decode_ufmul : decode 0x9F030507 = .ok (.ufmul ⟨3, 5, 7⟩) := rfl
theorem decode_uffma : decode 0xA0030507 = .ok (.uffma ⟨3, 5, 7⟩) := rfl
theorem decode_uqmul : decode 0xA1030507 = .ok (.uqmul ⟨3, 5, 7⟩) := rfl
theorem decode_bra : decode 0xA8FFFFFA = .ok (.bra 16777210) := rfl
theorem decode_brz : decode 0xA903000D = .ok (.brz ⟨3, 13⟩) := rfl
theorem decode_brnz : decode 0xAA03000D = .ok (.brnz ⟨3, 13⟩) := rfl
theorem decode_brd : decode 0xAB03000D = .ok (.brd ⟨3, 13⟩) := rfl
theorem decode_jset : decode 0xAC123456 = .ok (.jset 1193046) := rfl
theorem decode_call : decode 0xAD03FFF0 = .ok (.call ⟨3, 65520⟩) := rfl
theorem decode_jmp : decode 0xAE03000D = .ok (.jmp ⟨3, 13⟩) := rfl
theorem decode_ret : decode 0xAF030000 = .ok (.ret 3) := rfl
theorem decode_jmpv : decode 0xB0030000 = .ok (.jmpv 3) := rfl
theorem decode_retv : decode 0xB1030000 = .ok (.retv 3) := rfl
theorem decode_exit : decode 0xB2000000 = .ok .exit := rfl
theorem decode_nop : decode 0xB3000000 = .ok .nop := rfl
theorem decode_yield : decode 0xB4000000 = .ok .yield := rfl
theorem decode_trap : decode 0xB5000002 = .ok (.trap 2) := rfl
theorem decode_eret : decode 0xB6000000 = .ok .eret := rfl
theorem decode_trig : decode 0xB7000000 = .ok .trig := rfl
theorem decode_uld : decode 0xB803680B = .ok (.uld ⟨3, 3, 4, 11⟩) := rfl
theorem decode_ust : decode 0xB903680B = .ok (.ust ⟨3, 3, 4, 11⟩) := rfl
theorem decode_ulds : decode 0xBA03054B = .ok (.ulds ⟨3, 5, 4, 11⟩) := rfl
theorem decode_usts : decode 0xBB03054B = .ok (.usts ⟨3, 5, 4, 11⟩) := rfl
theorem decode_uatom : decode 0xBC03680B = .ok (.uatom ⟨3, 3, 4, 11⟩) := rfl
theorem decode_addr : decode 0xBD020407 = .ok (.addr ⟨2, 4, 7⟩) := rfl
theorem decode_aqry : decode 0xBE030200 = .ok (.aqry ⟨3, 2⟩) := rfl
theorem decode_fence : decode 0xC000000D = .ok (.fence ⟨1, 5⟩) := rfl
theorem decode_bara : decode 0xC1000507 = .ok (.bara ⟨5, 7⟩) := rfl
theorem decode_barw : decode 0xC2000507 = .ok (.barw ⟨5, 7⟩) := rfl
theorem decode_bars : decode 0xC3000507 = .ok (.bars ⟨5, 7⟩) := rfl
theorem decode_mopf : decode 0xC4000000 = .ok .mopf := rfl
theorem decode_mwait : decode 0xC5000002 = .ok (.mwait 2) := rfl
theorem decode_cbatch : decode 0xC6030000 = .ok (.cbatch 3) := rfl
theorem decode_cwait : decode 0xC7000500 = .ok (.cwait 5) := rfl
theorem decode_qbind : decode 0xC8020507 = .ok (.qbind ⟨2, 5, 7⟩) := rfl
theorem decode_qstat : decode 0xC9030200 = .ok (.qstat ⟨3, 2⟩) := rfl
theorem decode_cpy : decode 0xD0000500 = .ok (.cpy 5) := rfl
theorem decode_mfac : decode 0xD1000500 = .ok (.mfac 5) := rfl
theorem decode_mtrs : decode 0xD2000500 = .ok (.mtrs 5) := rfl
theorem decode_vtenc : decode 0xD3000500 = .ok (.vtenc 5) := rfl
theorem decode_twset : decode 0xD4020500 = .ok (.twset ⟨2, 5⟩) := rfl
theorem decode_bankcfg : decode 0xD5030507 = .ok (.bankcfg ⟨3, 5, 7⟩) := rfl
theorem decode_tsdep : decode 0xD8281413 = .ok (.tsdep ⟨40, 20, 2, 3⟩) := rfl
theorem decode_tscpy : decode 0xD9281493 = .ok (.tscpy ⟨40, 20, true, 2, 3⟩) := rfl
theorem decode_tstak : decode 0xDA281493 = .ok (.tstak ⟨40, 20, true, 2, 3⟩) := rfl
theorem decode_beat : decode 0xE0000002 = .ok (.beat 2) := rfl
theorem decode_sysrd : decode 0xE1030020 = .ok (.sysrd ⟨3, 32⟩) := rfl
theorem decode_syswr : decode 0xE2000560 = .ok (.syswr ⟨5, 96⟩) := rfl
theorem decode_pfxReg : decode 0xFF1BD2C0 = .ok (.pfxReg ⟨1, 2, 3, true, 2, 600⟩) := rfl
theorem decode_pfxImm : decode 0xFF7FFFF8 = .ok (.pfxImm 4194296) := rfl
theorem decode_pfxMem : decode 0xFFAB4001 = .ok (.pfxMem ⟨5, 1, 2, 16385⟩) := rfl

end Sys2Proof
end

