-- ==== Sys2Proof/Machine/Bits.lean ====
section
/-!
DEFINITION. The helper functions of R8 on words and integers, and the integer functions the lane and uniform words share
(R303, R331, R336, R361 to R364, R378, R381, R406 to R410, R441).
-/
namespace Sys2Proof.Machine

/-- bits(x, hi, lo) of a word, with lo and the width given (R8). -/
def field (w : Word) (lo n : Nat) : Nat := w.toNat / 2 ^ lo % 2 ^ n

/-- One bit of a word. -/
def bitAt (w : Word) (i : Nat) : Bool := w.getLsbD i

/-- A word from an integer, modulo 2^32. -/
def wordOf (x : Int) : Word := BitVec.ofInt 32 x

/-- sext(x, n) of an unsigned integer (R8). -/
def sextNat (x n : Nat) : Int :=
  let z := x % 2 ^ n
  if 2 ^ (n - 1) ≤ z then (z : Int) - 2 ^ n else z

/-- clamp(x, lo, hi) (R8). -/
def clampInt (x lo hi : Int) : Int := if x < lo then lo else if hi < x then hi else x

/-- sat_s32 (R8). -/
def satS32 (x : Int) : Int := clampInt x (-2147483648) 2147483647

/-- A clamp took place in sat_s32. -/
def satS32Clamps (x : Int) : Bool := decide (x < -2147483648) || decide (2147483647 < x)

/-- A comparison as a word: 1 or 0 (R6). -/
def boolWord (b : Bool) : Word := if b then 1 else 0

/-- Indices of the set bits of a 32-bit mask, ascending. -/
def lanesOf (m : Mask) : List Nat := (List.range 32).filter fun i => m.getLsbD i

/-- The mask with one bit. -/
def laneBit (i : Nat) : Mask := 1#32 <<< i

/-- The mask of a list of lanes. -/
def maskOf (l : List Nat) : Mask := l.foldl (fun m i => m ||| laneBit i) 0

/-- 32 words by lane. -/
def lanesFrom (f : Nat → Word) : List Word := (List.range 32).map f

/-! ## Integer functions -/

/-- CLZ (R336, R441). -/
def clzWord (w : Word) : Word := if w = 0 then 32 else BitVec.ofNat 32 (31 - w.toNat.log2)

/-- POPC (R381). -/
def popcWord (w : Word) : Word := BitVec.ofNat 32 (((List.range 32).filter fun i => w.getLsbD i).length)

/-- BREV: bit k goes to bit 31 - k (R331, R441). -/
def brevWord (w : Word) : Word :=
  (List.range 32).foldl (fun r k => if w.getLsbD k then r ||| (1#32 <<< (31 - k)) else r) 0

/-- UFFS: the lowest set bit, or 32 (R441). -/
def ffsWord (w : Word) : Word := BitVec.ofNat 32 (((List.range 32).find? fun k => w.getLsbD k).getD 32)

/-- ABS (R303). -/
def absWord (w : Word) : Word := if w.msb then -w else w

/-- IMULHS (R364). -/
def mulHighS (a b : Word) : Word := wordOf (a.toInt * b.toInt / 4294967296)

/-- IMULHN (R364). -/
def mulHighN (a b : Word) : Word := BitVec.ofNat 32 (a.toNat * b.toNat / 4294967296)

/-- The lesser, signed (R363). -/
def minS (a b : Word) : Word := if a.slt b then a else b
/-- The greater, signed (R363). -/
def maxS (a b : Word) : Word := if a.slt b then b else a
/-- The lesser, unsigned (R363). -/
def minN (a b : Word) : Word := if a.ult b then a else b
/-- The greater, unsigned (R363). -/
def maxN (a b : Word) : Word := if a.ult b then b else a

/-- SHL: the whole of b is the amount (R410). -/
def shlWord (a b : Word) : Word := if 32 ≤ b.toNat then 0 else a <<< b.toNat
/-- SHR (R410). -/
def shrWord (a b : Word) : Word := if 32 ≤ b.toNat then 0 else a >>> b.toNat
/-- SRA (R410). -/
def sraWord (a b : Word) : Word := if 32 ≤ b.toNat then (if a.msb then BitVec.allOnes 32 else 0) else a.sshiftRight b.toNat
/-- ROTLI (R409). -/
def rotlWord (a : Word) (s : Nat) : Word := a.rotateLeft s

/-- SEL and USEL (R406, R451). -/
def selWord (d a b : Word) : Word := if d = 0 then b else a

/-- rotl16(w, n) (R8). -/
def rotl16 (w n : Nat) : Nat :=
  let m := n % 16
  (w * 2 ^ m ||| w / 2 ^ (16 - m)) % 65536

/-- qround(x, f): back to f fraction bits, ties toward +∞ (R101). -/
def qround (x : Int) (f : Nat) : Int := if f = 0 then x else (x + 2 ^ (f - 1)) / 2 ^ f

/-- QMUL with shift count n (R102). -/
def qmulWord (n : Nat) (a b : Word) : Word := wordOf (satS32 (qround (a.toInt * b.toInt) n))

/-- rdiv(a, b): nearest, ties away from zero; b = 0 saturates (R8). -/
def rdiv (a b : Int) : Int :=
  if b = 0 then (if 0 ≤ a then 2147483648 else -2147483649)
  else
    let q : Int := ((2 * a.natAbs + b.natAbs) / (2 * b.natAbs) : Nat)
    if decide (a < 0) == decide (b < 0) then q else -q

/-- The four keys and multipliers of MIX (R378). -/
def mixRounds : List (Word × Word) :=
  [(0x5B1E7A93, 0xB5A34C6D), (0x3C4D91E5, 0x7E192F8B), (0x9F026B37, 0xD3C45A27), (0x71A8D4C9, 0x48E7B1F5)]

/-- MIX of a counter and a key (R378). -/
def mixWord (a b : Word) : Word :=
  let x := mixRounds.foldl (fun x r =>
    let y := x + b + r.1
    let z := y ^^^ (y >>> 16)
    z * r.2) a
  x ^^^ (x >>> 15)

/-- One byte of the eight of BPERM: 0 to 3 from a, 4 to 7 from b, else zero (R327). -/
def permByte (a b : Word) (s : Nat) : Nat :=
  if s < 4 then field a (8 * s) 8 else if s < 8 then field b (8 * (s - 4)) 8 else 0

/-- BPERM (R327). -/
def bpermWord (sel : Nat) (a b : Word) : Word :=
  BitVec.ofNat 32 ((List.range 4).foldl (fun r k => r + permByte a b (sel / 2 ^ (4 * k) % 16) * 2 ^ (8 * k)) 0)

/-- floor(sqrt x) from bit k - 1 down. -/
def isqrtBits : Nat → Nat → Nat → Nat
  | 0, _, r => r
  | k + 1, x, r => if (r + 2 ^ k) * (r + 2 ^ k) ≤ x then isqrtBits k x (r + 2 ^ k) else isqrtBits k x r

/-- floor(sqrt x). -/
def floorSqrt (x : Nat) : Nat := isqrtBits (x.log2 / 2 + 1) x 0

/-- isqrt(d) = floor(sqrt(d) + 1/2), and 0 for d < 0 (R8). -/
def isqrt (d : Int) : Int :=
  if d < 0 then 0 else ((floorSqrt (4 * d.toNat) + 1) / 2 : Nat)

end Sys2Proof.Machine
end

