-- ==== Sys2Proof/Machine/Float.lean ====
section
/-!
DEFINITION. FP32 and BF16 (R8, R84 to R88, R316). A finite binary32 value is a whole multiple of 2^-149, so a value is
held as its sign and that multiple; sums and products are exact, and one function rounds.
-/
namespace Sys2Proof.Machine

/-- A value in units that the context gives: ±n units, an infinity, or NaN. -/
inductive Fp where
  | nan
  | inf (neg : Bool)
  | fin (neg : Bool) (n : Nat)
deriving DecidableEq, Repr

/-- The canonical NaN (R85). -/
def qNaN : Word := 0x7FC00000

/-- The value of a binary32 word in units of 2^-149 (R84). -/
def fpOf (w : Word) : Fp :=
  let e := field w 23 8
  let f := field w 0 23
  let s := bitAt w 31
  if e = 255 then (if f = 0 then .inf s else .nan)
  else if e = 0 then .fin s f
  else .fin s ((8388608 + f) * 2 ^ (e - 1))

/-- The value of a BF16 half in units of 2^-149 (R88). -/
def fpOfHalf (h : Nat) : Fp := fpOf (BitVec.ofNat 32 (h * 65536))

/-- The exact sum of two values in the same units; a zero sum is negative when both terms are (R84, R316). -/
def fpAdd : Fp → Fp → Fp
  | .nan, _ => .nan
  | _, .nan => .nan
  | .inf s, .inf t => if s = t then .inf s else .nan
  | .inf s, .fin _ _ => .inf s
  | .fin _ _, .inf t => .inf t
  | .fin s m, .fin t n =>
    if s = t then .fin s (m + n)
    else if n < m then .fin s (m - n)
    else if m < n then .fin t (n - m)
    else .fin false 0

/-- The exact product; the units multiply (R84). -/
def fpMul : Fp → Fp → Fp
  | .nan, _ => .nan
  | _, .nan => .nan
  | .inf s, .inf t => .inf (s != t)
  | .inf s, .fin t n => if n = 0 then .nan else .inf (s != t)
  | .fin s m, .inf t => if m = 0 then .nan else .inf (s != t)
  | .fin s m, .fin t n => .fin (s != t) (m * n)

/-- The value with the sign changed. -/
def fpNeg : Fp → Fp
  | .nan => .nan
  | .inf s => .inf (!s)
  | .fin s n => .fin (!s) n

/-- The value in units k binary places finer. -/
def fpScale (k : Nat) : Fp → Fp
  | .fin s n => .fin s (n * 2 ^ k)
  | x => x

/-- floor(log2(num / den)) for positive num and den. -/
def log2Rat (num den : Nat) : Int :=
  let k : Int := (num.log2 : Int) - den.log2
  if (if 0 ≤ k then den * 2 ^ k.toNat ≤ num else den ≤ num * 2 ^ (-k).toNat) then k else k - 1

/-- num / den rounded to the nearest integer, ties to even. -/
def rneDiv (num den : Nat) : Nat :=
  let q := num / den
  let r := 2 * (num % den)
  if r < den then q else if den < r then q + 1 else q + q % 2

/-- The exponent and fraction bits of num / den rounded to nearest even, with `frac` fraction bits and the exponent
range of binary32; all ones above them is an infinity (R8). -/
def roundMag (frac : Nat) (num den : Nat) : Nat :=
  if num = 0 then 0
  else
    let k := log2Rat num den
    let e : Int := if k < -126 then -126 else k
    let q : Int := e - frac
    let r := if 0 ≤ q then rneDiv num (den * 2 ^ q.toNat) else rneDiv (num * 2 ^ (-q).toNat) den
    let bits := if k < -126 then r else (e + 126).toNat * 2 ^ frac + r
    if 255 * 2 ^ frac ≤ bits then 255 * 2 ^ frac else bits

/-- The word of a sign and 31 bits. -/
def signed (neg : Bool) (mag : Nat) : Word := BitVec.ofNat 32 ((if neg then 2147483648 else 0) + mag)

/-- rne_f32 of a value in units of 1 / den (R8). -/
def rneF32 (den : Nat) : Fp → Word
  | .nan => qNaN
  | .inf s => signed s 0x7F800000
  | .fin s n => signed s (roundMag 23 n den)

/-- rne_bf16 of a value in units of 1 / den: 16 bits (R8). -/
def rneBf16 (den : Nat) : Fp → Nat
  | .nan => 0x7FC0
  | .inf s => (if s then 0x8000 else 0) + 0x7F80
  | .fin s n => (if s then 0x8000 else 0) + roundMag 7 n den

/-- Units of a binary32 value, of a product of two. -/
def u1 : Nat := 2 ^ 149
def u2 : Nat := u1 * u1

/-! ## FP32 operations (R84, R85, R354, R357) -/

def fadd (a b : Word) : Word := rneF32 u1 (fpAdd (fpOf a) (fpOf b))
def fsub (a b : Word) : Word := rneF32 u1 (fpAdd (fpOf a) (fpNeg (fpOf b)))
def fmul (a b : Word) : Word := rneF32 u2 (fpMul (fpOf a) (fpOf b))
def ffma (a b d : Word) : Word := rneF32 u2 (fpAdd (fpMul (fpOf a) (fpOf b)) (fpScale 149 (fpOf d)))

def isNaN (w : Word) : Bool := decide (0x7F800000 < field w 0 31)

/-- A key that orders values that are not NaN, the two zeros equal. -/
def fpKey (w : Word) : Int := if bitAt w 31 then -(field w 0 31 : Int) else field w 0 31

/-- A key that orders −0 below +0. -/
def fpKeyZ (w : Word) : Int := if bitAt w 31 then -(field w 0 31 : Int) - 1 else field w 0 31

def fcmpEq (a b : Word) : Bool := !isNaN a && !isNaN b && fpKey a == fpKey b
def fcmpLt (a b : Word) : Bool := !isNaN a && !isNaN b && decide (fpKey a < fpKey b)
def fcmpLe (a b : Word) : Bool := !isNaN a && !isNaN b && decide (fpKey a ≤ fpKey b)
def fcmpUn (a b : Word) : Bool := isNaN a || isNaN b

/-- FMIN (R85, R358). -/
def fmin (a b : Word) : Word :=
  if isNaN a then (if isNaN b then qNaN else b) else if isNaN b then a else if fpKeyZ a ≤ fpKeyZ b then a else b

/-- FMAX (R85, R358). -/
def fmax (a b : Word) : Word :=
  if isNaN a then (if isNaN b then qNaN else b) else if isNaN b then a else if fpKeyZ a ≤ fpKeyZ b then b else a

/-- FNEG (R353). -/
def fneg (a : Word) : Word := if isNaN a then qNaN else a ^^^ 0x80000000
/-- FABS (R353). -/
def fabs (a : Word) : Word := if isNaN a then qNaN else a &&& 0x7FFFFFFF

/-! ## Integral values and conversions (R86) -/

/-- The four roundings to an integral value. -/
inductive IntRound where
  | nearest
  | toZero
  | down
  | up
deriving DecidableEq, Repr

/-- The magnitude of ±n/den rounded to an integer. -/
def roundIntMag (m : IntRound) (neg : Bool) (n den : Nat) : Nat :=
  match m with
  | .nearest => rneDiv n den
  | .toZero => n / den
  | .down => if neg then (n + den - 1) / den else n / den
  | .up => if neg then n / den else (n + den - 1) / den

/-- FP32 to an integer in [lo, hi] (R86). -/
def toInteger (m : IntRound) (lo hi : Int) (a : Word) : Word :=
  match fpOf a with
  | .nan => 0
  | .inf s => wordOf (if s then lo else hi)
  | .fin s n =>
    let x : Int := roundIntMag m s n u1
    wordOf (clampInt (if s then -x else x) lo hi)

def f2i (m : IntRound) (a : Word) : Word := toInteger m (-2147483648) 2147483647 a
def f2n (m : IntRound) (a : Word) : Word := toInteger m 0 4294967295 a

/-- FLOOR, CEIL, TRUNC, RINT (R86, R335, R404, R425). -/
def toIntegral (m : IntRound) (a : Word) : Word :=
  match fpOf a with
  | .nan => qNaN
  | .inf _ => a
  | .fin s n => signed s (roundMag 23 (roundIntMag m s n u1) 1)

/-- I2F and UI2F (R359). -/
def i2f (a : Word) : Word := signed a.msb (roundMag 23 a.toInt.natAbs 1)
/-- N2F (R384). -/
def n2f (a : Word) : Word := signed false (roundMag 23 a.toNat 1)

/-! ## BF16 (R88, R315, R316, R326, R351) -/

/-- A BF16 half as FP32, NaN made canonical (R326). -/
def halfToF32 (h : Nat) : Word :=
  let w := BitVec.ofNat 32 (h * 65536)
  if isNaN w then qNaN else w

def bf2f (a : Word) : Word := halfToF32 (field a 0 16)
def bf2fh (a : Word) : Word := halfToF32 (field a 16 16)
def f2bf (a : Word) : Word := BitVec.ofNat 32 (rneBf16 u1 (fpOf a))

/-- Two BF16 halves from a function of the halves. -/
def perHalf (f : Nat → Nat) : Word := BitVec.ofNat 32 (f 0 + 65536 * f 16)

def badd2 (a b : Word) : Word :=
  perHalf fun lo => rneBf16 u1 (fpAdd (fpOfHalf (field a lo 16)) (fpOfHalf (field b lo 16)))
def bmul2 (a b : Word) : Word :=
  perHalf fun lo => rneBf16 u2 (fpMul (fpOfHalf (field a lo 16)) (fpOfHalf (field b lo 16)))
def bfma2 (a b d : Word) : Word :=
  perHalf fun lo => rneBf16 u2
    (fpAdd (fpMul (fpOfHalf (field a lo 16)) (fpOfHalf (field b lo 16))) (fpScale 149 (fpOfHalf (field d lo 16))))
def bdot2 (a b d : Word) : Word :=
  rneF32 u2 (fpAdd (fpAdd (fpMul (fpOfHalf (field a 0 16)) (fpOfHalf (field b 0 16)))
    (fpMul (fpOfHalf (field a 16 16)) (fpOfHalf (field b 16 16)))) (fpScale 149 (fpOf d)))

/-! ## RCP and SQRT (R397, R412) -/

/-- RCP: rne_f32(1 / a) (R397). -/
def rcp (a : Word) : Word :=
  match fpOf a with
  | .nan => qNaN
  | .inf s => signed s 0
  | .fin s n => if n = 0 then signed s 0x7F800000 else signed s (roundMag 23 u1 n)

/-- The exponent and fraction bits of sqrt(num / den), correctly rounded: the root of num × den over den, with a bit
below it that says whether it is exact. -/
def sqrtMag (num den : Nat) : Nat :=
  let x := num * den
  let r := floorSqrt x
  roundMag 23 (2 * r + (if r * r = x then 0 else 1)) (2 * den)

/-- SQRT: rne_f32(sqrt(a)) (R412). -/
def fsqrt (a : Word) : Word :=
  match fpOf a with
  | .nan => qNaN
  | .inf s => if s then qNaN else a
  | .fin s n => if n = 0 then a else if s then qNaN else signed false (sqrtMag n u1)

end Sys2Proof.Machine
end

