-- ==== Sys2Proof/Machine/State.lean ====
section
/-!
DEFINITION. The state of the part: everything the spec gives the machine, as plain data, and State.reset.
A Map is a list of (key, value) pairs with strictly rising keys. A map of bytes or words lists no entry equal to
zero, so that equal contents are equal data; Machine/Store.lean holds the operations that keep the form.
-/
namespace Sys2Proof.Machine

/-- A finite map: strictly rising keys. -/
abbrev Map (α : Type) := List (Nat × α)
/-- Bytes by address, zero where nothing is listed (R285: a wipe writes zero). -/
abbrev Memory := List Host.Cell

/-! ## Registers of a group -/

/-- What is kept beside FRAME and in the TLB of a leaf (R207, R210). -/
structure LeafInfo where
  r : Bool
  w : Bool
  x : Bool
  ns : Bool
  cls : BitVec 2
deriving DecidableEq, Repr

/-- An address register (R210). -/
structure AddrReg where
  base : DWord
  extent : Word
  limit : Word
  frame : BitVec 40
  leaf : LeafInfo
  valid : Bool
deriving DecidableEq, Repr

/-- A trellis window register (R433). -/
structure WinReg where
  addr : BitVec 28
  rate : BitVec 4
  count : BitVec 25
  valid : Bool
deriving DecidableEq, Repr

/-- A queue register's binding: the first bank of its FIFO and its role (R155). -/
structure QBind where
  bank : Nat
  role : BitVec 2
deriving DecidableEq, Repr

/-- A lane-set bypass latch: 32 values and the lanes that were active when it was written (R43, R396). -/
structure LaneLatch where
  vals : List Word
  mask : Mask
deriving DecidableEq, Repr

/-- The chain a path is in (R42 to R45): words so far, latches with the most recent first, latch-reading words in a row. -/
structure Chain where
  len : Nat
  lane : List LaneLatch
  uni : List Word
  latchRun : Nat
deriving DecidableEq, Repr

/-- A prefix issued before its word (R65). -/
inductive Pfx where
  | reg (p : PfxReg)
  | imm (v : BitVec 22)
  | mem (p : PfxMem)
deriving DecidableEq, Repr

/-- Why a path does not issue (R51, R197, R323, R463). A path in a re-executing wait stands at its word. -/
inductive Wait where
  /-- not waiting -/
  | ready
  /-- a word of this path waits for its memory data or old values (R369, R311) -/
  | memory (flight : Nat)
  /-- FENCE with a release part, before it completes (R197) -/
  | fence (scope : BitVec 3)
  /-- a release before a memory word, barrier arrival, TSDEP, TRIG or last EXIT (R198, R201, R187, R228) -/
  | release (scope : BitVec 3)
  /-- a barrier waiter: block, offset, awaited phase, polling or in the named-barrier file (R323) -/
  | barrier (block off : Nat) (phase polling : Bool)
  /-- the queue registers the word pops and pushes lack a row or room (R49) -/
  | queue (pop push : Option Nat)
  /-- a parked or travelling tuple request (R183) -/
  | tuple (id : Nat)
  /-- a gang member that has not started: its member index (R148) -/
  | gang (member : Nat)
  /-- reservation entries (R108, R134) -/
  | entries
  /-- copy-engine entries (R343) -/
  | copyEntry
  /-- CWAIT until the copies of batch n are complete (R345) -/
  | cwait (n : Word)
  /-- CWAIT n after its copies: until the time now reaches the latest GWCT plus the guard (R202); upTo is the batch that was open as it
  issued -/
  | cwaitTime (n upTo : Word) (until_ : Nat)
  /-- MWAIT (R126) -/
  | mwait (n : Nat)
  /-- MOPF (R125) -/
  | mopf
  /-- the last EXIT of a group, before its engines drain (R348) -/
  | exitDrain
  /-- BANKCFG leaving CACHE: bank, requested mode and destination register (R153) -/
  | bankcfg (bank mode dst : Nat)
  /-- an instruction-cache miss (R30) -/
  | icache
deriving DecidableEq, Repr

/-- Bytes of one line that the part has loaded for a path before its words, read together: the tile where the page is not resident, the first
key, the bytes, and which of them are poisoned (R194, log 3). -/
structure Early where
  tile : Option (Nat × Nat)
  key : Nat
  bytes : List Byte
  psn : List Bool
  /-- the CACHE policy they were loaded with (R68), whether the cluster cache had them, and whether the home returned the whole line (R190) -/
  cache : BitVec 2
  hit : Bool
  whole : Bool
  /-- where an L2 slice was read, whether it missed (R263) -/
  l2 : Option Bool
deriving DecidableEq, Repr

/-- A word that has issued behind a word of its path that still waits (R120, R417, log 3): the offset of its boundary, the value a SYSRD has read,
and the registers the waiting word was to write, which are not complete at that word: group registers, and keys 32 x register + lane of
vector registers. -/
structure Ahead where
  pc : Word
  val : Option Word
  greg : List Nat
  vreg : List Nat
  /-- words from the boundary on: the word, and a prefix before it -/
  len : Nat := 1
deriving DecidableEq, Repr

/-- A path (R29): pc is the offset of its next instruction boundary, that is of the first prefix where prefixes of the
next word have issued (R72). -/
structure Path where
  pc : Word
  mask : Mask
  join : Option Nat
  /-- prefixes issued since the boundary, oldest first -/
  pfx : List Pfx
  chain : Chain
  wait : Wait
  /-- the sibling of a trapped path, stopped at its next boundary until ERET (R269) -/
  stopped : Bool
  /-- tick at which the next word became ready (rank 4 of R50) -/
  readyAt : Nat
  /-- tick before which the path is not eligible (R463) -/
  holdUntil : Nat
  /-- tick at which the cycles of its last scratchpad word end (R149) -/
  busyUntil : Nat
  promoted : Bool
  /-- lanes a replayed memory word is executed for (R215, R163) -/
  replay : Option Mask
  /-- the replay follows a page fault, so that a new one sets REPEAT (R215) -/
  refault : Bool
  /-- an ABORT has been written for the page fault of the path's word, and the trap waits for the end of the sibling's chain (R46, R215) -/
  abort : Bool
  /-- the release before the word at pc has been performed (R198) -/
  released : Bool
  /-- tick of its last chain word, or of that of a path that has left the other slot: until then the sibling was kept from selection (R46,
  R50) -/
  chainAt : Nat
  /-- loads of later words that the part has performed early (R194, log 3) -/
  early : List Early
  /-- words behind a load that have issued before its data returned (log 3) -/
  ahead : List Ahead
  /-- fetches that a word of the path still waits for, whatever its group is parked for (R163, R171) -/
  awaits : List Nat
  /-- the identifier before which the accesses stand that its release waits for (R197) -/
  upTo : Nat
  /-- the latest tick up to which it was not eligible: the count of cycles before its promotion begins there (R50) -/
  idleAt : Nat := 0
deriving DecidableEq, Repr

/-- The kind of a divergence-stack entry (R35); 0b00, never used, is an entry not in the list. -/
inductive EntryKind where
  | path
  | join
  | retired
deriving DecidableEq, Repr

/-- A divergence-stack entry (R35). -/
structure StackEntry where
  pc : Word
  mask : Mask
  arrived : Mask
  kind : EntryKind
  /-- JIDX, or none where JNONE = 1 -/
  join : Option Nat
deriving DecidableEq, Repr

/-- TRAP.CAUSE to TRAP.ADDR (R268). -/
structure TrapRegs where
  cause : BitVec 8
  info : BitVec 8
  slot : Bool
  handler : Bool
  pc : Word
  mask : Mask
  addr : DWord
deriving DecidableEq, Repr

/-- What a trap reports of its group, once: poisoned operations of the engines (R127), batches that an engine reset has marked (R345), and a write
that a port took with it (R283, R292). -/
structure Told where
  ops : Nat := 0
  marks : List Word := []
  lost : Bool := false
deriving DecidableEq, Repr

/-- The return record of a trap (R269): the trapped path's mask and join, SP, and the other slot's contents. -/
structure ReturnRec where
  mask : Mask
  join : Option Nat
  sp : Nat
  other : Option Path
  /-- tick of the delivery, and the path as it stood at its word, should that word have to be executed again (R270) -/
  at_ : Nat
  own : Path
  /-- what the trap has reported, should it not be the one delivered, with the address of the write (R270) -/
  told : Option (Told × Nat) := none
deriving DecidableEq, Repr

/-- A group parked on a page fault or a forced fetch (R215, R163): the path slot, its replay mask, and what it waits for. -/
inductive Park where
  /-- a fault record of this sequence number has not been answered: KIND and address -/
  | page (slot : Bool) (replay : Mask) (seq kind addr : Nat)
  /-- the pages with these fetch numbers are not resident yet -/
  | fetch (slot : Bool) (replay : Mask) (fetches : List Nat)
deriving DecidableEq, Repr

/-- The 32 accumulator registers of a quarter operation that no MWAIT covers yet (R120): its set, first register and quarter,
and whether the operation is complete. -/
structure AccRun where
  set : Nat
  first : Nat
  quarter : Nat
  done : Bool
deriving DecidableEq, Repr

/-- A group (R23 to R29, R225). -/
structure Group where
  id : Nat
  ctx : Nat
  vf : Nat
  /-- number of the launch -/
  launch : Nat
  /-- identifier of the block -/
  block : Nat
  /-- index of the group in its block, GRPINBLK -/
  index : Nat
  /-- the launch's secure flag (R208) -/
  secure : Bool
  cluster : Nat
  core : Nat
  slot : Nat
  vCount : Nat
  gCount : Nat
  /-- vector registers: key 32 x register + lane -/
  v : Map Word
  /-- group registers -/
  g : Map Word
  areg : List AddrReg
  wreg : List WinReg
  qreg : List (Option QBind)
  path0 : Option Path
  path1 : Option Path
  /-- real lanes (R24) -/
  real : Mask
  /-- helper lanes (R25) -/
  helper : Mask
  exited : Mask
  /-- entry 0 first; SP is its length (R35) -/
  stack : List StackEntry
  stackCap : Nat
  /-- poisoned 64-byte granules of the stack's memory and their written masks (R35, R279, R280) -/
  stackPsn : Map (BitVec 64)
  trap : TrapRegs
  ret : Option ReturnRec
  /-- GTIME bits 63:32 of the last read of GTIME.LO (R419) -/
  timeSnap : Word
  /-- counter bits 47:32 with SAT above them, of the last read of EN.LO (R266) -/
  enSnap : BitVec 17
  /-- H0 to H7, in ns (R196) -/
  horizons : List Nat
  /-- matrix operations posted and not complete (R126) -/
  outstanding : Nat
  /-- operations completed poisoned and not reported (R127) -/
  psnOps : Nat
  /-- accumulators that no MWAIT covers: their registers read UNSPECIFIED (R120) -/
  accRuns : List AccRun
  /-- what the operations left in them so far, key 32 x register + lane (R120) -/
  acc : Map Word
  /-- keys that a word wrote meanwhile: their final contents are UNSPECIFIED (R120) -/
  accHit : List Nat
  /-- number the next CBATCH returns (R334) -/
  batchNext : Word
  /-- closed batches with copies, or marked: number, latest GWCT in the module, latest elsewhere, marked (R345) -/
  batches : List (Word × Nat × Nat × Bool)
  /-- address of a write that a port took with it when it went down: POISON at the group's next release (R283) -/
  lost : Option Nat
  triggered : Bool
  park : Option Park
  /-- the group stops at its next boundaries (R272, R273) -/
  stopping : Bool
  /-- the cycle of its cluster in which it took its slot (R473) -/
  since : Nat := 0
deriving DecidableEq, Repr

/-! ## Blocks and launches -/

/-- A run of scratchpad bytes of a factor command that no MWAIT covers yet (R135). -/
structure Claim where
  cmd : Nat
  grp : Nat
  off : Nat
  len : Nat
  done : Bool
deriving DecidableEq, Repr

/-- A block that has been placed (R146, R233). -/
structure Block where
  id : Nat
  launch : Nat
  ctx : Nat
  /-- block index b (R230) -/
  index : Nat
  gang : Nat
  member : Nat
  /-- the cluster whose banks hold the scratchpad -/
  cluster : Nat
  scratchBytes : Nat
  scratch : Memory
  /-- poisoned 64-byte granules and their written masks (R279, R280) -/
  psn : Map (BitVec 64)
  /-- arrays of factor commands that no MWAIT covers: their bytes read UNSPECIFIED (R135) -/
  claims : List Claim
  /-- the bytes the sequencer sees in those arrays -/
  shadow : Memory
  /-- offsets written there meanwhile: their final contents are UNSPECIFIED (R135) -/
  hits : List Nat
  /-- bank of each 4 KiB granule, ascending offset (R146) -/
  granules : List Nat
  /-- groups not yet ended -/
  live : Nat
  /-- groups triggered or exited (R229) -/
  done : Nat
  groups : Nat
deriving DecidableEq, Repr

/-- The fields of a launch parameter block (R223). -/
structure Lpb where
  codeBase : Nat
  entry : Nat
  gx : Nat
  gy : Nat
  gz : Nat
  threads : Nat
  gang : Nat
  flags : Nat
  vRegs : Nat
  gRegs : Nat
  cls : Nat
  floor : Nat
  scratch : Nat
  ctx : Nat
  prio : Nat
  divstack : Nat
  trapVec : Nat
  tgt : Nat
  ivl : Nat
  tag : Nat
  mapKind : Nat
  mapP : Nat
  mapQ : Nat
  mapR : Nat
  bitmap : Nat
  args : List Word
  /-- byte 0x2F is zero -/
  zero2F : Bool
  /-- bytes 0x40 to 0x7F are zero -/
  zeros : Bool
deriving DecidableEq, Repr

/-- An accepted launch (R222 to R231). -/
structure Launch where
  id : Nat
  vf : Nat
  queue : Nat
  /-- sequence number; 0 once its queue has started afresh (R221) -/
  seq : Nat
  lpb : Lpb
  /-- the launch that its tag named when it was accepted (R226) -/
  producer : Option Nat
  /-- the latest visibility time of the writes of its groups that have ended, and of its bitmap (R231) -/
  visible : Nat
  /-- tick of acceptance -/
  accepted : Nat
  /-- blocks placed -/
  started : List Nat
  /-- blocks every one of whose groups is triggered or has exited, each with the tick (R229) -/
  complete : List (Nat × Nat)
  /-- blocks every one of whose groups has exited -/
  exited : List Nat
  /-- completed blocks whose bitmap bit has been written (R230) -/
  bitsSet : List Nat
  /-- reservations of R235: block and cluster -/
  reserved : List (Nat × Nat)
  /-- completed, or given up with its context -/
  finished : Bool
deriving DecidableEq, Repr

/-! ## Contexts and functions -/

/-- LOOP registers and parameters (R244, R245). -/
structure LoopRegs where
  tgt : BitVec 16
  meas : BitVec 16
  integ : Int
  level : BitVec 16
  kp : BitVec 16
  ki : BitVec 16
  imin : Int
  imax : Int
  base : BitVec 16
  isat : Bool
  lsat : Bool
  short : Bool
  held : Bool
  partialMerge : Bool
  /-- interval code n, or 0 before any launch (R240) -/
  ivl : Nat
  beats : Nat
  /-- lo and hi of the five actuators -/
  lo : List Nat
  hi : List Nat
  ask : List Nat
  pos : List Nat
  /-- grants formed and not yet in force (R241) -/
  nextPos : List Nat
  /-- parameters set by the host that wait for the boundary (R245) -/
  pendingSet : Option LoopParams
  /-- GTIME of the next boundary, in ns -/
  nextBoundary : Nat
  /-- beats issued at or after the next boundary, before it is processed (R239) -/
  late : Nat
  /-- the target before a write issued at or after the next boundary, with that one's GTIME and rank (R241) -/
  tgtOld : Option (BitVec 16 × Nat × Nat)
  /-- GTIME at which the interval began -/
  began : Nat
  /-- when the context was not live, from and to: those that bear on a boundary still to be made (R243) -/
  downs : List (Nat × Option Nat)
  /-- the first interval has not begun: the next boundary opens it (R224) -/
  opening : Bool
deriving DecidableEq, Repr

/-- The merge of a spanning context's boundary (R252). -/
structure Merge where
  /-- GTIME of the boundary -/
  boundary : Nat
  /-- this member's boundary has come: until then counts that came early wait -/
  started : Bool
  /-- the target that takes part in the boundary, with the GTIME and rank of its write (R241, R253) -/
  tgt : BitVec 16
  stamp : Nat × Nat
  /-- member, count, live -/
  counts : List (Nat × Nat × Bool)
  /-- the merge has been made, or the boundary is over -/
  done : Bool
deriving DecidableEq, Repr

/-- Why a context stops: a pre-emption (R273), a suspension by the allocator (R250), a context fault (R272). -/
inductive StopKind where
  | preempt
  | suspend
  | fault
deriving DecidableEq, Repr

/-- A context's place in its life (R250, R272, R273). -/
inductive CtxState where
  | live
  /-- its paths stop at their next boundaries; the Nat is the tick of step 2 of R273 -/
  | stopping (kind : StopKind) (since : Nat)
  /-- its image is written: pre-empted -/
  | saved
  /-- suspended by the allocator, image written (R250) -/
  | suspended
  | faulted
deriving DecidableEq, Repr

/-! ## Engines -/

/-- A row of a FIFO: 32 words, and its two granules' poison (R154, R279). -/
structure Row where
  data : List Word
  psn : Bool × Bool
  /-- the copy that pushed it (R344) -/
  copy : Option Nat := none
deriving DecidableEq, Repr

/-- A subscriber of a multicast FIFO (R157): group, queue register, read position, retired. -/
structure Sub where
  grp : Nat
  q : Nat
  pos : Nat
  retired : Bool
deriving DecidableEq, Repr

/-- A FIFO (R154 to R157). Row k of the list has stream position base + k. -/
structure Fifo where
  first : Nat
  wlog : Nat
  mc : Bool
  subs : Nat
  rows : List Row
  base : Nat
  readers : List Sub
  /-- every binding: group and queue register -/
  bound : List (Nat × Nat)
  /-- the cluster cycle in which rows last moved, and the rows accepted and delivered in it (R154) -/
  rate : Nat × Nat × Nat
  /-- rows of chunks that an engine reset has cut short, by group and queue register: they are popped and discarded as they come (R109,
  R127) -/
  owed : List (Nat × Nat × Nat) := []
deriving DecidableEq, Repr

/-- Bank modes (R150). -/
inductive BankMode where
  | cache
  | scratch
  | fifo
deriving DecidableEq, Repr

/-- One cluster bank (R150): mode, the context it is allocated to, granules in use. -/
structure Bank where
  mode : BankMode
  owner : Option Nat
  granules : Nat
  /-- a BANKCFG is taking it out of CACHE mode (R153) -/
  leaving : Bool
deriving DecidableEq, Repr

/-- A held partial of an update-only line (R200): offset in the line, width, code, data. -/
structure Partial where
  off : Nat
  width : Nat
  code : Nat
  data : Nat
deriving DecidableEq, Repr

/-- The kind of a cluster-cache line (R150). -/
inductive LineKind where
  | lease (expiry : Nat)
  | owned
  | updateOnly
deriving DecidableEq, Repr

/-- A translation kept in a TLB (R212, R213). -/
structure TlbEntry where
  ctx : Nat
  vf : Nat
  /-- page address and size -/
  page : Nat
  size : Nat
  key : Nat
  part : Nat
  leaf : LeafInfo
  res : BitVec 3
  wp : Bool
  rp : Bool
  leafKey : Nat
deriving DecidableEq, Repr

/-- A line of the cluster cache (R151, R199, R200). Until its lease expires the home's bytes of a line do not change (R190 to
R192), and an OWNED line's bytes reach no other reader before its recall, so the bytes of both stand in State.mem alone. -/
structure CLine where
  line : Nat
  kind : LineKind
  bank : Nat
  used : Nat
  ctx : Nat
  /-- poisoned granules of the line's copy: granule 0 and 1 -/
  psn : Bool × Bool
  partials : List Partial
  /-- an update-only line whose page has left HBM: its page's leaf and the line's address (R163) -/
  away : Option (TlbEntry × Nat)
  /-- what the home holds of a line held OWNED, and its poison (R199, R282) -/
  base : Option (List Byte × Bool × Bool) := none
deriving DecidableEq, Repr

/-- The format record and operands MMA captures at issue (R106, R112, R115). -/
structure MmaDesc where
  fmt : Word
  k : Nat
  asofs : Nat
  bsofs : Nat
  bmofs : Nat
  win : Option WinReg
  accz : Bool
  dreg : Nat
  /-- FIFO first banks and queue registers of the streams; B absent for a cast format -/
  qa : Nat
  qb : Nat
  fifoA : Nat
  fifoB : Option Nat
deriving DecidableEq, Repr

/-- The scratchpad bytes that a set reads while its pass computes (R121): scale bytes of its rows and columns, and cast blocks; and the quarters
whose bytes among them carry poison. -/
structure Side where
  asc : List Byte
  bsc : List Byte
  cast : List Byte
  taint : List Nat
deriving DecidableEq, Repr

/-- A quarter set (R108): one reservation entry for each quarter listed. -/
structure MSet where
  id : Nat
  grp : Nat
  block : Nat
  ctx : Nat
  cls : Nat
  prio : Nat
  rank : Nat
  /-- tick of posting, and the cluster's cycle (R109) -/
  posted : Nat
  cycle : Nat
  quarters : List Nat
  desc : MmaDesc
  /-- bitmap bytes, once read (R122) -/
  bitmap : Option (List Byte)
  /-- the scratchpad bytes read were poisoned -/
  psn : Bool
  waited : Bool
  promoted : Bool
  /-- scale bytes and cast blocks, once read (R121) -/
  side : Option Side := none
deriving DecidableEq, Repr

/-- Rows a set of the running pass still takes from a FIFO, and those it has (R109, R124). -/
structure Stream where
  setId : Nat
  isA : Bool
  fifo : Nat
  /-- reading group and queue register -/
  grp : Nat
  q : Nat
  need : Nat
  got : List Row
deriving DecidableEq, Repr

/-- The pass in the engine (R122, R123). -/
structure Pass where
  sets : List MSet
  streams : List Stream
  start : Nat
  /-- compute cycles of R123 -/
  compute : Nat
  /-- slices that are not removed, ascending -/
  kept : List Nat
  /-- the earliest end of compute that the rows delivered so far allow (R124) -/
  rowEnd : Nat
deriving DecidableEq, Repr

/-- A posted MFAC or MTRS (R129 to R136). -/
structure FactorCmd where
  id : Nat
  grp : Nat
  block : Nat
  ctx : Nat
  solve : Bool
  desc : List Word
  /-- cluster cycle of posting, and the poster's CLUSTER × 4 + CORE and slot (R134) -/
  cycle : Nat
  rank : Nat
  next : Nat
  started : Bool
  /-- tick at which the next matrix completes (R141) -/
  due : Nat
  /-- a matrix of it was poisoned (R136) -/
  psn : Bool
  /-- a restore placed it: it takes an entry once fewer than 64 are in use (R136) -/
  restored : Bool := false
deriving DecidableEq, Repr

/-- One run of bytes of a copy: source and destination, both resolved at issue (R341, R342). -/
inductive Place where
  /-- a byte key of State.mem -/
  | mem (key : Nat)
  /-- an address in a tile that was not resident at issue -/
  | tile (e : TlbEntry) (va : Nat)
  /-- a scratchpad address X of the posting group (R147) -/
  | scratch (x : Nat)
  /-- byte `phase` of a fill pattern, and on -/
  | fill (pattern : Word) (phase : Nat)
  /-- the FIFO that the queue register was bound to at issue -/
  | queue (first wlog subs : Nat) (mc : Bool)
deriving DecidableEq, Repr

/-- A run of a copy or a casting command. -/
structure Seg where
  src : Place
  dst : Place
  len : Nat
  /-- where the run begins in its row -/
  ofs : Nat := 0
deriving DecidableEq, Repr

/-- A posted copy (R343). -/
structure Copy where
  id : Nat
  grp : Nat
  ctx : Nat
  batch : Word
  prio : Bool
  /-- the runs not yet moved, and every run -/
  segs : List Seg
  all : List Seg
  /-- bytes of a queue destination gathered and not yet pushed, and which of them are poisoned -/
  carry : List Byte
  carryPsn : List Bool
deriving DecidableEq, Repr

/-- A posted casting command (R455 to R461). -/
structure CastCmd where
  id : Nat
  grp : Nat
  ctx : Nat
  cluster : Nat
  batch : Word
  rate : Nat
  count : Nat
  next : Nat
  src : List Seg
  blocks : List Seg
  costs : List Seg
  due : Nat
deriving DecidableEq, Repr

/-- What a core has chosen in a cycle and has not yet issued, by group slot and path slot (R13, R50, R270): the cluster's cycle, the
core, groups and path slots. -/
structure IssuePlan where
  cycle : Nat
  core : Nat
  rest : List (Nat × Bool)
deriving DecidableEq, Repr

/-- A slot of a core that a group has left, with its context, and the first and the last cycle in which the group held it (R473). -/
structure LeftSlot where
  core : Nat
  slot : Nat
  ctx : Nat
  since : Nat
  upTo : Nat
deriving DecidableEq, Repr

/-- A cluster (R11, R20). -/
structure Cluster where
  id : Nat
  pool : Nat
  /-- tick at which a reassignment ends; no block is placed before (R260) -/
  moving : Option (Nat × Nat)
  banks : List Bank
  lines : List CLine
  fifos : List Fifo
  sets : List MSet
  pass : Option Pass
  /-- the pass before it, past its last compute cycle and not yet written back (R123) -/
  draining : Option Pass
  factor : List FactorCmd
  copies : List Copy
  /-- named-barrier entries: core, block, offset (R323) -/
  barFile : List (Nat × Nat × Nat)
  /-- epochs charged so far, core 0 to 3 (R264) -/
  epochs : List Nat
  /-- cycles counted up to tick cycTick, for epochs across pool changes (R264) -/
  cycBase : Nat
  cycTick : Nat
  inService : List Bool
  /-- tick since which the cluster is in a pool faster than CEIL (R259) -/
  fastSince : Option Nat
  /-- the latest core to issue in a cycle, with its choices -/
  plan : Option IssuePlan
  /-- the slots that groups have left in the present cycle, or in which they stood as an epoch ended that is not charged yet (R473) -/
  left : List LeftSlot := []
deriving DecidableEq, Repr

/-! ## Memory side -/

/-- The kinds of memory request. -/
inductive ReqKind where
  | load
  | store
  | red
  | atom
deriving DecidableEq, Repr

/-- Where the data of a load or atomic go (R57, R439). -/
inductive Dst where
  /-- v[D] onward of the accessing lane -/
  | lanes (d : Nat)
  /-- v[D] onward of every lane of the mask (U = 1) -/
  | bcast (d : Nat) (mask : Mask)
  /-- g[D] onward -/
  | uni (d : Nat)
  | nowhere
deriving DecidableEq, Repr

/-- One access of a word: lane (0 for a single access), virtual address, byte key, tile where the page is not
resident, operand bytes, and what came back. -/
structure Acc where
  lane : Nat
  va : Nat
  key : Nat
  tile : Option TlbEntry
  data : List Byte
  /-- the compared value of CAS -/
  cmp : Nat
  done : Bool
  result : List Byte
  /-- address of the first poisoned byte read -/
  psn : Option Nat
deriving DecidableEq, Repr

/-- A word's accesses on their way (R190, R191, R199, R200). -/
structure Flight where
  id : Nat
  grp : Nat
  slot : Bool
  cluster : Nat
  ctx : Nat
  kind : ReqKind
  /-- MF: width, or operation (R60) -/
  mf : Nat
  size : Nat
  cache : BitVec 2
  /-- performed in the cluster cache rather than at home (R199, R200) -/
  local_ : Bool
  accs : List Acc
  /-- the lanes the word is executed for, and whether one access stands for them all (R57, R215) -/
  lanes : Mask
  one : Bool
  dst : Dst
  /-- helper lanes and lanes that perform nothing are not among accs; lanes that park afterwards -/
  pageLanes : Mask
  pageLevel : Nat
  pageVa : Nat
  fetchLanes : Mask
  fetches : List Nat
  /-- latest visibility time in the module and elsewhere, once every access has one -/
  visMod : Nat
  visOut : Nat
  /-- energy class charged at completion -/
  cls : Nat
  /-- the path waits for it (R369, R311, log 3) -/
  blocking : Bool
  /-- the word acquires (R198) -/
  acq : Bool
  /-- tick of issue -/
  posted : Nat
deriving DecidableEq, Repr

/-- A write that its home has accepted and that is not visible yet (R191, R192). -/
structure PWrite where
  id : Nat
  key : Nat
  data : List Byte
  gwct : Nat
  grp : Nat
  slot : Bool
  /-- clean store, combination, or poisoned data (R280) -/
  clean : Bool
  psn : Bool
  ctx : Nat
deriving DecidableEq, Repr

/-- What a home knows of a line (R190, R199, R200). -/
structure HomeLine where
  leaseUntil : Nat
  owned : Option Nat
  upd : List Nat
deriving DecidableEq, Repr

/-- A line held in L2 (R14, R159, R160): slice of the part, set, way, the context that filled it. -/
structure L2Line where
  slice : Nat
  set : Nat
  way : Nat
  ctx : Nat
  used : Nat
  dirty : Bool
  /-- what HBM holds of a dirty line, and the poison of its two granules there (R282) -/
  hbm : List Byte
  hbmPsn : Bool × Bool
deriving DecidableEq, Repr

/-- A manifest entry (R165). -/
structure ManEntry where
  ofs : BitVec 16
  wlog : BitVec 2
  red : Bool
  psn : Bool
  code : BitVec 4
  ctx : BitVec 12
  data : DWord
deriving DecidableEq, Repr

/-- A manifest that is not empty (R164): function, tile address bits 56:16, home slice, entries in append order. -/
structure Manifest where
  vf : Nat
  tile : Nat
  part : Nat
  slice : Nat
  entries : List ManEntry
deriving DecidableEq, Repr

/-- A page being fetched (R170 to R173, R495). -/
structure Fetch where
  id : Nat
  vf : Nat
  ctx : Nat
  part : Nat
  page : Nat
  size : Nat
  /-- first key of the remote bytes -/
  remote : Nat
  /-- frame taken from the pool, once there is one -/
  frame : Option Nat
  /-- an append to the page overflowed (R170) -/
  overflow : Bool
  /-- the frame still held the page's bytes when its swap-out ended, and they do not move (R172) -/
  inPlace : Bool
  /-- an instruction fetch forced it: no context pays (R472) -/
  free : Bool := false
deriving DecidableEq, Repr

/-- A request of a path that waits on a fetch: the uncore cycle in which it reached the tile's home, and the tile (R171, R173). -/
structure Replay where
  fetch : Nat
  grp : Nat
  slot : Bool
  cycle : Nat
  tile : Nat
deriving DecidableEq, Repr

/-- A swap-out whose copy is not complete (R172, R173). -/
structure Swap where
  id : Nat
  vf : Nat
  part : Nat
  page : Nat
  size : Nat
  remote : Nat
  /-- partition-relative frame and its first key -/
  frame : Nat
  frameKey : Nat
deriving DecidableEq, Repr

/-- A stored tuple (R175). -/
structure Tuple where
  vf : Nat
  base : Nat
  part : Nat
  slice : Nat
  tag : Word
  fields : List DWord
  seq : Nat
  psn : Bool
deriving DecidableEq, Repr

/-- The three tuple words. -/
inductive TupleKind where
  | dep
  | cpy
  | tak
deriving DecidableEq, Repr

/-- Where a tuple request stands (R183). -/
inductive TupleStage where
  /-- a deposit before its release is complete (R187, R430) -/
  | releasing
  | travelling
  | parked
  | result (status : Nat) (tag : Word) (fields : List DWord) (psn : Bool)
deriving DecidableEq, Repr

/-- A tuple request (R178, R183, R431). -/
structure TupleReq where
  id : Nat
  grp : Nat
  slot : Bool
  kind : TupleKind
  wait : Bool
  d : Nat
  tag : Word
  mode : BitVec 8
  vals : List DWord
  masks : List DWord
  vf : Nat
  base : Nat
  part : Nat
  slice : Nat
  /-- tick of arrival at the home -/
  arrived : Nat
  /-- rank of the requester: PARTID, CLUSTER x 4 + CORE, slot, path slot (R184) -/
  rank : Nat
  stage : TupleStage
deriving DecidableEq, Repr

/-- A fault record (R217). -/
structure FaultRec where
  addr : Nat
  replay : Mask
  pc : Word
  ctx : Nat
  vf : Nat
  part : Nat
  core : Nat
  slot : Nat
  kind : Nat
  level : Nat
  held : Bool
  rept : Bool
  seq : Nat
  valid : Bool
  /-- tick of the fault, for the age order of R219 -/
  since : Nat
deriving DecidableEq, Repr

/-- A virtual-function reset that has not completed: the row-table entries still to be read, by context and address, and the time from which
the marks made so far are visible (R287). -/
structure RowReset where
  vf : Nat
  rows : List (Nat × Nat)
  visible : Nat
deriving DecidableEq, Repr

/-- A shootdown that has not reported completion (R213). -/
structure Shootdown where
  id : Nat
  vf : Nat
  ctx : Option Nat
  lo : Nat
  hi : Nat
  /-- flights, copies and casting commands translated before step 1 -/
  flights : List Nat
  copies : List Nat
deriving DecidableEq, Repr

/-- A peer translation lease (R214): granted by this module, or held by it. -/
structure PeerLease where
  id : Nat
  peer : Nat
  vf : Nat
  part : Nat
  page : Nat
  size : Nat
  key : Nat
  write : Bool
  expiry : Nat
  recalled : Bool
  /-- this module has asked for it, and the target has not granted it yet -/
  asked : Bool
deriving DecidableEq, Repr

/-! ## Functions, contexts, partitions -/

/-- The state of a submission queue (R220). -/
inductive SqState where
  | disabled
  | running
  | error
  | quiesced
deriving DecidableEq, Repr

/-- The registers of a submission queue (R220). -/
structure SubQueue where
  addr : BitVec 40
  part : BitVec 4
  size : BitVec 17
  enable : Bool
  wr : BitVec 16
  rd : BitVec 16
  state : SqState
  cause : BitVec 4
  bmFault : Bool
  seq : Word
  rejSeq : Word
  reason : BitVec 4
  done : Word
  /-- sequence numbers of rejected launches since the queue was enabled (R226) -/
  rejected : List Nat
deriving DecidableEq, Repr

/-- A virtual function (R19, R195, R209, R261, R297). -/
structure Vf where
  parts : List Nat
  secure : Bool
  scopeMax : Nat
  /-- BASE and BOUND in each of parts -/
  windows : List (Nat × Nat)
  /-- FLOOR and MAXSTEP of the eight states -/
  vps : List (BitVec 2 × BitVec 2)
  queues : List SubQueue
  /-- registered tuple regions: base and size (R175) -/
  regions : List (Nat × Nat)
  /-- free frames: partition index, size, partition-relative address (R495) -/
  frames : List (Nat × Nat × Nat)
deriving DecidableEq, Repr

/-- What a context image holds beyond the registers of its groups, which are saved whole (R275, R276). -/
structure Image where
  header : BitVec 256
  groups : List Group
  blocks : List Block
  fifos : List (Nat × Fifo)
  factor : List (Nat × FactorCmd)
  copies : List (Nat × Copy)
  casts : List (Nat × CastCmd)
  psn : Bool
deriving DecidableEq, Repr

/-- A context (R206, R246, R265, R268, R272). -/
structure Context where
  id : Nat
  vf : Nat
  /-- PARTID of its partition -/
  part : Nat
  rootPart : Nat
  rootAddr : Nat
  cls : Nat
  floor : Nat
  state : CtxState
  loop : LoopRegs
  trapVec : Word
  energy : BitVec 48
  sat : Bool
  vpsReq : BitVec 3
  vpsCur : BitVec 3
  /-- FLOOR and MAXSTEP of the state in force, as its entry stood at the allocation (R261) -/
  vpsFloor : Nat
  vpsStep : Nat
  /-- GTIME and requester's rank of the last SYSWR of LOOP.TGT and of VPS.REQ (R421) -/
  tgtStamp : Nat × Nat
  vpsStamp : Nat × Nat
  wayMask : BitVec 16
  /-- first slot and count on slice ports; slots on Dranov and CXL ports (R256) -/
  slots : Nat × Nat × DWord × DWord
  members : List Nat
  merge : Option Merge
  image : Option Image
  /-- the row table registered with the station: address and entries (R287) -/
  rowTable : Option (Nat × Nat)
  /-- how often the context has taken UNSPECIFIED values (R1, log 7) -/
  free : Nat
deriving DecidableEq, Repr

/-- A partition (R18, R19). -/
structure Part where
  cfg : PartCfg
  lease : Nat
  eff : Nat
  meter : Nat
  duty : Nat
  ceil : Nat
  ewt : List (BitVec 16)
  idle : BitVec 48
  fbHead : Word
  fbTail : Word
  fbOverflow : Bool
  fbStale : Bool
  fbSeq : Nat
  fbRecords : Map FaultRec
  /-- records in local holding slots, oldest first (R219) -/
  fbHeld : List FaultRec
  /-- GTIME of the next allocation (R241), and of the grants not yet in force -/
  nextAlloc : Nat
  grantsDue : Option Nat
deriving DecidableEq, Repr

/-! ## Links and the station -/

/-- A Dranov or CXL port (R283). -/
inductive PortState where
  | up
  | retraining
  | down
deriving DecidableEq, Repr

/-- A port's counters (R283, R290). -/
structure Port where
  state : PortState
  /-- replays in the meter window, and that window's index -/
  replays : Nat
  window : Nat
  /-- GTIME of its resets, latest first -/
  resets : List Nat
  dropped : Nat
deriving DecidableEq, Repr

/-- Life-cycle states (R298). -/
inductive LifeCycle where
  | manufacture
  | provisioned
  | deployed
  | returned
deriving DecidableEq, Repr

/-- The station's mode (R293, R281, R296). -/
inductive StationMode where
  /-- no valid image -/
  | recovery
  /-- the configuration block is invalid -/
  | noConfig
  | running
  /-- restarting after a core fault at a GTIME; the watchdog of an update that is not over runs on (R281, R296) -/
  | restarting (since : Nat) (watchdog : Option Nat)
  /-- an update has handed over and waits for the heartbeat; GTIME of the watchdog (R296) -/
  | updating (watchdog : Nat)
deriving DecidableEq, Repr

/-- The handover record (R281, R296, log 75): the version of its form, and what the station keeps across a restart of its firmware. -/
structure Handover where
  version : Nat
  ide : Option (List Byte)
  kex : Option (List Byte)
deriving DecidableEq, Repr

/-- A station core (R16): it executes the uniform instruction set in privileged mode in the secure world, on the scheduler firmware of an image
slot (false A, true B), or on none while its station has no image or restarts. The spec gives it no register, memory or program of its own: what
its firmware does is the meaning of the events of the station (log 89). -/
structure StationCore where
  privileged : Bool
  secure : Bool
  runs : Option Bool
deriving DecidableEq, Repr

/-- The station (R16, R293 to R298). -/
structure Station where
  /-- its four cores -/
  cores : List StationCore
  imageA : Option FwImage
  imageB : Option FwImage
  /-- the running slot: false A, true B -/
  runB : Bool
  mode : StationMode
  /-- fused anti-rollback counter -/
  rollback : Nat
  /-- bodies of the images started since the ROM's boot, the booted one first: measurement 5 is formed of their digests (R295) -/
  chain : List (List Byte)
  life : LifeCycle
  /-- a move fused for the next device reset -/
  lifeNext : Option LifeCycle
  /-- counts of the error log -/
  correctable : Nat
  logged : Nat
  /-- session keys set by KEY_EXCHANGE and FINISH -/
  ide : Option (List Byte)
  kex : Option (List Byte)
  /-- the configuration block of the last device reset was valid (R294) -/
  configOk : Bool
  /-- the last handover record (R281, R296) -/
  handover : Handover
deriving DecidableEq, Repr

/-- A host command that needs the station's firmware, as it waits while no image is in charge (R296). The spec does not list them: these are the
commands by which the station's scheduler sets up functions, contexts, memory and partitions, and the updates of its images, counter and life
cycle. Every other one acts at once: the registers (SQ_ENABLE, SQ_DISABLE, SQ_DOORBELL, FB_HEAD_WRITE, the two replies, PWR_CAP_WRITE,
REGISTER_WRITE), PREEMPT, whose saving goes on in hardware, the resets (DEVICE_RESET, VF_RESET, ENGINE_RESET, LINK_RESET), PORT_ENABLE and
ROUTE_TABLE_LOAD, which the ports hold, and what the security engine answers (GET_VERSION to FINISH) (DESIGN CHOICE, log 96). -/
inductive HostCmd where
  | framePoolAdd (r : FrameReq)
  | swapOut (r : SwapReq)
  | scopeMaxSet (vf value : Nat)
  | leaseLengthSet (part ns : Nat)
  | bankAllocate (cl bank ctx mode : Nat)
  | tupleRegionRegister (vf base size : Nat)
  | loopParamsSet (ctx : Nat) (p : LoopParams)
  | contextCreate (r : CtxReq)
  | contextRestore (ctx part : Nat)
  | contextDestroy (ctx : Nat)
  | vpsTableWrite (vf n : Nat) (floor maxstep : BitVec 2)
  | energyWeightSet (part : Nat) (weights : List (BitVec 16))
  | energyCounterClear (ctx : Nat)
  | idleAccountClear (part : Nat)
  | shootdown (vf : Nat) (ctx : Option Nat) (lo hi : Nat)
  | baseBoundSet (vf part base bound : Nat)
  | partitionReset (part : Nat)
  | rowTableRegister (ctx va n : Nat)
  | timeMasterSelect (mdl : Nat)
  | firmwareUpdate
  | antiRollbackUpdate (version : Nat) (signature : List Byte)
  | doeImageLoad (slotB : Bool) (img : FwImage)
  | lifecycleAdvance (signature : List Byte)
deriving DecidableEq, Repr

/-- The station's registers as the host reads them: those of a partition's fault buffer (R218) and of its power map, and the module's own
(R257). -/
inductive StationReg where
  | fbHead (part : Nat)
  | fbTail (part : Nat)
  | fbStatus (part : Nat)
  | fbReply (part : Nat)
  /-- eight bytes of a record of the buffer (R217) -/
  | fbRecord (part index quarter : Nat)
  | pwrAllot (part : Nat)
  | pwrFloor (part : Nat)
  | pwrEff (part : Nat)
  | pwrMeter (part : Nat)
  /-- DUTY and CEIL -/
  | pwrThr (part : Nat)
  | pwrCap
  | pwrIdle
  | pwrUncore
  | pwrStatus
  /-- a partition's idle account (R263) -/
  | idleAccount (part : Nat)
  /-- eight bytes of a context's image (R272) -/
  | image (ctx index : Nat)
deriving DecidableEq, Repr

/-- What the part sends to the host (R221, R272, R289, R293 to R298). -/
inductive Output where
  | msix (vf vector : Nat)
  | contextReport (ctx : Nat) (trap : TrapRegs) (errClass : Nat)
  | frameShortage (vf part : Nat)
  | shootdownDone (id : Nat)
  | vfResetDone (vf : Nat)
  | resumeShort (ctx : Nat)
  | refusedSet (ctx : Nat)
  | doe (kind : Nat) (bytes : List Byte)
  | peerData (src : Nat) (bytes : List Byte) (psn : List Bool)
  /-- kind 0 flits to a peer module: a read, and a write (R290) -/
  | peerLoad (peer addr len : Nat)
  | peerStore (peer addr : Nat) (data : List Byte) (psn : List Bool)
  | cxlData (vf : Nat) (bytes : List Byte) (psn : List Bool)
  /-- flits of R214: a request for the translation of a page, a grant of one with its lease's end, a recall, and the acknowledgement of one -/
  | peerAsk (peer page : Nat)
  | peerGrant (peer page size key expiry : Nat)
  | peerRecall (peer page : Nat)
  | peerAck (peer page : Nat)
  /-- the time master's GTIME (R290, R291) -/
  | timeFlit (gtime : Nat)
  /-- what a host read of a function's register window returns (R289) -/
  | hostData (vf offset : Nat) (v : DWord)
  /-- what a host read of a register of the station returns (R5, R218, R257) -/
  | stationData (r : StationReg) (v : DWord)
  /-- flits to the members of a spanning context: a target with its GTIME (R253), a count for the leader, the leader's result (R252) -/
  | loopTarget (ctx : Nat) (tgt : BitVec 16) (at_ : Nat)
  | mergeCount (ctx leader boundary count : Nat) (live : Bool)
  | loopResult (r : LoopResult) (members : List Nat)
deriving DecidableEq, Repr

/-- One input of the machine: an event with the ticks that pass before it, a choice of the core that issues next, an
instruction-cache miss of a path (R30), a load of a path performed before its word, with its CACHE policy (R68, R194, log 3), a word issued behind a load that waits for
its data (R120, R417, log 3), a host read of a register window (R289) or of a register of the station (R5), or time passing (log 1). -/
inductive Turn where
  | event (dt : Nat) (e : Instr)
  | issue (dt : Nat) (cluster core : Nat)
  | miss (g : Nat) (slot : Bool)
  | early (g : Nat) (slot : Bool) (cache : BitVec 2) (va n : Nat)
  | ahead (g : Nat) (slot : Bool)
  | hostRead (vf offset : Nat)
  | stationRead (r : StationReg)
  | wait (dt : Nat)
deriving DecidableEq, Repr

/-- Why the machine stops with a fault. None of them is a trap of R267: a trap is taken, and gives a next state. -/
inductive Fault where
  /-- A word was executed with no path selected (raised by every word's meaning through State.word). Safe: step
  never does so. -/
  | noPath
deriving DecidableEq, Repr

/-- Why the machine refuses. -/
inductive Refusal where
  /-- An instruction without a meaning (raised by exec's arms alone). Safe. -/
  | notModelled (mnemonic : String)
  /-- A word stood among the inputs, where only events may stand (raised by step). Safe. -/
  | wordAsInput
deriving DecidableEq, Repr

/-- The whole part. -/
structure State where
  /-- time in units of 1/24 ns; GTIME is ticks / 24 (R188) -/
  ticks : Nat
  /-- this module's number (R292) -/
  moduleNo : Nat
  timeMaster : Option Nat
  timeLost : Bool
  /-- GTIME at a tick, from which it counts on, and the ns it still has to lose by counting slower (R188, R291) -/
  gBase : Nat
  gTick : Nat
  gLag : Nat
  /-- inputs that come next (log 1) -/
  turns : List Turn
  /-- the path whose word is being executed: group and slot (log 1) -/
  cur : Option (Nat × Bool)
  /-- counter of identifiers (log 1) -/
  nextId : Nat
  /-- core at which the model's own schedule starts looking (log 1) -/
  nextCore : Nat
  configBlock : ConfigBlock
  parts : List Part
  vfs : Map Vf
  contexts : Map Context
  launches : List Launch
  blocks : List Block
  groups : List Group
  clusters : Map Cluster
  mem : Memory
  /-- poisoned 64-byte granules of mem and their written masks (R279, R280) -/
  poison : Map (BitVec 64)
  /-- lines a home has granted something on -/
  homeLines : Map HomeLine
  pending : List PWrite
  flights : List Flight
  l2 : Map L2Line
  /-- contexts that filled a way of a slice since its last flush: key 16 x slice + way (R282) -/
  wayFills : Map (List Nat)
  manifests : List Manifest
  fetches : List Fetch
  /-- paths whose words wait on a fetch, in the order their requests reached the home (R171, R173) -/
  replays : List Replay
  swaps : List Swap
  tuples : List Tuple
  tupleReqs : List TupleReq
  /-- next deposit sequence of each slice (R182) -/
  depositSeq : Map Nat
  /-- the latest tuple request to arrive at each slice: uncore cycle, 0 for a deposit or 1, requester's rank (R184) -/
  tupleOrder : Map (Nat × Nat × Nat)
  tlb : List TlbEntry
  shootdowns : List Shootdown
  rowResets : List RowReset
  peerGrants : List PeerLease
  peerLeases : List PeerLease
  castQueues : Map (List CastCmd)
  ports : List Port
  /-- peer number to ports in order (R292) -/
  routes : Map (List Nat)
  station : Station
  pwrCap : Nat
  pwrIdle : Nat
  pwrUncore : Nat
  capBelowFloors : Bool
  capUnreachable : Bool
  /-- GTIME of the next meter window's end (R258) -/
  nextMeter : Nat
  /-- GTIME of the next frame start, and grants that wait for it (R256) -/
  nextFrame : Nat
  /-- the submission queue last read: 16 × function + queue (R222) -/
  lastRead : Nat
  /-- host commands that wait until an image of the station is in charge, oldest first (R296) -/
  held : List HostCmd
  outbox : List Output
deriving DecidableEq, Repr

/-! ## Reset -/

def AddrReg.reset : AddrReg :=
  { base := 0, extent := 0, limit := 0, frame := 0, leaf := ⟨false, false, false, false, 0⟩, valid := false }

def WinReg.reset : WinReg := { addr := 0, rate := 0, count := 0, valid := false }

def Chain.none : Chain := { len := 0, lane := [], uni := [], latchRun := 0 }

def TrapRegs.reset : TrapRegs :=
  { cause := 0, info := 0, slot := false, handler := false, pc := 0, mask := 0, addr := 0 }

def SubQueue.reset : SubQueue :=
  { addr := 0, part := 0, size := 0, enable := false, wr := 0, rd := 0, state := .disabled, cause := 0,
    bmFault := false, seq := 0, rejSeq := 0, reason := 0, done := 0, rejected := [] }

/-- R150: every bank in CACHE mode and allocated to no context. -/
def Bank.reset : Bank := { mode := .cache, owner := none, granules := 0, leaving := false }

/-- A cluster at device reset; pool P1 is log 13. -/
def Cluster.reset (id : Nat) : Cluster :=
  { id := id, pool := 1, moving := none, banks := List.replicate 16 Bank.reset, lines := [], fifos := [], sets := [],
    pass := none, draining := none, factor := [], copies := [], barFile := [], epochs := [0, 0, 0, 0], cycBase := 0,
    cycTick := 0, inService := [true, true, true, true], fastSince := none, plan := none }

/-- A virtual function at device reset: SCOPE.MAX 5 (R195), queues at the values of R220. -/
def Vf.reset (parts : List Nat) (secure : Bool) : Vf :=
  { parts := parts, secure := secure, scopeMax := 5, windows := parts.map fun _ => (0, 0),
    vps := List.replicate 8 (0, 3), queues := List.replicate 16 SubQueue.reset, regions := [], frames := [] }

/-- A partition at device reset (R189, R257, R263, R218). -/
def Part.reset (c : PartCfg) : Part :=
  { cfg := c, lease := 256, eff := c.allot, meter := 0, duty := 64, ceil := 0, ewt := List.replicate 16 0, idle := 0,
    fbHead := 0, fbTail := 0, fbOverflow := false, fbStale := false, fbSeq := 0, fbRecords := [], fbHeld := [],
    nextAlloc := 16384, grantsDue := none }

/-- The configuration block the model's reset finds (log 5): one partition of all sixteen units. -/
def ConfigBlock.standard : ConfigBlock :=
  { parts := [{ units := List.range 16, systemShare := 4, manifestArea := 1024, allot := 3600, floor := 25,
                dranovMask := BitVec.allOnes 64, cxlMask := BitVec.allOnes 64 }],
    secureVfs := [], body := [], signature := [] }

def Port.reset : Port := { state := .up, replays := 0, window := 0, resets := [], dropped := 0 }

/-- The four station cores on an image slot, or on none (R16). -/
def stationCores (b : Option Bool) : List StationCore := List.replicate 4 ⟨true, true, b⟩

/-- The station running image A of version 1 (log 15). -/
def Station.reset : Station :=
  { cores := stationCores (some false), imageA := some { body := [], version := 1, securityVersion := 0, signature := [] }, imageB := none, runB := false,
    mode := .running, rollback := 0, chain := [[]], life := .deployed, lifeNext := none, correctable := 0, logged := 0,
    ide := none, kex := none, configOk := true, handover := ⟨1, none, none⟩ }

/-- The machine right after device reset (R18, R150, R195, R257, R263, R284, R285). -/
def State.reset : State :=
  { ticks := 0, moduleNo := 0, timeMaster := none, timeLost := false, gBase := 0, gTick := 0, gLag := 0, turns := [], cur := none,
    nextId := 0, nextCore := 0, configBlock := ConfigBlock.standard,
    parts := ConfigBlock.standard.parts.map Part.reset, vfs := [], contexts := [], launches := [], blocks := [],
    groups := [], clusters := (List.range 64).map fun i => (i, Cluster.reset i), mem := [], poison := [], homeLines := [],
    pending := [], flights := [], l2 := [], wayFills := [], manifests := [], fetches := [], replays := [], swaps := [], tuples := [],
    tupleReqs := [], depositSeq := [], tupleOrder := [], tlb := [], shootdowns := [], rowResets := [], peerGrants := [], peerLeases := [], castQueues := [],
    ports := List.replicate 19 Port.reset, routes := [], station := Station.reset, pwrCap := 3600, pwrIdle := 430,
    pwrUncore := 0, capBelowFloors := false, capUnreachable := false, nextMeter := 1048576, nextFrame := 1024, lastRead := 0, held := [], outbox := [] }

end Sys2Proof.Machine
end

