-- ==== Sys2Proof/Machine/Store.lean ====
section
/-!
DEFINITION. Finite maps, bytes by address and lists of records: the operations every other file reads and writes State
with. A map's keys rise strictly; a map of words or bytes lists no zero, so that equal contents are equal data.
-/
namespace Sys2Proof.Machine

/-! ## Maps -/

/-- The value under a key. -/
def Map.get? {α : Type} : Map α → Nat → Option α
  | [], _ => none
  | (k, v) :: m, n => if n = k then some v else Map.get? m n

/-- The map with a value put under a key. -/
def Map.put {α : Type} : Map α → Nat → α → Map α
  | [], n, x => [(n, x)]
  | (k, v) :: m, n, x =>
    if n < k then (n, x) :: (k, v) :: m else if n = k then (n, x) :: m else (k, v) :: Map.put m n x

/-- The map without a key. -/
def Map.del {α : Type} : Map α → Nat → Map α
  | [], _ => []
  | (k, v) :: m, n => if n = k then Map.del m n else (k, v) :: Map.del m n

/-- The map with the value under a key changed, where there is one. -/
def Map.modify {α : Type} (m : Map α) (n : Nat) (f : α → α) : Map α :=
  match m.get? n with
  | some x => m.put n (f x)
  | none => m

/-- Every key is at least `n`, and the keys rise strictly. -/
def Map.sortedFrom {α : Type} : Nat → Map α → Bool
  | _, [] => true
  | n, (k, _) :: m => decide (n ≤ k) && Map.sortedFrom (k + 1) m

/-- The keys rise strictly. -/
def Map.wf {α : Type} (m : Map α) : Bool := m.sortedFrom 0

/-! ## Words by number -/

/-- A word of a map that lists no zero. -/
def Map.word (m : Map Word) (n : Nat) : Word := (m.get? n).getD 0

/-- A word put into a map that lists no zero. -/
def Map.setWord (m : Map Word) (n : Nat) (w : Word) : Map Word := if w = 0 then m.del n else m.put n w

/-! ## Bytes by address -/

/-- The byte at an address: zero where none is listed (R285, log 6). -/
def Memory.byte : Memory → Nat → Byte
  | [], _ => 0
  | (k, v) :: m, a => if a = k then v else Memory.byte m a

/-- The memory without an address. -/
def Memory.clear : Memory → Nat → Memory
  | [], _ => []
  | (k, v) :: m, a => if a = k then Memory.clear m a else (k, v) :: Memory.clear m a

/-- The memory with a byte that is not zero put at an address. -/
def Memory.put : Memory → Nat → Byte → Memory
  | [], a, b => [(a, b)]
  | (k, v) :: m, a, b =>
    if a < k then (a, b) :: (k, v) :: m else if a = k then (a, b) :: m else (k, v) :: Memory.put m a b

/-- The memory with one byte written. -/
def Memory.setByte (m : Memory) (a : Nat) (b : Byte) : Memory := if b = 0 then m.clear a else m.put a b

/-- Addresses rise strictly from `n`, and no byte listed is zero. -/
def Memory.wfFrom : Nat → Memory → Bool
  | _, [] => true
  | n, (k, v) :: m => decide (n ≤ k) && decide (v ≠ 0) && Memory.wfFrom (k + 1) m

/-- The canonical form: addresses rise strictly, and no entry equals what an unlisted address reads as. -/
def Memory.wf (m : Memory) : Bool := m.wfFrom 0

/-- `n` bytes from an address, ascending. -/
def Memory.bytes (m : Memory) (a n : Nat) : List Byte := (List.range n).map fun i => m.byte (a + i)

/-- A run of bytes written from an address, ascending. -/
def Memory.setBytes : Memory → Nat → List Byte → Memory
  | m, _, [] => m
  | m, a, b :: bs => Memory.setBytes (m.setByte a b) (a + 1) bs

/-- Zero written to `[a, a + n)` (R285). -/
def Memory.wipe (m : Memory) (a n : Nat) : Memory := m.filter fun c => decide (c.1 < a) || decide (a + n ≤ c.1)

/-! ## Little-endian numbers (R3) -/

/-- The number a run of bytes holds, the first byte lowest. -/
def leNat : List Byte → Nat
  | [] => 0
  | b :: bs => b.toNat + 256 * leNat bs

/-- The `n` lowest bytes of a number, lowest first. -/
def leBytes : Nat → Nat → List Byte
  | 0, _ => []
  | n + 1, x => BitVec.ofNat 8 x :: leBytes n (x / 256)

/-- A run of bytes as words of four, the last one filled with zeros. -/
def leWords (bs : List Byte) (n : Nat) : List Word :=
  (List.range n).map fun i => BitVec.ofNat 32 (leNat ((bs.drop (4 * i)).take 4))

/-- Words as bytes. -/
def wordBytes (ws : List Word) : List Byte := (ws.map fun w => leBytes 4 w.toNat).flatten

/-! ## Lists of records -/

/-- Every record that satisfies the test, changed. -/
def mapIf {α : Type} (p : α → Bool) (f : α → α) (l : List α) : List α := l.map fun x => if p x then f x else x

/-- The list with the value at an index changed, where there is one. -/
def modifyAt {α : Type} (l : List α) (n : Nat) (f : α → α) : List α :=
  match l[n]? with
  | some x => l.set n (f x)
  | none => l

/-- The value with the least key among those of a list, the first of equals. -/
def leastBy {α : Type} (key : α → Nat) : List α → Option α
  | [] => none
  | x :: xs =>
    match leastBy key xs with
    | none => some x
    | some y => if key x ≤ key y then some x else some y

/-- Order of two keys compared part by part. -/
def keyLe : List Nat → List Nat → Bool
  | [], _ => true
  | _ :: _, [] => false
  | x :: xs, y :: ys => if x < y then true else if y < x then false else keyLe xs ys

/-- The value with the least key in the order of keyLe, the first of equals. -/
def leastKey {α : Type} (key : α → List Nat) : List α → Option α
  | [] => none
  | x :: xs =>
    match leastKey key xs with
    | none => some x
    | some y => if keyLe (key x) (key y) then some x else some y

/-- The value put into a list that rises by key, after its equals. -/
def insertBy {α : Type} (key : α → List Nat) (x : α) : List α → List α
  | [] => [x]
  | y :: ys => if keyLe (key y) (key x) then y :: insertBy key x ys else x :: y :: ys

/-- The list in rising order of key. -/
def sortBy {α : Type} (key : α → List Nat) : List α → List α
  | [] => []
  | x :: xs => insertBy key x (sortBy key xs)

/-- The list without repeats, first of equals kept. -/
def dedup {α : Type} [DecidableEq α] : List α → List α
  | [] => []
  | x :: xs => x :: (dedup xs).filter fun y => y ≠ x

/-- `floor (a / b)` rounded up. -/
def ceilDiv (a b : Nat) : Nat := (a + b - 1) / b

/-- Sum of a list. -/
def sumNat : List Nat → Nat
  | [] => 0
  | x :: xs => x + sumNat xs

/-- Largest of a function over a list. -/
def maxOf {α : Type} (f : α → Nat) (l : List α) : Nat := l.foldl (fun m x => max m (f x)) 0

end Sys2Proof.Machine
end

