-- ==== Sys2Proof/Machine/Ops.lean ====
section
/-!
DEFINITION. The named operations over groups, paths, registers and contexts that every meaning shares: reading and writing
State, the divergence stack (R29 to R41), energy (R263 to R265), completing a word, parking, taking a trap (R267 to R270),
a context fault (R272) and returning from a trap (R271).
-/
namespace Sys2Proof.Machine

/-- What a meaning answers. -/
abbrev Out := Host.Outcome State Fault Refusal

/-! ## Trap causes (R267) -/

inductive Cause where
  | illegal | illegalLatch | regBounds | scratchBounds | address | page | protection | bound | misaligned | scopeDenied
  | nullReturn | poison | trapInsn | format | queue | priv | engine | divstack | barrier | cls
deriving DecidableEq, Repr

/-- The cause codes of R267. -/
def Cause.code : Cause → BitVec 8
  | .illegal => 0x01
  | .illegalLatch => 0x02
  | .regBounds => 0x04
  | .scratchBounds => 0x05
  | .address => 0x06
  | .page => 0x07
  | .protection => 0x08
  | .bound => 0x09
  | .misaligned => 0x0A
  | .scopeDenied => 0x0B
  | .nullReturn => 0x0C
  | .poison => 0x0D
  | .trapInsn => 0x0E
  | .format => 0x0F
  | .queue => 0x10
  | .priv => 0x11
  | .engine => 0x12
  | .divstack => 0x13
  | .barrier => 0x14
  | .cls => 0x15

/-- A trap a word raises: the lanes that raised it and the address TRAP.ADDR receives (R268). -/
structure TrapInfo where
  cause : Cause
  info : BitVec 8
  mask : Mask
  addr : DWord
  /-- TRAP.PC: the word's first prefix, or for TRAP_INSN the word after the TRAP (R269) -/
  pc : Word
  /-- what it reports once -/
  told : Option Told := none
deriving DecidableEq, Repr

/-- Why a word does not complete: it traps, or its path parks before it. -/
inductive Stop where
  | trap (c : Cause) (mask : Mask) (addr : Nat)
  | park (w : Wait)
deriving DecidableEq, Repr

/-! ## Groups, blocks, contexts, clusters -/

def State.group? (s : State) (gid : Nat) : Option Group := s.groups.find? fun g => g.id == gid
def State.setGroup (s : State) (g : Group) : State :=
  { s with groups := s.groups.map fun x => if x.id == g.id then g else x }
def State.modGroup (s : State) (gid : Nat) (f : Group → Group) : State :=
  { s with groups := s.groups.map fun x => if x.id == gid then f x else x }
def State.block? (s : State) (bid : Nat) : Option Block := s.blocks.find? fun b => b.id == bid
def State.modBlock (s : State) (bid : Nat) (f : Block → Block) : State :=
  { s with blocks := s.blocks.map fun x => if x.id == bid then f x else x }
def State.launch? (s : State) (lid : Nat) : Option Launch := s.launches.find? fun l => l.id == lid
def State.modLaunch (s : State) (lid : Nat) (f : Launch → Launch) : State :=
  { s with launches := s.launches.map fun x => if x.id == lid then f x else x }
def State.ctx? (s : State) (c : Nat) : Option Context := s.contexts.get? c
def State.modCtx (s : State) (c : Nat) (f : Context → Context) : State := { s with contexts := s.contexts.modify c f }
def State.cluster? (s : State) (c : Nat) : Option Cluster := s.clusters.get? c
def State.modCluster (s : State) (c : Nat) (f : Cluster → Cluster) : State :=
  { s with clusters := s.clusters.modify c f }
def State.part? (s : State) (p : Nat) : Option Part := s.parts[p]?
def State.modPart (s : State) (p : Nat) (f : Part → Part) : State := { s with parts := modifyAt s.parts p f }
/-- A virtual function, 0 to 511; one that nothing has been done to stands as reset leaves it (R17, R195, R220). -/
def State.vf? (s : State) (v : Nat) : Option Vf :=
  if v < 512 then some ((s.vfs.get? v).getD (Vf.reset [] (s.configBlock.secureVfs.contains v))) else none
def State.modVf (s : State) (v : Nat) (f : Vf → Vf) : State :=
  match s.vf? v with
  | some x => { s with vfs := s.vfs.put v (f x) }
  | none => s

/-- An image of the station is in charge: with partitions, or without them where the configuration block is invalid (R293, R294). -/
def Station.inCharge (t : Station) : Bool := t.mode == .running || t.mode == .noConfig

/-- The mode of a station whose image is in charge. -/
def Station.settled (t : Station) : StationMode := if t.configOk then .running else .noConfig

/-- A host command that needs the station's firmware waits until an image is in charge (R281, R296); in RECOVERY it is not answered (R293). -/
def State.hold (s : State) (i : HostCmd) : State := if s.station.mode == .recovery then s else { s with held := s.held ++ [i] }

/-- A host command that needs the station's firmware: it has its effect while an image is in charge, and waits while none is (R281, R296). -/
def State.command (s : State) (i : HostCmd) (o : Out) : Out := if s.station.inCharge then o else .next (s.hold i)

/-- The same of a command whose effect may not be possible in this state. -/
def State.serve (s : State) (i : HostCmd) (o : Option State) : Option State := if s.station.inCharge then o else some (s.hold i)

/-- What the station's firmware does of itself: nothing while no image is in charge (R281, R293, R296). -/
def State.govern (s : State) (o : Option State) : Option State := if s.station.inCharge then o else none

/-- What an event does: its effect, or nothing in a state in which it cannot occur (log 48). -/
def State.occurs (s : State) (o : Option State) : Out := .next (o.getD s)

/-- A new identifier (log 1). -/
def State.newId (s : State) : Nat × State := (s.nextId, { s with nextId := s.nextId + 1 })

/-- GTIME in ns: it counts on from the last steering, and loses what it is ahead by 1 part in 1,000 (R188, R291). -/
def State.now (s : State) : Nat :=
  let e := (s.ticks - s.gTick) / 24
  s.gBase + e - min s.gLag (e / 1000)

/-- Ticks of one cycle of a clock pool (R20, log 2). -/
def poolCycle (pool : Nat) : Nat := if pool = 0 then 12 else if pool = 1 then 15 else if pool = 2 then 20 else 30

/-- Cycles of a cluster since device reset, across pool changes (R264). -/
def Cluster.cycles (c : Cluster) (ticks : Nat) : Nat := c.cycBase + (ticks - c.cycTick) / poolCycle c.pool

/-- The tick at which a cluster's n-th cycle from the present one begins. -/
def Cluster.cycleStart (c : Cluster) (ticks n : Nat) : Nat :=
  c.cycTick + ((ticks - c.cycTick) / poolCycle c.pool + n) * poolCycle c.pool

/-- Ticks of one cycle of a cluster (R20). -/
def State.cycle (s : State) (cl : Nat) : Nat :=
  match s.cluster? cl with
  | some c => poolCycle c.pool
  | none => 15

/-- PARTID of a context, 0 where there is none. -/
def State.partOf (s : State) (cid : Nat) : Nat := ((s.ctx? cid).map (·.part)).getD 0

/-! ## Registers (R26) -/

def Group.vreg (g : Group) (r lane : Nat) : Word := g.v.word (32 * r + lane)

/-- An operation of the matrix engine that no MWAIT covers has this accumulator (R120). -/
def Group.accBusy (g : Group) (r lane : Nat) : Bool :=
  g.accRuns.any fun a => decide (a.first ≤ r) && decide (r < a.first + 32) && lane / 8 == a.quarter

/-- A vector register written in one lane. A write to an accumulator that no MWAIT covers leaves it UNSPECIFIED (R120). -/
def Group.setV (g : Group) (r lane : Nat) (w : Word) : Group :=
  if g.accBusy r lane then { g with accHit := g.accHit ++ [32 * r + lane] }
  else { g with v := g.v.setWord (32 * r + lane) w }

def Group.greg (g : Group) (r : Nat) : Word := g.g.word r
def Group.setG (g : Group) (r : Nat) (w : Word) : Group := { g with g := g.g.setWord r w }

/-- v[r] written in the lanes of a list from a function of the lane. -/
def Group.setLanes (g : Group) (r : Nat) (lanes : List Nat) (f : Nat → Word) : Group :=
  lanes.foldl (fun g i => g.setV r i (f i)) g

/-- g[r], g[r + 1] and on, written from a list. -/
def Group.setGs (g : Group) (r : Nat) : List Word → Group
  | [] => g
  | w :: ws => (g.setG r w).setGs (r + 1) ws

/-- `n` group registers from the r-th. -/
def Group.gregs (g : Group) (r n : Nat) : List Word := (List.range n).map fun i => g.greg (r + i)

def Group.addr (g : Group) (n : Nat) : AddrReg := (g.areg[n]?).getD AddrReg.reset
def Group.window (g : Group) (n : Nat) : WinReg := (g.wreg[n]?).getD WinReg.reset
def Group.queue (g : Group) (n : Nat) : Option QBind := (g.qreg[n]?).getD none

/-! ## Paths (R29) -/

def Group.path (g : Group) (slot : Bool) : Option Path := if slot then g.path1 else g.path0
def Group.setPath (g : Group) (slot : Bool) (p : Option Path) : Group :=
  if slot then { g with path1 := p } else { g with path0 := p }
def Group.modPath (g : Group) (slot : Bool) (f : Path → Path) : Group := g.setPath slot ((g.path slot).map f)
/-- A path leaves its slot; the cycles of its last chain stay known beside its sibling (R46, R50). -/
def Group.vacate (g : Group) (slot : Bool) : Group :=
  let at_ := ((g.path slot).map fun p => p.chainAt).getD 0
  (g.setPath slot none).modPath (!slot) fun o => { o with chainAt := max o.chainAt at_ }

/-- Real and helper lanes that have not exited (R24, R29). -/
def Group.unexited (g : Group) : Mask := (g.real ||| g.helper) &&& ~~~g.exited

/-- A lane that is real or helper (R24). -/
def Group.present (g : Group) (i : Nat) : Bool := (g.real ||| g.helper).getLsbD i

/-- A fresh path. -/
def Path.start (pc : Word) (mask : Mask) (join : Option Nat) (now : Nat) : Path :=
  { pc := pc, mask := mask, join := join, pfx := [], chain := Chain.none, wait := .ready, stopped := false, readyAt := now,
    holdUntil := 0, busyUntil := 0, promoted := false, replay := none, refault := false, released := false, chainAt := 0, early := [], ahead := [],
    awaits := [], upTo := 0, abort := false }

/-- Program counter of the word itself, after its prefixes (R53, R72). -/
def Path.wordPc (p : Path) : Word := p.pc + BitVec.ofNat 32 (4 * p.pfx.length)

/-- Program counter after the word. -/
def Path.nextPc (p : Path) : Word := p.wordPc + 4

/-- The lanes a word of the path is executed for: the replay mask where one stands (R215). -/
def Path.lanes (p : Path) : Mask :=
  match p.replay with
  | some m => p.mask &&& m
  | none => p.mask

/-- The path after a word of it has completed, at its next boundary. Words that have issued behind a load stay so while the path goes on to
them. -/
def Path.done (p : Path) (now : Nat) (pc : Word) (c : Chain) : Path :=
  { p with pc := pc, pfx := [], chain := c, wait := .ready, readyAt := now, promoted := false, replay := none,
           refault := false, released := false, chainAt := if c.len = 0 then p.chainAt else now, awaits := [],
           abort := false,
           ahead := if pc == p.nextPc then p.ahead.filter fun a => a.pc != p.pc else [] }

/-- The path parked before its word: the prefixes are issued again, and no latch stays valid (R46, R51, R72). -/
def Path.park (p : Path) (w : Wait) : Path := { p with pfx := [], chain := Chain.none, wait := w, ahead := [] }

/-- What a path has loaded before its words is dropped: at an acquire and at a release (R197), and with a translation (R213). -/
def Path.forget (p : Path) : Path := { p with early := [] }
def Group.forget (g : Group) : Group := { g with path0 := g.path0.map Path.forget, path1 := g.path1.map Path.forget }

/-- A parked path back in selection with a fresh ready time (R51). -/
def Path.wake (p : Path) (now : Nat) : Path := { p with wait := .ready, readyAt := now }

/-! ## The divergence stack (R35 to R41) -/

/-- SP (R35). -/
def Group.sp (g : Group) : Nat := g.stack.length

/-- SP decreases while the top entry is RETIRED (R39). -/
def popRetired (st : List StackEntry) : List StackEntry := (st.reverse.dropWhile fun e => e.kind == .retired).reverse

def Group.pop (g : Group) : Group := { g with stack := popRetired g.stack }

def StackEntry.retire (e : StackEntry) : StackEntry := { e with kind := .retired }

/-- A pushed entry (R32, R33, R34). -/
def pathEntry (pc : Word) (mask : Mask) (join : Option Nat) : StackEntry :=
  { pc := pc, mask := mask, arrived := 0, kind := .path, join := join }
def joinEntry (pc : Word) (mask : Mask) (outer : Option Nat) : StackEntry :=
  { pc := pc, mask := mask, arrived := 0, kind := .join, join := outer }

/-- Poison of the stack's memory after entry i has been written: the granule is clean again once all its bytes have been written
(R279, R280). -/
def stackWrite (m : Map (BitVec 64)) (i : Nat) : Map (BitVec 64) :=
  match m.get? (i / 4) with
  | none => m
  | some w =>
    let w1 := w ||| (0xFFFF#64 <<< (16 * (i % 4)))
    if w1 == BitVec.allOnes 64 then m.del (i / 4) else m.put (i / 4) w1

/-- The data of entry i are poisoned (R35). R279 puts poison on 64-byte granules and no rule aligns the stack's base to them: entries 4k to
4k + 3 are one granule here (DESIGN CHOICE, log 77). -/
def Group.entryPsn (g : Group) (i : Nat) : Bool := (g.stackPsn.get? (i / 4)).isSome

def Group.push (g : Group) (e : StackEntry) : Group :=
  { g with stack := g.stack ++ [e], stackPsn := stackWrite g.stackPsn g.sp }

/-- Index of the topmost entry that satisfies a test. -/
def topmost (p : StackEntry → Bool) : List StackEntry → Option Nat
  | [] => none
  | e :: es =>
    match topmost p es with
    | some i => some (i + 1)
    | none => if p e then some 0 else none

/-- The topmost PATH entry that an empty slot needs is poisoned (R35, R39). -/
def Group.refillPsn (g : Group) (slot : Bool) : Bool :=
  (g.path slot).isNone && ((topmost (fun e => e.kind == .path) g.stack).map fun i => g.entryPsn i).getD false

/-- A PATH entry that lanes leave is poisoned: its MASK is read and written (R25, R35, R37). -/
def Group.pathPsn (g : Group) (gone : Mask) : Bool :=
  (List.range g.stack.length).any fun i =>
    ((g.stack[i]?).map fun e => e.kind == .path && e.mask &&& gone != 0).getD false && g.entryPsn i

/-- Some JOIN entry is poisoned. -/
def Group.joinPsn (g : Group) : Bool :=
  (List.range g.stack.length).any fun i => ((g.stack[i]?).map fun e => e.kind == .join).getD false && g.entryPsn i

/-- An empty slot refilled from the topmost PATH entry (R39). -/
def Group.refill (g : Group) (slot : Bool) (now : Nat) : Group :=
  match g.path slot with
  | some _ => g
  | none =>
    match topmost (fun e => e.kind == .path) g.stack with
    | none => g
    | some i =>
      match g.stack[i]? with
      | none => g
      | some e =>
        ({ g with stack := modifyAt g.stack i StackEntry.retire }.setPath slot (some (Path.start e.pc e.mask e.join now))).pop

/-- A JOIN entry is complete: ARRIVED equals MASK without the exited lanes (R38). -/
def StackEntry.complete (e : StackEntry) (exited : Mask) : Bool :=
  e.kind == .join && e.arrived == (e.mask &&& ~~~exited)

/-- The merged path of a complete entry takes the freed slot, else an empty one, else becomes a PATH entry in place (R38). -/
def Group.place (g : Group) (i : Nat) (e : StackEntry) (freed : Option Bool) (now : Nat) : Group :=
  let p := Path.start e.pc e.arrived e.join now
  let slot? := match freed with
    | some b => if (g.path b).isNone then some b else none
    | none => none
  let slot? := match slot? with
    | some b => some b
    | none => if g.path0.isNone then some false else if g.path1.isNone then some true else none
  match slot? with
  | some b => { g with stack := modifyAt g.stack i StackEntry.retire }.setPath b (some p)
  | none =>
    { g with stack := modifyAt g.stack i fun e => { e with kind := .path, mask := e.arrived, arrived := 0 } }

/-- The test of one JOIN entry for completion (R37, R38). -/
def Group.testJoin (g : Group) (i : Nat) (freed : Option Bool) (now : Nat) : Group :=
  match g.stack[i]? with
  | none => g
  | some e =>
    if e.complete g.exited then
      if e.arrived = 0 then { g with stack := modifyAt g.stack i StackEntry.retire } else g.place i e freed now
    else g

/-- The tests of every JOIN entry below index n, from the top down (R37). -/
def Group.testJoins (g : Group) (freed : Option Bool) (now : Nat) : Nat → Group
  | 0 => g
  | i + 1 => (g.testJoin i freed now).testJoins freed now i

/-- R41: both slots empty, no PATH entry, some lane unexited. -/
def Group.stuck (g : Group) : Bool :=
  g.path0.isNone && g.path1.isNone && !(g.stack.any fun e => e.kind == .path) && g.unexited != 0

/-- A path that reaches its join, up to the completion test: ARRIVED and the freed slot (R36, R38). -/
def Group.arriveJoin (g : Group) (slot : Bool) (j : Nat) (m : Mask) (now : Nat) : Group :=
  ((({ g with stack := modifyAt g.stack j fun e => { e with arrived := e.arrived ||| m } }.vacate slot).testJoin j
    (some slot) now).pop)

/-- A path reaches its join: ARRIVED, the slot freed, the completion test, then the refill (R36, R38, R39). -/
def Group.reachJoin (g : Group) (slot : Bool) (now : Nat) : Group :=
  match g.path slot with
  | none => g
  | some p =>
    match p.join with
    | none => g
    | some j => (g.arriveJoin slot j p.mask now).refill slot now

/-- Reaching the join needs a poisoned entry: the JOIN entry, the PATH entry that refills the slot, or with R41 a JOIN entry (R35). -/
def Group.reachPsn (g : Group) (slot : Bool) (now : Nat) : Bool :=
  match (g.path slot).bind fun p => p.join.map fun j => (j, p.mask) with
  | none => false
  | some (j, m) =>
    let g1 := g.arriveJoin slot j m now
    g.entryPsn j || g1.refillPsn slot || ((g1.refill slot now).stuck && g1.joinPsn)

/-- The path stands at its join (R36): at a boundary, its pc equal to the join offset of its JOIN entry. -/
def Group.atJoin (g : Group) (p : Path) : Bool :=
  match p.join with
  | none => false
  | some j =>
    match g.stack[j]? with
    | none => false
    | some e => e.kind == .join && e.pc == p.pc && p.pfx.isEmpty

/-- Lanes of the quad of lane i. -/
def quadMask (q : Nat) : Mask := 0xF#32 <<< (4 * q)

/-- The exited mask with the helper lanes of every quad whose real lanes have all exited (R25). -/
def Group.withHelpers (g : Group) (exited : Mask) : Mask :=
  (List.range 8).foldl (fun m q =>
    if g.helper &&& quadMask q ≠ 0 ∧ g.real &&& quadMask q &&& ~~~exited = 0 then m ||| (g.helper &&& quadMask q) else m) exited

/-- A path without lanes that have exited; none where no lane is left (R37). -/
def Path.without (p : Path) (gone : Mask) : Option Path :=
  if p.mask &&& ~~~gone = 0 then none else some { p with mask := p.mask &&& ~~~gone }

/-- Lanes leave the path of a slot. -/
def Group.cut (g : Group) (slot : Bool) (gone : Mask) : Group :=
  match (g.path slot).map fun p => p.without gone with
  | none => g
  | some none => g.vacate slot
  | some (some p) => g.setPath slot (some p)

/-- Lanes that have exited join the exited mask, leave paths and PATH entries, and the JOIN entries are tested from the top down (R25,
R37, R38). Where one exit leaves both slots empty (the exiting path and a sibling of retired helpers), R37 and R38 do not say which of
them a merged path takes as the freed slot; the model takes that of the exiting path (DESIGN CHOICE, log 57). -/
def Group.exitTests (g : Group) (slot : Bool) (lanes : Mask) (now : Nat) : Group :=
  let ex := g.withHelpers (g.exited ||| lanes)
  let gone := ex &&& ~~~g.exited
  let other := !slot
  let p := (g.path slot).bind fun p => p.without gone
  let o := (g.path other).bind fun p => p.without gone
  let freed := if (g.path slot).isSome && p.isNone then some slot
    else if (g.path other).isSome && o.isNone then some other else none
  let st := g.stack.map fun e =>
    if e.kind == .path then
      (if e.mask &&& ~~~gone = 0 then e.retire else { e with mask := e.mask &&& ~~~gone })
    else e
  let g1 := ({ g with exited := ex, stack := st }.cut slot gone).cut other gone
  (g1.testJoins freed now st.length).pop

/-- An EXIT: the lanes leave, then the empty slots are refilled, slot 0 before slot 1 where both are empty (R39; the order is the model's
choice, log 57). -/
def Group.exitLanes (g : Group) (slot : Bool) (lanes : Mask) (now : Nat) : Group :=
  ((g.exitTests slot lanes now).refill false now).refill true now

/-- The exit needs a poisoned entry: helper lanes leave a PATH entry, every JOIN entry is tested, and an empty slot is refilled (R25, R35, R37,
R39). -/
def Group.exitPsn (g : Group) (slot : Bool) (lanes : Mask) (now : Nat) : Bool :=
  let g1 := g.exitTests slot lanes now
  g.pathPsn (g.withHelpers (g.exited ||| lanes) &&& ~~~g.exited) || g.joinPsn || g1.refillPsn false || (g1.refill false now).refillPsn true

/-- The path that R41 forms, with the group that holds it. R41 does not say in which slot it traps: slot 0 here (DESIGN CHOICE, log 78). -/
def Group.rescue (g : Group) (now : Nat) : Option (Group × Path) :=
  match topmost (fun e => e.kind == .join && e.arrived != 0) g.stack with
  | none => none
  | some i =>
    match g.stack[i]? with
    | none => none
    | some e =>
      let p := Path.start e.pc e.arrived e.join now
      let st := (List.range g.stack.length).zip g.stack |>.map fun (k, x) => if i ≤ k && x.kind == .join then x.retire else x
      some ({ g with stack := popRetired st, path0 := some p }, p)

/-! ## Energy (R263 to R265) -/

/-- A 48-bit counter and its SAT after an amount is added (R265). -/
def addEnergy (c : BitVec 48) (sat : Bool) (n : Nat) : BitVec 48 × Bool :=
  if c.toNat + n < 2 ^ 48 then (BitVec.ofNat 48 (c.toNat + n), sat) else (BitVec.allOnes 48, true)

/-- EWTc of a partition (R263); class 15 charges nothing. -/
def Part.weight (p : Part) (cls : Nat) : Nat := if cls = 15 then 0 else ((p.ewt[cls]?).getD 0).toNat

/-- `n` events of an energy class charged to a context (R263). -/
def State.charge (s : State) (cid cls n : Nat) : State :=
  match s.ctx? cid with
  | none => s
  | some c =>
    match s.part? c.part with
    | none => s
    | some p =>
      let r := addEnergy c.energy c.sat (p.weight cls * n)
      s.modCtx cid fun c => { c with energy := r.1, sat := r.2 }

/-! ## What a context and a group hold as they begin -/

/-- The loop registers at device reset (R244). -/
def LoopRegs.reset : LoopRegs :=
  { tgt := 0, meas := 0, integ := 0, level := 0, kp := 0, ki := 0, imin := 0, imax := 0, base := 0, isat := false, lsat := false,
    short := false, held := false, partialMerge := false, ivl := 0, beats := 0, lo := [0, 0, 0, 0, 0], hi := [0, 0, 0, 0, 0],
    ask := [0, 0, 0, 0, 0], pos := [0, 0, 0, 0, 0], nextPos := [0, 0, 0, 0, 0], pendingSet := none, nextBoundary := 0,
    late := 0, tgtOld := none, began := 0, downs := [], opening := false }

/-- A context as the host's request makes it (R206, R245, R246). -/
def Context.fresh (id vf part rootPart rootAddr cls floor : Nat) (members : List Nat) : Context :=
  { id := id, vf := vf, part := part, rootPart := rootPart, rootAddr := rootAddr, cls := cls, floor := floor, state := .live,
    loop := LoopRegs.reset, trapVec := 0, energy := 0, sat := false, vpsReq := 0, vpsCur := 0, vpsFloor := 0, vpsStep := 3, tgtStamp := (0, 2 ^ 32),
    vpsStamp := (0, 2 ^ 32), wayMask := 0, slots := (0, 0, 0, 0), members := members, merge := none, image := none, rowTable := none, free := 0 }

/-- A group as it starts (R225, R29). -/
def Group.fresh (id ctx vf launch block index : Nat) (secure : Bool) (cluster core slot v g stackCap : Nat)
    (real helper : Mask) (entry : Word) (now : Nat) : Group :=
  { id := id, ctx := ctx, vf := vf, launch := launch, block := block, index := index, secure := secure, cluster := cluster,
    core := core, slot := slot, vCount := v, gCount := g, v := [], g := [], areg := List.replicate 8 AddrReg.reset,
    wreg := List.replicate 4 WinReg.reset, qreg := List.replicate 8 none,
    path0 := some (Path.start entry (real ||| helper) none now), path1 := none, real := real, helper := helper, exited := 0,
    stack := [], stackCap := stackCap, stackPsn := [], trap := TrapRegs.reset, ret := none, timeSnap := 0, enSnap := 0,
    horizons := List.replicate 8 0, outstanding := 0, psnOps := 0, accRuns := [], acc := [], accHit := [], batchNext := 1, batches := [], lost := none,
    triggered := false, park := none, stopping := false }

/-- A group leaves its slot: it holds it up to and including the present cycle, and counts for an epoch that ended while it stood there and is not
charged yet (R473). -/
def State.leaveSlot (s : State) (g : Group) : State :=
  s.modCluster g.cluster fun c =>
    let now := c.cycles s.ticks
    let counts := fun (x : LeftSlot) => decide (now ≤ x.upTo) || decide (1024 * ((c.epochs[x.core]?).getD 0 + 1) ≤ x.upTo)
    { c with left := (c.left.filter counts) ++ [⟨g.core, g.slot, g.ctx, g.since, now⟩] }

/-! ## Completing a word -/

/-- The word of the path completes: the group is written back with the path at its next boundary, and the word's class is
charged (R263). -/
def State.finishAt (s : State) (g : Group) (slot : Bool) (pc : Word) (c : Chain) (cls : Nat) : State :=
  (s.setGroup (g.modPath slot fun p => p.done s.ticks pc c)).charge g.ctx cls 1

/-- A word that is not chain-eligible completes and the path goes to the next word (R42). -/
def State.finish (s : State) (g : Group) (slot : Bool) (cls : Nat) : State :=
  match g.path slot with
  | none => s.setGroup g
  | some p => s.finishAt g slot p.nextPc Chain.none cls

/-- A path parks before its word (R51). -/
def State.parkPath (s : State) (gid : Nat) (slot : Bool) (w : Wait) : State :=
  s.modGroup gid fun g => g.modPath slot fun p => { p.park w with upTo := s.nextId }

/-- A parked path wakes (R51). -/
def State.wakePath (s : State) (gid : Nat) (slot : Bool) : State :=
  s.modGroup gid fun g => g.modPath slot fun p => p.wake s.ticks

/-- Every path that waits on something wakes when the test says so. -/
def State.wakeWhere (s : State) (t : Group → Wait → Bool) : State :=
  let f := fun (g : Group) (p : Path) => if t g p.wait then p.wake s.ticks else p
  { s with groups := s.groups.map fun g => { g with path0 := g.path0.map (f g), path1 := g.path1.map (f g) } }

/-- A register write of a group has completed: a path at MOPF looks again (R125). -/
def State.wakeMopf (s : State) (gid : Nat) : State := s.wakeWhere fun g w => g.id == gid && w == .mopf

/-! ## Traps (R267 to R272) -/

/-- The groups of a context stop at their next boundaries (R272, R273). -/
def State.stopGroups (s : State) (cid : Nat) : State :=
  { s with groups := s.groups.map fun g => if g.ctx == cid then { g with stopping := true } else g }

/-- A live context stops: its groups stop at their next boundaries, and it is not live from now on (R243, R272, R273). -/
def State.halt (s : State) (cid : Nat) (k : StopKind) : State :=
  (s.modCtx cid fun c => { c with state := .stopping k s.ticks, loop := { c.loop with downs := c.loop.downs ++ [(s.now, none)] } }).stopGroups cid

/-- A context fault: every group stops as under pre-emption, and the function's driver receives the report (R272). A context
that is stopping for a fault or is faulted already stays as it is. -/
def State.contextFault (s : State) (cid : Nat) (t : TrapRegs) (errClass : Nat) : State :=
  match s.ctx? cid with
  | none => s
  | some c =>
    let report := fun s : State => { s with outbox := s.outbox ++ [.contextReport cid t errClass, .msix c.vf 2] }
    match c.state with
    | .faulted => s
    | .stopping .fault _ => s
    | .stopping _ t0 => report (s.modCtx cid fun c => { c with state := .stopping .fault t0 })
    | .live => report (s.halt cid .fault)
    | .saved => report (s.modCtx cid fun c => { c with state := .faulted })
    | .suspended => report (s.modCtx cid fun c => { c with state := .faulted })

/-- The TRAP registers a trap writes (R268). -/
def TrapInfo.regs (t : TrapInfo) (slot handler : Bool) : TrapRegs :=
  { cause := t.cause.code, info := t.info, slot := slot, handler := handler, pc := t.pc, mask := t.mask, addr := t.addr }

/-- A trap of this group was delivered in the same cycle of its cluster (R270). -/
def State.sameCycle (s : State) (g : Group) : Bool :=
  match g.ret, s.cluster? g.cluster with
  | some r, some c => (r.at_ - c.cycTick) / poolCycle c.pool == (s.ticks - c.cycTick) / poolCycle c.pool
  | _, _ => false

/-- A batch with its mark. -/
def markBatches (bs : List (Word × Nat × Nat × Bool)) (ns : List Word) (m : Bool) : List (Word × Nat × Nat × Bool) :=
  bs.map fun b => if ns.contains b.1 then (b.1, b.2.1, b.2.2.1, m) else b

/-- What a trap reports is cleared as it is delivered (R127, R345). -/
def Group.tell (g : Group) : Option Told → Group
  | none => g
  | some t => { g with psnOps := g.psnOps - t.ops, batches := markBatches g.batches t.marks false, lost := if t.lost then none else g.lost }

/-- What a trap reported that was not the one delivered stands to be reported again (R270). -/
def Group.untell (g : Group) : Option (Told × Nat) → Group
  | none => g
  | some (t, a) => { g with psnOps := g.psnOps + t.ops, batches := markBatches g.batches t.marks true, lost := if t.lost then some a else g.lost }

/-- A trap of slot 1 in the cycle in which that of slot 0 was delivered, which stopped the path: it has no effect (R270). -/
def State.lateTrap (s : State) (g : Group) (slot : Bool) (p : Path) : Bool := g.trap.handler && slot && p.stopped && s.sameCycle g

/-- A trap of slot 0 in the cycle in which that of slot 1 was delivered: that one has no effect, and its path stops at its word (R270). -/
def State.undoOther (s : State) (g : Group) (slot : Bool) : Group :=
  match g.ret with
  | some r =>
    let vec := ((s.ctx? g.ctx).map (·.trapVec)).getD 0
    let fresh := ((g.path true).map fun o => o.pc == vec && o.pfx.isEmpty && o.chain == Chain.none).getD false
    if g.trap.handler && !slot && g.trap.slot && fresh && s.sameCycle g then
      let own := { r.own with pfx := [], chain := Chain.none, wait := .ready, ahead := [] }
      (({ g with trap := { g.trap with handler := false }, ret := none }.setPath true (some own)).modPath false fun p => { p with stopped := false }).untell r.told
    else g
  | none => g

/-- TAKING A TRAP (R269): the TRAP registers are written; a trap in handler mode or with TRAP.VEC = 0 is a context fault
(R272, log 20); else the path's mask and join, SP and the sibling go to the return record, HANDLER is set, the sibling stops at
its next boundary, and the path continues at TRAP.VEC with join NONE. A trap of slot 1 in the cycle in which that of slot 0 was delivered has no effect, and its
path stops at the word (R270). -/
def State.takeTrap (s : State) (gid : Nat) (slot : Bool) (t : TrapInfo) : State :=
  match (s.group? gid).map fun g => s.undoOther g slot with
  | none => s
  | some g =>
    match g.path slot with
    | none => s
    | some p =>
      let vec := ((s.ctx? g.ctx).map (·.trapVec)).getD 0
      if s.lateTrap g slot p then
        s.setGroup (g.modPath slot fun p => { p with pfx := [], chain := Chain.none, wait := .ready })
      else if g.trap.handler || vec == 0 then
        let regs := t.regs slot g.trap.handler
        let g1 := { g.tell t.told with trap := regs }.modPath slot fun p => { p with pfx := [], chain := Chain.none, wait := .ready }
        (s.setGroup g1).contextFault g.ctx regs 0
      else
        let rec0 : ReturnRec := { mask := p.mask, join := p.join, sp := g.sp, other := g.path (!slot), at_ := s.ticks, own := p,
                                  told := t.told.map fun x => (x, g.lost.getD 0) }
        let g1 := { g.tell t.told with trap := t.regs slot true, ret := some rec0 }
        let g2 := g1.modPath (!slot) fun o => { o with stopped := true }
        s.setGroup (g2.setPath slot (some { p.done s.ticks vec Chain.none with join := none, ahead := [] }))

/-- A trap raised by the word of a path: TRAP.PC is its first prefix (R72, R269). -/
def State.trapPath (s : State) (gid : Nat) (slot : Bool) (c : Cause) (mask : Mask) (addr : Nat) : State :=
  match (s.group? gid).bind fun g => g.path slot with
  | none => s
  | some p => s.takeTrap gid slot { cause := c, info := 0, mask := mask, addr := BitVec.ofNat 64 addr, pc := p.pc }

/-- A trap of a path that reports something of its group once. -/
def State.tellPath (s : State) (gid : Nat) (slot : Bool) (c : Cause) (mask : Mask) (addr : Nat) (told : Told) : State :=
  match (s.group? gid).bind fun g => g.path slot with
  | none => s
  | some p => s.takeTrap gid slot { cause := c, info := 0, mask := mask, addr := BitVec.ofNat 64 addr, pc := p.pc, told := some told }

/-- R41 where it applies: the path is formed and DIVSTACK is raised from it. -/
def State.unstick (s : State) (gid : Nat) : State :=
  match s.group? gid with
  | none => s
  | some g =>
    if g.stuck then
      match g.rescue s.ticks with
      | none => s
      | some (g1, p) => (s.setGroup g1).trapPath gid false .divstack p.mask 0
    else s

/-- The other slot holds exactly what it held at delivery: the stopped sibling, or nothing (R271). -/
def Group.otherAsAtDelivery (g : Group) (slot : Bool) : Bool :=
  match g.ret with
  | none => false
  | some r =>
    match r.other, g.path (!slot) with
    | none, none => true
    | some _, some o => o.stopped
    | _, _ => false

/-- RETURNING FROM A TRAP (R271): PRIV outside handler mode; a context fault where SP or the other slot differ; else the path
goes on at TRAP.PC with the return record's mask and join, HANDLER clears and the sibling is released. -/
def State.returnTrap (s : State) (g : Group) (slot : Bool) (p : Path) : State :=
  match g.ret with
  | some r =>
    if g.trap.handler then
      if g.sp == r.sp && g.otherAsAtDelivery slot then
        let g1 := { g with trap := { g.trap with handler := false }, ret := none }
        let g2 := g1.modPath (!slot) fun o => if o.stopped then { o with stopped := false, readyAt := s.ticks } else o
        let back : Path := { p.done s.ticks g.trap.pc Chain.none with mask := r.mask, join := r.join }
        (s.setGroup (g2.setPath slot (some back))).charge g.ctx 12 1
      else (s.setGroup (g.modPath slot fun p => { p with pfx := [], chain := Chain.none })).contextFault g.ctx g.trap 0
    else s.trapPath g.id slot .priv p.mask 0
  | none => s.trapPath g.id slot .priv p.mask 0

/-- What a word's body answers becomes the next state: its effect, its trap or its park. -/
def State.settle (s : State) (gid : Nat) (slot : Bool) : Except Stop State → Out
  | .ok t => .next t
  | .error (.trap c mask addr) => .next (s.trapPath gid slot c mask addr)
  | .error (.park w) => .next (s.parkPath gid slot w)

/-- The group, slot and path whose word is being executed. -/
def State.here (s : State) : Option (Group × Bool × Path) :=
  match s.cur with
  | none => none
  | some (gid, slot) =>
    match s.group? gid with
    | none => none
    | some g => (g.path slot).map fun p => (g, slot, p)

/-- A word's meaning over the path whose word it is. -/
def State.word (s : State) (body : Group → Bool → Path → Except Stop State) : Out :=
  match s.here with
  | none => .fault .noPath
  | some (g, slot, p) => s.settle g.id slot (body g slot p)

/-- A check that traps (R7: every check comes before any effect). -/
def trapIf (b : Bool) (c : Cause) (mask : Mask) (addr : Nat := 0) : Except Stop Unit :=
  if b then .error (.trap c mask addr) else .ok ()

end Sys2Proof.Machine
end

