-- ==== Sys2Proof/Machine/Home.lean ====
section
/-!
DEFINITION. Home slices: keys of memory (R158, R209), poison and written masks (R279, R280), atomic operations (R310, R399),
pending writes and their completion times (R191, R192), leases (R190), OWNED and update-only copies and their recall
(R199, R200), and L2 with its ways (R14, R159, R160).
-/
namespace Sys2Proof.Machine

/-! ## Keys of State.mem (log 6) -/

/-- Device physical addresses lie below this key. -/
def moduleSize : Nat := 2 ^ 40
/-- Key of a host physical address. -/
def hostKey (a : Nat) : Nat := 2 ^ 64 + a
/-- Key of an address of a peer module's space. -/
def peerKey (n a : Nat) : Nat := 2 ^ 65 + n * 2 ^ 57 + a
/-- The key lies in this module's HBM. -/
def inModule (key : Nat) : Bool := decide (key < moduleSize)

/-- A Dranov port, 0 to 17, or the CXL port, 18, is up (R283). -/
def State.portUp (s : State) (p : Nat) : Bool := ((s.ports[p]?).map fun x => x.state == .up).getD false

/-- The peer module of a key beyond host memory. -/
def peerOf (key : Nat) : Nat := (key - 2 ^ 65) / 2 ^ 57

/-- A Dranov port is up: flits come and go (R290). -/
def State.linkUp (s : State) : Bool := (List.range 18).any fun p => s.portUp p

/-- The port a request to a key takes: the CXL port for host memory, the first port that is up of a peer's set (R292). -/
def State.portTo (s : State) (key : Nat) : Option Nat :=
  if key < 2 ^ 65 then (if s.portUp 18 then some 18 else none)
  else ((s.routes.get? (peerOf key)).getD []).find? fun p => s.portUp p

/-- A key can be reached: this module's memory always, other memory through a port that is up (R283, R292). -/
def State.reaches (s : State) (key : Nat) : Bool := inModule key || (s.portTo key).isSome

/-- A key lies in a peer's memory. -/
def isPeer (key : Nat) : Bool := decide (2 ^ 65 ≤ key)

/-- A lost time master holds a request to a key (R291); where no port of the peer is up there is no request to hold: a load returns poison, a write
raises it (R292). -/
def State.masterHolds (s : State) (key : Nat) : Bool := s.timeLost && isPeer key && s.reaches key

/-- A new request may go to a key: none goes to a peer while the time master is lost (R291). -/
def State.mayReach (s : State) (key : Nat) : Bool := s.reaches key && !(s.timeLost && isPeer key)

/-- Device physical key of an offset in a partition's memory (R209). -/
def PartCfg.keyOf (c : PartCfg) (o : Nat) : Option Nat := (c.units[o / 2 ^ 36]?).map fun u => u * 2 ^ 36 + o % 2 ^ 36

/-- Offset in the partition's memory of a device physical key. -/
def PartCfg.offsetOf (c : PartCfg) (key : Nat) : Option Nat :=
  (c.units.findIdx? fun u => u == key / 2 ^ 36).map fun i => i * 2 ^ 36 + key % 2 ^ 36

/-- The partition that owns the unit of a key (R18). -/
def State.partAt (s : State) (key : Nat) : Option Nat := s.parts.findIdx? fun p => p.cfg.units.contains (key / 2 ^ 36)

/-- The exclusive-or of the 6-bit fields of a number, modulo the slices of U units (R158, R164). -/
def sliceOf (x units : Nat) : Nat := ((x % 64) ^^^ (x / 64 % 64) ^^^ (x / 4096 % 64)) % (4 * units)

/-- Slice of the part: the k-th slice of a partition, whose units stand in ascending number (R158). -/
def PartCfg.sliceNo (c : PartCfg) (k : Nat) : Nat := 4 * ((c.units[k / 4]?).getD 0) + k % 4

/-- Home slice of the line of a key (R158, log 17). -/
def State.homeSlice (s : State) (key : Nat) : Nat :=
  match (s.partAt key).bind fun p => s.part? p with
  | none => 0
  | some p => p.cfg.sliceNo (sliceOf ((p.cfg.offsetOf key).getD 0 / 128) p.cfg.units.length)

/-! ## Poison (R279, R280) -/

/-- How a write bears on the poison of its bytes. -/
inductive Taint where
  /-- clean data -/
  | clean
  /-- combined with the old bytes -/
  | combined
  /-- poisoned data -/
  | poisoned
deriving DecidableEq, Repr

/-- Mask bits of the bytes of `[a, a + n)` that lie in a granule. -/
def granuleBits (gr a n : Nat) : BitVec 64 :=
  let lo := if a ≤ 64 * gr then 0 else a - 64 * gr
  let hi := min 64 (a + n - 64 * gr)
  BitVec.ofNat 64 (2 ^ hi - 2 ^ lo)

/-- Granules of `[a, a + n)`, ascending. -/
def granulesOf (a n : Nat) : List Nat :=
  if n = 0 then [] else (List.range ((a + n - 1) / 64 - a / 64 + 1)).map fun i => a / 64 + i

/-- The poison of one granule after a write (R280). -/
def poisonGranule (m : Map (BitVec 64)) (a n : Nat) (t : Taint) (gr : Nat) : Map (BitVec 64) :=
  let bits := granuleBits gr a n
  match m.get? gr, t with
  | none, .poisoned => m.put gr 0
  | none, _ => m
  | some w, .clean => if w ||| bits = BitVec.allOnes 64 then m.del gr else m.put gr (w ||| bits)
  | some w, _ => m.put gr (w &&& ~~~bits)

/-- Poison and written masks after a write of `n` bytes at `a` (R280). -/
def poisonWrite (m : Map (BitVec 64)) (a n : Nat) (t : Taint) : Map (BitVec 64) :=
  (granulesOf a n).foldl (fun m gr => poisonGranule m a n t gr) m

/-- First poisoned byte of `[a, a + n)`, if any (R369). -/
def firstPoison (m : Map (BitVec 64)) (a n : Nat) : Option Nat :=
  ((granulesOf a n).find? fun gr => (m.get? gr).isSome).map fun gr => max a (64 * gr)

/-- A granule becomes poisoned, its written mask 0 (R280). -/
def poisonAt (m : Map (BitVec 64)) (gr : Nat) : Map (BitVec 64) := m.put gr 0

/-! ## Atomic operations (R310) -/

/-- The new value from the old one, the operand, and for CAS the compared value; numbers of 4 bytes, or 8 for ADD.i64. -/
def atomOp (mf : Nat) (o x c : Nat) : Nat :=
  let ow := BitVec.ofNat 32 o
  let xw := BitVec.ofNat 32 x
  match mf with
  | 0 => (ow + xw).toNat
  | 1 => (fadd ow xw).toNat
  | 2 => (minS ow xw).toNat
  | 3 => (maxS ow xw).toNat
  | 4 => (minN ow xw).toNat
  | 5 => (maxN ow xw).toNat
  | 6 => (ow &&& xw).toNat
  | 7 => (ow ||| xw).toNat
  | 8 => (ow ^^^ xw).toNat
  | 9 => xw.toNat
  | 10 => if o = c then xw.toNat else ow.toNat
  | 11 => (o + x) % 2 ^ 64
  | 12 => (badd2 ow xw).toNat
  | _ => o

/-! ## Writes on their way to visibility (R191, R192) -/

def PWrite.taint (w : PWrite) : Taint := if w.psn then .poisoned else if w.clean then .clean else .combined

/-- A write performed on memory and poison. -/
def State.store (s : State) (key : Nat) (data : List Byte) (t : Taint) : State :=
  { s with mem := s.mem.setBytes key data, poison := poisonWrite s.poison key data.length t }

def PWrite.perform (w : PWrite) (s : State) : State := s.store w.key w.data w.taint

/-- Pending writes in coherence order: GWCT, then acceptance (R192). -/
def coherent (l : List PWrite) : List PWrite := sortBy (fun w => [w.gwct, w.id]) l

/-- Every write whose GWCT has come takes effect (R192). Each home operation below begins with it. -/
def State.mature (s : State) : State :=
  let due := s.pending.filter fun w => decide (w.gwct ≤ s.now)
  (coherent due).foldl (fun s w => w.perform s) { s with pending := s.pending.filter fun w => !decide (w.gwct ≤ s.now) }

/-- The state as it will stand once every accepted write has taken effect: what an atomic access finds (R191, R192). -/
def State.latest (s : State) : State := (coherent s.pending).foldl (fun s w => w.perform s) s

/-- Writes pending on a line. -/
def State.pendingOn (s : State) (line : Nat) : List PWrite :=
  s.pending.filter fun w => decide (w.key / 128 ≤ line) && decide (line ≤ (w.key + w.data.length - 1) / 128)

def State.homeLine (s : State) (line : Nat) : HomeLine := (s.homeLines.get? line).getD ⟨0, none, []⟩
def State.setHomeLine (s : State) (line : Nat) (h : HomeLine) : State := { s with homeLines := s.homeLines.put line h }

/-- The GWCT a write to a line receives now (R191). -/
def State.gwctOf (s : State) (line : Nat) : Nat :=
  (s.pendingOn line).foldl (fun t w => max t w.gwct) (max s.now (s.homeLine line).leaseUntil)

/-- The expiry of a lease granted now (R190). -/
def State.leaseEnd (s : State) (line len : Nat) : Nat :=
  (s.pendingOn line).foldl (fun t w => min t w.gwct) (s.now + len)

/-- The number that stands for the group where the station, the host or a peer writes. -/
def noGroup : Nat := 2 ^ 64

/-- A write accepted at its home with a GWCT. -/
def State.accept (s : State) (key : Nat) (data : List Byte) (gwct grp : Nat) (slot : Bool) (t : Taint) (ctx : Nat) : State :=
  let (i, s) := s.newId
  let w : PWrite := { id := i, key := key, data := data, gwct := gwct, grp := grp, slot := slot, clean := t == .clean,
                      psn := t == .poisoned, ctx := ctx }
  { s with pending := s.pending ++ [w] }

/-! ## L2 (R14, R159, R160) -/

/-- Ways of a context's mask. -/
def waysOf (m : BitVec 16) : List Nat := (List.range 16).filter fun i => m.getLsbD i

/-- The set of a line in its slice: a choice that affects timing only (R158, log 18). -/
def l2Set (line : Nat) : Nat := line % 1536

/-- The written mask of a granule that leaves L2 is dropped (R280). -/
def dropMasks (m : Map (BitVec 64)) (line : Nat) : Map (BitVec 64) :=
  [2 * line, 2 * line + 1].foldl (fun m gr => if (m.get? gr).isSome then m.put gr 0 else m) m

/-- A line leaves L2: written back to HBM where it is dirty, charged to the context in its tag (R160, R263, R280). -/
def State.l2Drop (s : State) (line : Nat) : State :=
  match s.l2.get? line with
  | none => s
  | some l =>
    let s1 := { s with l2 := s.l2.del line, poison := dropMasks s.poison line }
    if l.dirty then s1.charge l.ctx 7 2 else s1

/-- The way a fill takes: one of the mask that is empty, else that of the least recently used line (R160). -/
def l2Victim (held : List (Nat × L2Line)) (ways : List Nat) : Option (Nat × Option Nat) :=
  match ways.find? fun w => !(held.any fun e => e.2.way == w) with
  | some w => some (w, none)
  | none => (leastBy (fun e => e.2.used) (held.filter fun e => ways.contains e.2.way)).map fun e => (e.2.way, some e.1)

/-- Poison bits of a line's two granules. -/
def State.linePsn (s : State) (line : Nat) : Bool × Bool :=
  ((s.poison.get? (2 * line)).isSome, (s.poison.get? (2 * line + 1)).isSome)

/-- The line by which a home knows a cached line: that of its bytes, or of the remote bytes where its page has left HBM. -/
def CLine.tag (l : CLine) : Nat :=
  match l.away with
  | none => l.line
  | some (e, va) => (e.key + (va - e.page)) / 128

def Cluster.line? (c : Cluster) (line : Nat) : Option CLine := c.lines.find? fun l => l.tag == line

/-- What the home holds of a line, and its poison: not yet the atomics performed in a cluster that holds it OWNED (R199). -/
def State.homeValue (s : State) (line : Nat) : List Byte × Bool × Bool :=
  let held := ((s.homeLine line).owned.bind fun cl => s.cluster? cl).bind fun c => (c.line? line).bind fun l => l.base
  held.getD (s.mem.bytes (128 * line) 128, s.linePsn line)

/-- A held line used again. A clean one that a write makes dirty keeps what HBM holds of it (R282). -/
def State.l2Use (s : State) (line : Nat) (l : L2Line) (write : Bool) : L2Line :=
  let l1 := { l with used := s.ticks, dirty := l.dirty || write }
  if write && !l.dirty then { l1 with hbm := (s.homeValue line).1, hbmPsn := (s.homeValue line).2 } else l1

/-- A line filled into one of a list of ways of a slice (R159, R160); with no way nothing is filled. -/
def State.l2FillAt (s : State) (slice : Nat) (ways : List Nat) (ctx line : Nat) (write : Bool) : State :=
  let set := l2Set line
  let held := s.l2.filter fun e => e.2.slice == slice && e.2.set == set
  match l2Victim held ways with
  | none => s
  | some (w, out) =>
    let s1 := match out with
      | some l => s.l2Drop l
      | none => s
    let k := 16 * slice + w
    let users := (s1.wayFills.get? k).getD []
    let l : L2Line := { slice := slice, set := set, way := w, ctx := ctx, used := s.ticks, dirty := false, hbm := [],
                        hbmPsn := (false, false) }
    { s1 with l2 := s1.l2.put line (s1.l2Use line l write),
              wayFills := if users.contains ctx then s1.wayFills else s1.wayFills.put k (users ++ [ctx]) }

/-- A line filled at its home slice. -/
def State.l2Fill (s : State) (ways : List Nat) (ctx line : Nat) (write : Bool) : State :=
  s.l2FillAt (s.homeSlice (128 * line)) ways ctx line write

/-- A line of the module's memory that L2 does not hold. -/
def State.l2Misses (s : State) (line : Nat) : Bool := (s.l2.get? line).isNone

/-- A line used at its slice, or filled into one of a list of ways where it is not held; what that costs is charged elsewhere. -/
def State.l2Look (s : State) (ways : List Nat) (ctx line : Nat) (write : Bool) : State :=
  match s.l2.get? line with
  | some l => { s with l2 := s.l2.put line (s.l2Use line l write) }
  | none => s.l2Fill ways ctx line write

/-- A request of a context at a slice that fills into a list of ways: `sectors` sectors of a line, with the HBM transfer a miss causes
(R160, R263). -/
def State.l2Via (s : State) (ways : List Nat) (ctx line sectors : Nat) (write : Bool) : State :=
  if !inModule (128 * line) then s
  else
    let s1 := s.charge ctx 6 sectors
    (if s1.l2Misses line then s1.charge ctx 7 2 else s1).l2Look ways ctx line write

/-- Ways 16 − S to 15 (R159). -/
def PartCfg.shareWays (c : PartCfg) : List Nat := (List.range c.systemShare).map fun i => 16 - c.systemShare + i

/-- The system share of the slice that homes a line (R159). -/
def State.shareWays (s : State) (line : Nat) : List Nat :=
  match (s.partAt (128 * line)).bind fun p => s.part? p with
  | some p => p.cfg.shareWays
  | none => []

/-! ## Reserved memory (R35, R159, R217, R275) -/

/-- A place in the memory that the station reserves in a partition outside every window. The spec gives it no addresses: here every partition has
a space of its own above all keys of State.mem, with its divergence stacks, its fault buffer and its images one after another (DESIGN CHOICE,
log 61). -/
def reservedKey (part o : Nat) : Nat := 2 ^ 80 + part * 2 ^ 60 + o

/-- Entry i of a group's divergence stack (R35). -/
def stackKey (part : Nat) (g : Group) (i : Nat) : Nat := reservedKey part (((4 * g.cluster + g.core) * 128 + g.slot) * 4096 + 16 * i)
/-- Record n of the fault buffer (R217). -/
def recordKey (part n : Nat) : Nat := reservedKey part (2 ^ 40 + 32 * (n % 4096))
/-- The image of a context (R275). -/
def imageKey (part ctx : Nat) : Nat := reservedKey part (2 ^ 50 + ctx * 2 ^ 36)

/-- The context of lines that no context has filled: nobody is charged for them. -/
def nobody : Nat := 4096

/-- The station reads or writes reserved memory of a partition: its lines pass through the system share (R159). It is charged to nobody, and so is
what such a line costs as it leaves (R263 names contexts alone; DESIGN CHOICE, log 61). -/
def State.shareUse (s : State) (part key n : Nat) : State :=
  match s.part? part with
  | none => s
  | some p =>
    (List.range (if n = 0 then 0 else (key + n - 1) / 128 - key / 128 + 1)).foldl (fun s i =>
      let line := key / 128 + i
      match s.l2.get? line with
      | some l => { s with l2 := s.l2.put line { l with used := s.ticks } }
      | none => s.l2FillAt (p.cfg.sliceNo (sliceOf line p.cfg.units.length)) p.cfg.shareWays nobody line false) s

/-- What a word or an event has done to a group's divergence stack, in reserved memory: the entries that it has written or taken off, and every JOIN
entry where all of them are tested (R35, R37). -/
def State.stackSeen (s : State) (g : Group) (tested : Bool) (t : State) : State :=
  match t.group? g.id with
  | none => t
  | some h =>
    let hit := fun (i : Nat) => g.stack[i]? != h.stack[i]? || (tested && ((g.stack[i]?).map fun e => e.kind == .join).getD false)
    ((List.range (max g.sp h.sp)).filter hit).foldl (fun t i => t.shareUse (s.partOf g.ctx) (stackKey (s.partOf g.ctx) g i) 16) t

/-- The ways that a context's data may fill in the slice that homes a line: those of its mask outside that slice's system share (R159,
R160). -/
def State.dataWays (s : State) (ctx line : Nat) : List Nat :=
  (waysOf (((s.ctx? ctx).map (·.wayMask)).getD 0)).filter fun w => !(s.shareWays line).contains w

/-- A request for a program's data: it fills the ways of the context's mask (R160). -/
def State.l2Access (s : State) (ctx line sectors : Nat) (write : Bool) : State :=
  s.l2Via (s.dataWays ctx line) ctx line sectors write

/-- A table walk reads one entry through the system share (R206); its sector is charged to the context whose access caused the walk, not to
one that the station walks for (R263, R472, log 58). -/
def State.walkRead (s : State) (charged : Bool) (ctx line : Nat) : State :=
  let t := s.l2Via (s.shareWays line) ctx line 1 false
  if charged then t else { t with contexts := s.contexts }

/-- Distinct 32-byte sectors of a list of accesses. -/
def sectorsOf (l : List Acc) (size : Nat) : Nat :=
  (dedup ((l.map fun a => (List.range ((a.key + size - 1) / 32 - a.key / 32 + 1)).map fun i => a.key / 32 + i).flatten)).length

/-! ## Recalls (R199, R200) -/

def Cluster.dropLine (c : Cluster) (line : Nat) : Cluster := { c with lines := c.lines.filter fun l => l.tag != line }
def Cluster.setLine (c : Cluster) (l : CLine) : Cluster :=
  { c with lines := c.lines.map fun x => if x.tag == l.tag then l else x }

/-- A partial combined into the home's value (R200, R399). -/
def State.combine (s : State) (line : Nat) (p : Partial) : State :=
  let key := 128 * line + p.off
  let o := leNat (s.mem.bytes key p.width)
  s.store key (leBytes p.width (atomOp p.code o p.data 0)) .combined

/-- Partials of one line combined in the order in which they were started, charged to the line's context (R263). -/
def State.combineAll (s : State) (l : CLine) (ps : List Partial) : State :=
  let sectors := (dedup (ps.map fun p => p.off / 32)).length
  if ps.isEmpty then s else ps.foldl (fun s p => s.combine l.line p) (s.l2Access l.ctx l.line sectors true)

/-- A partial of a page that has left HBM, on its way to the manifest home (R163, R200). -/
def State.sendPartial (s : State) (cl : Nat) (l : CLine) (e : TlbEntry) (va : Nat) (p : Partial) : State :=
  let (i, s1) := s.newId
  let a : Acc := { lane := 0, va := va + p.off, key := e.key + (va - e.page) + p.off, tile := some e, data := leBytes p.width p.data,
                   cmp := 0, done := false, result := [], psn := none }
  let f : Flight :=
    { id := i, grp := noGroup, slot := false, cluster := cl, ctx := l.ctx, kind := .red, mf := p.code, size := p.width, cache := 0,
      local_ := false, accs := [a], lanes := 1, one := true, dst := .nowhere, pageLanes := 0, pageLevel := 0, pageVa := 0,
      fetchLanes := 0, fetches := [], visMod := 0, visOut := 0, cls := 15, blocking := false, acq := false, posted := s.ticks }
  { s1 with flights := s1.flights ++ [f] }

/-- Any line leaves a cluster cache: a lease is dropped, an OWNED line is written back, an update-only line sends its partials
home (R199, R200), to the manifest home where its page has left HBM (R163). -/
def State.evict (s : State) (cl : Nat) (l : CLine) : State :=
  let drop := fun (s : State) => s.modCluster cl fun c => c.dropLine l.tag
  let h := s.homeLine l.tag
  match l.kind with
  | .lease _ => drop s
  | .owned => (drop (s.l2Access l.ctx l.tag 4 true)).setHomeLine l.tag { h with owned := none }
  | .updateOnly =>
    let s2 := (drop s).setHomeLine l.tag { h with upd := h.upd.filter fun c => c != cl }
    match l.away with
    | none => s2.combineAll l l.partials
    | some (e, va) => l.partials.foldl (fun s p => s.sendPartial cl l e va p) s2

/-- One cluster's OWNED or update-only copy of a line recalled. -/
def State.recallFrom (s : State) (line cl : Nat) : State :=
  match (s.cluster? cl).bind fun c => c.line? line with
  | none => s
  | some l =>
    match l.kind with
    | .lease _ => s
    | _ => s.evict cl l

/-- R199 and R200: every OWNED and update-only copy of a line recalled, in ascending cluster number. -/
def State.recall (s : State) (line : Nat) : State :=
  let h := s.homeLine line
  let cls := sortBy (fun c => [c]) (h.upd ++ h.owned.toList)
  cls.foldl (fun s c => s.recallFrom line c) s

/-- The home's state when a request for a line arrives: due writes visible, copies recalled. -/
def State.atHome (s : State) (line : Nat) : State := s.mature.recall line

/-! ## Horizons (R196) -/

/-- H0 to H7 raised by a visibility time: all of them for a target in the module, else H7 alone. -/
def raise (h : List Nat) (t : Nat) (inside : Bool) : List Nat :=
  if inside then h.map fun x => max x t else modifyAt h 7 fun x => max x t

def State.raiseHorizons (s : State) (gid t : Nat) (inside : Bool) : State :=
  s.modGroup gid fun g => { g with horizons := raise g.horizons t inside }

end Sys2Proof.Machine
end

