-- ==== Sys2Proof/Machine/Translate.lean ====
section
/-!
DEFINITION. Translation: page tables and their entries (R206, R207), the walk and its outcomes (R208), base and bound (R209),
the TLB and the frame of an address register (R210 to R213), the canonical and alignment checks (R144) and the choice of
the trap among lanes (R145).
-/
namespace Sys2Proof.Machine

/-! ## Accesses -/

/-- What an access is, for permissions and for KIND of a fault record (R208, R217). -/
inductive Access where
  | load
  | store
  | atomic
  | reduction
  | fetch
  | copySrc
  | copyDst
  | tuple
deriving DecidableEq, Repr

/-- KIND (R217). A tuple word is recorded as an atomic (log 33). -/
def Access.code : Access → Nat
  | .load => 0
  | .store => 1
  | .atomic => 2
  | .reduction => 3
  | .fetch => 4
  | .copySrc => 5
  | .copyDst => 6
  | .tuple => 2

/-- The permissions an access needs (R208 step 4). -/
def Access.permitted (a : Access) (l : LeafInfo) : Bool :=
  match a with
  | .load | .copySrc => l.r
  | .store | .reduction | .copyDst => l.w
  | .atomic | .tuple => l.r && l.w
  | .fetch => l.x

/-- Outcome of one access's translation: a trap with its rank of R145 and R208, a page fault with the level whose entry has
V = 0, a byte of HBM, or a byte of a tile that is not resident. -/
inductive Xlat where
  | fault (rank : Nat) (c : Cause)
  | page (level : Nat)
  | mem (key : Nat)
  | tile (e : TlbEntry) (remote : Nat)
  /-- an address of a tuple page, which has no bytes (R175) -/
  | tuple
deriving DecidableEq, Repr

/-! ## Ranks of R145 and R208 -/

def rankAddress : Nat := 1
def rankMisaligned : Nat := 2
def rankPoison : Nat := 3
def rankMalformed : Nat := 4
def rankBound : Nat := 5
def rankPermission : Nat := 6
def rankClass : Nat := 7

/-! ## Canonical addresses (R144) -/

/-- Bits 63:57 equal bit 56. -/
def canonical (a : Nat) : Bool := a / 2 ^ 56 == 0 || a / 2 ^ 56 == 255

/-- Both ends of an access are canonical and on one side. -/
def canonicalRange (x : Int) (size : Nat) : Bool :=
  let lo := x.toNat
  let hi := lo + size - 1
  decide (0 ≤ x) && decide (hi < 2 ^ 64) && canonical lo && canonical hi && lo / 2 ^ 56 == hi / 2 ^ 56

/-! ## Page-table entries (R207) -/

/-- Bits of an entry. -/
def pteBits (e : DWord) (lo n : Nat) : Nat := e.toNat / 2 ^ lo % 2 ^ n

def pteV (e : DWord) : Bool := e.getLsbD 0
def pteLeaf (e : DWord) : Bool := e.getLsbD 1
def pteCls (e : DWord) : Nat := pteBits e 6 2
def pteRes (e : DWord) : Nat := pteBits e 8 3
def pteAdr (e : DWord) : Nat := pteBits e 16 36
def ptePart (e : DWord) : Nat := pteBits e 52 4
def ptePeer (e : DWord) : Nat := pteBits e 56 8

def pteInfo (e : DWord) : LeafInfo :=
  { r := e.getLsbD 2, w := e.getLsbD 3, x := e.getLsbD 4, ns := e.getLsbD 5, cls := e.extractLsb' 6 2 }

/-- A level of the walk: number, lowest index bit, index bits (R206). -/
structure Level where
  no : Nat
  shift : Nat
  bits : Nat
deriving DecidableEq, Repr

def Level.tableSize (l : Level) : Nat := 8 * 2 ^ l.bits
def Level.pageSize (l : Level) : Nat := 2 ^ l.shift
def Level.index (l : Level) (va : Nat) : Nat := va / 2 ^ l.shift % 2 ^ l.bits

/-- The four levels, root first (R206). -/
def levels : List Level := [⟨3, 43, 14⟩, ⟨2, 30, 13⟩, ⟨1, 21, 9⟩, ⟨0, 16, 5⟩]

/-- A table entry is malformed: it leads to a table of `size` bytes (R207). -/
def tableMalformed (e : DWord) (size : Nat) : Bool :=
  pteBits e 2 11 != 0 || pteBits e 13 3 != 0 || pteBits e 11 2 != 0 || ptePeer e != 0 || pteBits e 48 4 != 0 ||
    pteAdr e * 256 % size != 0

/-- A leaf is malformed: it maps a page of `size` bytes. A FETCHING leaf keeps ADR and PEER as they were (R207, log 19). -/
def leafMalformed (e : DWord) (size : Nat) : Bool :=
  let cls := pteCls e
  let res := pteRes e
  cls == 3 || decide (4 ≤ res) || (res != 0 && cls != 1) || (pteBits e 11 2 != 0 && cls != 1) || pteBits e 13 3 != 0 ||
    pteAdr e * 65536 % size != 0 || (res == 0 && pteBits e 40 12 != 0) || (decide (res ≤ 1) && ptePeer e != 0)

/-- A valid entry of a level is malformed (R207). `next` is the size of the tables of the next level. -/
def malformed (e : DWord) (l : Level) (next : Option Nat) : Bool :=
  match next with
  | none => !pteLeaf e || leafMalformed e l.pageSize
  | some n => if pteLeaf e then l.no == 3 || leafMalformed e l.pageSize else tableMalformed e n

/-! ## Base and bound (R209) -/

/-- The key of a partition-relative address of a function; none outside its window. -/
def State.confine (s : State) (v : Vf) (idx p : Nat) : Option Nat :=
  match v.parts[idx]?, v.windows[idx]? with
  | some pid, some (base, bound) =>
    if p < bound then (s.part? pid).bind fun pt => pt.cfg.keyOf (base + p) else none
  | _, _ => none

/-! ## The walk (R208) -/

/-- A walk's outcome. -/
inductive Walked where
  | fault (rank : Nat) (c : Cause)
  | page (level : Nat)
  | leaf (e : TlbEntry)
deriving DecidableEq, Repr

/-- A fetch, and a swap-out, is of the page of a function at an address (R164, R173). -/
def Fetch.isOf (f : Fetch) (vf page : Nat) : Bool := f.vf == vf && f.page == page
def Swap.isOf (w : Swap) (vf page : Nat) : Bool := w.vf == vf && w.page == page

/-- First key of the bytes a leaf maps: a partition-relative address where it is resident, else the remote key. -/
def State.leafKeyOf (s : State) (e : DWord) (vf page : Nat) : Nat :=
  let a := pteAdr e * 65536
  match pteRes e with
  | 0 => a
  | 1 => hostKey a
  | 2 => peerKey (ptePeer e) a
  | _ =>
    match s.fetches.find? fun f => f.isOf vf page with
    | some f => f.remote
    | none => if ptePeer e = 0 then hostKey a else peerKey (ptePeer e) a

/-- The walk from a table on. Entries are read at their homes through the system share: due writes are visible and copies recalled
(R159, R206). -/
def State.walkFrom (s : State) (charged : Bool) (cid : Nat) (vid : Nat) (v : Vf) (va : Nat) : List Level → Nat → Nat → State × Walked
  | [], _, _ => (s, .fault rankMalformed .protection)
  | l :: ls, idx, table =>
    match s.confine v idx (table + 8 * l.index va) with
    | none => (s, .fault rankBound .bound)
    | some key =>
      let s1 := (s.atHome (key / 128)).walkRead charged cid (key / 128)
      let e : DWord := BitVec.ofNat 64 (leNat (s1.mem.bytes key 8))
      if (firstPoison s1.poison key 8).isSome then (s1, .fault rankPoison .poison)
      else if !pteV e then (s1, .page l.no)
      else if malformed e l (ls.head?.map Level.tableSize) then (s1, .fault rankMalformed .protection)
      else if pteLeaf e then
        if pteCls e != 2 && decide (v.parts.length ≤ ptePart e) then (s1, .fault rankBound .bound)
        else
          (s1, .leaf { ctx := cid, vf := vid, page := va / l.pageSize * l.pageSize, size := l.pageSize,
                       key := s1.leafKeyOf e vid (va / l.pageSize * l.pageSize), part := ptePart e, leaf := pteInfo e, res := e.extractLsb' 8 3,
                       wp := e.getLsbD 11, rp := e.getLsbD 12, leafKey := key })
      else if v.parts.length ≤ ptePart e then (s1, .fault rankBound .bound)
      else s1.walkFrom charged cid vid v va ls (ptePart e) (pteAdr e * 256)

/-- The walk of an address of a context, bits 56:0 (R206, R208); `charged` where an access of the context causes it (R472). -/
def State.walk (s : State) (cid va : Nat) (charged : Bool := true) : State × Walked :=
  match s.ctx? cid with
  | none => (s, .page 3)
  | some c =>
    match s.vf? c.vf with
    | none => (s, .page 3)
    | some v => s.walkFrom charged cid c.vf v (va % 2 ^ 57) levels c.rootPart c.rootAddr

/-! ## TLB (R212, R213) -/

def TlbEntry.covers (e : TlbEntry) (cid va : Nat) : Bool :=
  e.ctx == cid && decide (e.page ≤ va % 2 ^ 57) && decide (va % 2 ^ 57 < e.page + e.size)

/-- The leaf of an address, by the TLB or on a miss by a walk (R212, log 21). -/
def State.lookup (s : State) (cid va : Nat) (charged : Bool := true) : State × Walked :=
  match s.tlb.find? fun e => e.covers cid va with
  | some e => (s, .leaf e)
  | none =>
    match s.walk cid va charged with
    | (s1, .leaf e) => ({ s1 with tlb := s1.tlb ++ [e] }, .leaf e)
    | r => r

/-- Steps 4 and 5 of R208 for an access other than a tuple word's. -/
def checkLeaf (acc : Access) (secure : Bool) (l : LeafInfo) : Option (Nat × Cause) :=
  if (!secure && !l.ns) || !acc.permitted l then some (rankPermission, .protection)
  else if l.cls == 2 && acc != .tuple then some (rankClass, .cls)
  else none

/-- The station logs a non-secure access of a program to a secure page (R297). -/
def State.logWorld (s : State) (secure : Bool) (l : LeafInfo) : State :=
  if !secure && !l.ns then { s with station := { s.station with logged := s.station.logged + 1 } } else s

/-- A byte of a leaf's page: its key, or the tile (R209, R161). -/
def State.place (s : State) (e : TlbEntry) (va : Nat) : Xlat :=
  let off := va % 2 ^ 57 - e.page
  if e.res ≠ 0 then .tile e (e.key + off)
  else
    match (s.vf? e.vf).bind fun v => s.confine v e.part (e.key + off) with
    | some key => .mem key
    | none => .fault rankBound .bound

/-- An address translated by the TLB route and checked (R208). BOUND of a page ranks before its permissions. -/
def State.translate (s : State) (cid : Nat) (secure : Bool) (acc : Access) (va : Nat) : State × Xlat :=
  match s.lookup cid va (acc != .fetch) with
  | (s1, .fault r c) => (s1, .fault r c)
  | (s1, .page l) => (s1, .page l)
  | (s1, .leaf e) =>
    let x := if e.leaf.cls == 2 then .tuple else s1.place e va
    match x with
    | .fault r c => (s1, .fault r c)
    | x =>
      match checkLeaf acc secure e.leaf with
      | some (r, c) => (s1.logWorld secure e.leaf, .fault r c)
      | none => (s1, x)

/-! ## Address registers (R210, R212) -/

/-- The byte at an offset of a register's frame, confined as its page is (R209, R212). -/
def State.framePlace (s : State) (vid : Nat) (a : AddrReg) (o : Nat) : Xlat :=
  match s.partAt a.frame.toNat, s.vf? vid with
  | some pid, some v =>
    match (s.part? pid).bind fun pt => pt.cfg.offsetOf a.frame.toNat, v.parts.findIdx? fun p => p == pid with
    | some f, some idx =>
      match v.windows[idx]? with
      | some (base, _) =>
        match s.confine v idx (f + o - base) with
        | some key => .mem key
        | none => .fault rankBound .bound
      | none => .fault rankBound .bound
    | _, _ => .fault rankBound .bound
  | _, _ => .fault rankBound .bound

/-- One access through an address register at byte offset `o` from its base: the checks of R144, then the frame where it
serves the access, else the TLB (R143, R212). Answers the address and the outcome. -/
def State.reach (s : State) (g : Group) (acc : Access) (a : AddrReg) (o : Int) (size : Nat) : State × Nat × Xlat :=
  let x : Int := a.base.toNat + o
  let va := (x % 2 ^ 64).toNat
  if !canonicalRange x size then (s, va, .fault rankAddress .address)
  else if va % size != 0 then (s, va, .fault rankMisaligned .misaligned)
  else if 0 ≤ o ∧ o + size ≤ a.limit.toNat then
    match s.framePlace g.vf a o.toNat with
    | .fault r c => (s, va, .fault r c)
    | x =>
      match checkLeaf acc g.secure a.leaf with
      | some (r, c) => (s.logWorld g.secure a.leaf, va, .fault r c)
      | none => (s, va, x)
  else
    let r := s.translate g.ctx g.secure acc va
    (r.1, va, r.2)

/-! ## Lanes (R145) -/

/-- A lane's address and outcome. -/
structure LaneX where
  lane : Nat
  va : Nat
  x : Xlat
deriving DecidableEq, Repr

def LaneX.rank (l : LaneX) : Nat :=
  match l.x with
  | .fault r _ => r
  | _ => 100

/-- The trap of R145: the earliest-ranked step, its lanes, the address of the lowest. -/
def laneTrap (ls : List LaneX) : Option Stop :=
  match leastBy LaneX.rank ls with
  | none => none
  | some l =>
    match l.x with
    | .fault r c =>
      let m := maskOf ((ls.filter fun l => l.rank == r).map fun l => l.lane)
      some (.trap c m l.va)
    | _ => none

/-- Every lane's access translated, in ascending lane order. -/
def State.reachLanes (s : State) (g : Group) (acc : Access) (a : AddrReg) (size : Nat) (off : Nat → Int) :
    List Nat → State × List LaneX
  | [] => (s, [])
  | i :: is =>
    let (s1, va, x) := s.reach g acc a (off i) size
    let (s2, ls) := s1.reachLanes g acc a size off is
    (s2, { lane := i, va := va, x := x } :: ls)

/-! ## Shootdown of translations (R213 steps 1 and 2) -/

/-- Two ranges of addresses overlap. -/
def overlaps (a n b m : Nat) : Bool := decide (0 < n) && decide (0 < m) && decide (a < b + m) && decide (b < a + n)

/-- An address register without its frame where its span overlaps the range. Addresses are compared by bits 56:0, as tables hold them: a
canonical address of the upper half has its other bits set (R144, R206). -/
def AddrReg.shoot (a : AddrReg) (lo n : Nat) : AddrReg :=
  if overlaps (a.base.toNat % 2 ^ 57) a.limit.toNat (lo % 2 ^ 57) n then { a with limit := 0 } else a

/-- A register without its frame where FRAME is a key that a test names. -/
def AddrReg.unframe (a : AddrReg) (hit : Nat → Bool) : AddrReg := if hit a.frame.toNat then { a with limit := 0 } else a

def Group.unframe (g : Group) (hit : Nat → Bool) : Group := { g with areg := g.areg.map fun a => a.unframe hit }

/-- A window of a function has moved: LIMIT is cleared in every register of the function whose FRAME lies in that partition, in saved images too,
so that its accesses take the pages where they are now whichever way they are translated (R209, R212; DEDUCED, log 100). -/
def State.unframe (s : State) (vid part : Nat) : State :=
  let hit := fun key => s.partAt key == some part
  { s with
    groups := s.groups.map fun g => if g.vf == vid then (g.unframe hit).forget else g
    contexts := s.contexts.map fun (k, c) =>
      if c.vf == vid then (k, { c with image := c.image.map fun i => { i with groups := i.groups.map fun g => g.unframe hit } })
      else (k, c) }

def Group.shoot (g : Group) (lo n : Nat) : Group := { g with areg := g.areg.map fun a => a.shoot lo n }

/-- Translations of a function's range removed from every TLB, and LIMIT cleared in its registers and saved images. A range
is of canonical addresses, `[lo, lo + n)`; `pick` chooses the contexts. -/
def State.shoot (s : State) (vid lo n : Nat) (pick : Nat → Bool) : State :=
  let hit := fun (e : TlbEntry) => e.vf == vid && pick e.ctx && overlaps e.page e.size (lo % 2 ^ 57) n
  { s with
    tlb := s.tlb.filter fun e => !hit e
    groups := s.groups.map fun g => if g.vf == vid && pick g.ctx then (g.shoot lo n).forget else g
    contexts := s.contexts.map fun (k, c) =>
      if c.vf == vid && pick k then
        (k, { c with image := c.image.map fun i => { i with groups := i.groups.map fun g => g.shoot lo n } })
      else (k, c) }

end Sys2Proof.Machine
end

