-- ==== Sys2Proof/Machine/Chain.lean ====
section
/-!
DEFINITION. Instruction fetch (R30, R53, R208) and the chain a path is in (R42, R45, R46): what stands at a boundary, and where none lies (R52).
-/
namespace Sys2Proof.Machine

/-! ## Fetch -/

/-- What a fetch finds: a word, a trap, or a path that stops. -/
inductive Fetched where
  | word (w : Word)
  | trap (c : Cause)
  | page (level : Nat)
  | absent (e : TlbEntry)
deriving DecidableEq, Repr

/-- The virtual address of the path's next word or prefix: the launch's code base and the offset (R29). -/
def State.fetchAddr (s : State) (g : Group) (p : Path) : Nat :=
  ((s.launch? g.launch).map (·.lpb.codeBase)).getD 0 + p.wordPc.toNat

/-- The word at the path's program counter (R208; poisoned code and code in a tile that is not resident are log 25). -/
def State.fetch (s : State) (g : Group) (p : Path) : State × Fetched :=
  let va := s.fetchAddr g p
  if !canonicalRange va 4 then (s, .trap .address)
  else if va % 4 != 0 then (s, .trap .misaligned)
  else
    match s.mature.translate g.ctx g.secure .fetch va with
    | (s1, .fault _ c) => (s1, .trap c)
    | (s1, .page l) => (s1, .page l)
    | (s1, .tile e _) => (s1, .absent e)
    | (s1, .tuple) => (s1, .trap .cls)
    | (s1, .mem key) =>
      let s2 := s1.recall (key / 128)
      if (firstPoison s2.poison key 4).isSome then (s2, .trap .poison)
      else (s2, .word (BitVec.ofNat 32 (leNat (s2.mem.bytes key 4))))

/-! ## Chains (R42, R46) -/

/-- Opcodes of R42, with U and queue codes. -/
def wordChains (w : Word) : Bool :=
  if w.getLsbD 31 then decide ((fOp7 w).toNat ≤ 0x21)
  else
    let op := (fOp6 w).toNat
    (decide (op ≤ 0x2F) || op == 0x34 || op == 0x35 || op == 0x36 || op == 0x3F) && !fU w && !isQueueCode (fD w) &&
      !isQueueCode (fA w)

/-- A transparent prefix: IMM, or REG without REL (R42). -/
def pfxTransparent (w : Word) : Bool :=
  fOp7 w == 0x7F && w.getLsbD 31 && ((w.extractLsb' 22 2) == 1 || ((w.extractLsb' 22 2) == 0 && (w.extractLsb' 13 2) == 0))

/-- The words from an offset continue a chain: a chain-eligible word after at most two transparent prefixes. -/
def State.chainsFrom (s : State) (g : Group) (p : Path) : Nat → Bool
  | 0 => false
  | n + 1 =>
    match (s.fetch g p).2 with
    | .word w => if pfxTransparent w then s.chainsFrom g { p with pc := p.pc + 4 } n else wordChains w
    | _ => false

/-- The path is in a chain: its next word belongs to the same one (R42, R45). -/
def State.inChain (s : State) (g : Group) (p : Path) : Bool :=
  decide (0 < p.chain.len) && decide (p.chain.len < 64) &&
    (if p.pfx.isEmpty then s.chainsFrom g p 3
     else p.pfx.all (fun x =>
         match x with
         | .imm _ => true
         | .reg r => r.rel == 0
         | .mem _ => false) && s.chainsFrom g p 2)

/-- The path stands between a prefix and its word, or inside a chain: no stop lies there (R46, R52). -/
def State.mid (s : State) (g : Group) (p : Path) : Bool := !p.pfx.isEmpty || s.inChain g p


end Sys2Proof.Machine
end

