-- ==== Sys2Proof/Machine/Manifest.lean ====
section
/-!
DEFINITION. Pending-operation manifests (R164 to R170): entries, appends, compaction, CONSULT reads and application; and the path's own writes
that its loads find before they are visible (R193).
-/
namespace Sys2Proof.Machine

/-! ## Entries (R165) -/

def ManEntry.width (e : ManEntry) : Nat := 2 ^ e.wlog.toNat
def ManEntry.offset (e : ManEntry) : Nat := e.ofs.toNat
def ManEntry.bytes (e : ManEntry) : List Byte := leBytes e.width e.data.toNat

/-- Two runs of bytes overlap. -/
def ManEntry.over (e : ManEntry) (ofs n : Nat) : Bool := decide (e.offset < ofs + n) && decide (ofs < e.offset + e.width)

/-- One entry. -/
def manEntry (red : Bool) (code ofs wlog ctx : Nat) (data : List Byte) : ManEntry :=
  { ofs := BitVec.ofNat 16 ofs, wlog := BitVec.ofNat 2 wlog, red := red, psn := false,
    code := if red then BitVec.ofNat 4 code else 0, ctx := BitVec.ofNat 12 ctx, data := BitVec.ofNat 64 (leNat data) }

/-- WLOG of a width up to 8. -/
def wlogOf (n : Nat) : Nat := if n = 1 then 0 else if n = 2 then 1 else if n = 4 then 2 else 3

/-- The entries of one lane access, in ascending address (R166). -/
def entriesOf (red : Bool) (code ofs ctx : Nat) (data : List Byte) : List ManEntry :=
  if data.length ≤ 8 then [manEntry red code ofs (wlogOf data.length) ctx data]
  else (List.range (data.length / 8)).map fun i => manEntry red code (ofs + 8 * i) 3 ctx ((data.drop (8 * i)).take 8)

/-! ## Compaction (R168, R169) -/

/-- REDs of one code that combine with each other: not ADD.f32, not ADD.bf16x2 (R169). -/
def combinable (code : Nat) : Bool := code == 0 || (2 ≤ code && code ≤ 8) || code == 11

/-- The combined entry of a pair of one OFS and WLOG, the earlier first (R169). -/
def combineEntries (a b : ManEntry) : Option ManEntry :=
  let op := BitVec.ofNat 64 (atomOp b.code.toNat a.data.toNat b.data.toNat 0)
  if !b.red then some { b with psn := a.psn || b.psn }
  else if !a.red then some { b with psn := a.psn || b.psn, red := false, code := 0, data := op }
  else if a.code == b.code && combinable b.code.toNat then some { b with psn := a.psn || b.psn, data := op }
  else none

/-- The scan of one entry against the entries before it. -/
def scanEntry (done : List ManEntry) (e : ManEntry) : List ManEntry :=
  match done.reverse.findIdx? fun x => x.over e.offset e.width with
  | none => done ++ [e]
  | some k =>
    let i := done.length - 1 - k
    match done[i]? with
    | none => done ++ [e]
    | some x =>
      if x.ofs == e.ofs && x.wlog == e.wlog then
        match combineEntries x e with
        | some c => done.eraseIdx i ++ [c]
        | none => done ++ [e]
      else done ++ [e]

/-- Compaction: one scan in append order (R168). -/
def compact (l : List ManEntry) : List ManEntry := l.foldl scanEntry []

/-! ## Manifests of tiles (R164) -/

/-- The tile of an address: bits 56:16. -/
def tileOf (va : Nat) : Nat := va % 2 ^ 57 / 65536

def State.manifest? (s : State) (vf tile : Nat) : Option Manifest :=
  s.manifests.find? fun m => m.vf == vf && m.tile == tile

/-- Entries of a tile's manifest. -/
def State.entries (s : State) (vf tile : Nat) : List ManEntry := ((s.manifest? vf tile).map (·.entries)).getD []

/-- The manifest of a tile replaced; an empty one is not kept. -/
def State.setManifest (s : State) (m : Manifest) : State :=
  let rest := s.manifests.filter fun x => !(x.vf == m.vf && x.tile == m.tile)
  { s with manifests := if m.entries.isEmpty then rest else rest ++ [m] }

/-- The manifest home of a tile: partition and slice (R164). -/
def State.manifestHome (s : State) (pid tile : Nat) : Nat :=
  match s.part? pid with
  | some p => p.cfg.sliceNo (sliceOf tile p.cfg.units.length)
  | none => 0

/-- The partition of a leaf's PART. -/
def State.leafPart (s : State) (e : TlbEntry) : Nat := ((s.vf? e.vf).bind fun v => v.parts[e.part]?).getD 0

/-- The manifest area of a partition holds no further manifest (R164). -/
def State.areaFull (s : State) (pid : Nat) : Bool :=
  match s.part? pid with
  | some p => decide (p.cfg.manifestArea ≤ (s.manifests.filter fun m => m.part == pid).length)
  | none => true

/-- An append of a run of entries to a tile's manifest, and whether it was made: an overflow appends nothing and leaves the manifest compacted
(R166, R168, R170). -/
def State.append (s : State) (e : TlbEntry) (tile : Nat) (new : List ManEntry) : State × Bool :=
  let pid := s.leafPart e
  let old := s.entries e.vf tile
  let made := fun es => s.setManifest { vf := e.vf, tile := tile, part := pid, slice := s.manifestHome pid tile, entries := es }
  if old.isEmpty && s.areaFull pid then (s, false)
  else
    let base := if 256 < old.length + new.length then compact old else old
    if 256 < base.length + new.length then (made base, false)
    else
      let es := base ++ new
      (made (if 192 ≤ es.length then compact es else es), true)

/-! ## Application (R167, R171) -/

/-- One entry applied to memory where the tile's bytes begin at a key, as its write or RED would be at home. -/
def State.applyEntry (s : State) (base : Nat) (e : ManEntry) : State :=
  let key := base + e.offset
  let data := if e.red then leBytes e.width (atomOp e.code.toNat (leNat (s.mem.bytes key e.width)) e.data.toNat 0) else e.bytes
  s.store key data (if e.psn then .poisoned else if e.red then .combined else .clean)

def State.applyEntries (s : State) (base : Nat) (es : List ManEntry) : State := es.foldl (fun s e => s.applyEntry base e) s

/-- First key of a tile's remote bytes: the frame still held while its page is being swapped out (R167, R172). -/
def State.tileBase (s : State) (e : TlbEntry) (va : Nat) : Nat :=
  let off := va % 2 ^ 57 / 65536 * 65536 - e.page
  match s.swaps.find? fun w => w.isOf e.vf e.page with
  | some w => w.frameKey + off
  | none => e.key + off

/-! ## What a path's load finds (R193) -/

/-- Bytes of a run written over by bytes of another run. -/
def overlay (key : Nat) (bs : List Byte) (a : Nat) (ws : List Byte) : List Byte :=
  ((List.range bs.length).zip bs).map fun (i, b) =>
    if a ≤ key + i then ((ws[key + i - a]?).getD b) else b

/-- The path's own stores that are not visible yet, oldest first. A path is a group's path slot here: one that a split, a join or a refill puts
into the slot finds the pending stores of the path it took over, and one in the other slot does not (log 59). -/
def State.ownStores (s : State) (gid : Nat) (slot : Bool) : List (Nat × List Byte) :=
  ((coherent s.pending).filter fun w => w.grp == gid && w.slot == slot && w.clean).map (fun w => (w.key, w.data)) ++
    ((s.flights.filter fun f => f.grp == gid && f.slot == slot && f.kind == .store).map fun f =>
      (f.accs.filter fun a => !a.done && a.tile.isNone).map fun a => (a.key, a.data)).flatten

/-- Bytes a load of a path returns for an access of plain memory. -/
def State.loadBytes (s : State) (gid : Nat) (slot : Bool) (key n : Nat) : List Byte :=
  (s.ownStores gid slot).foldl (fun bs w => overlay key bs w.1 w.2) (s.mem.bytes key n)

/-- A fetch whose page an append of the flight has overflowed after its word went on: the access stays with the flight until the page is there
(R163, R170, R194). -/
def Flight.defers (f : Flight) (s : State) (e : TlbEntry) : Bool :=
  !f.blocking && s.fetches.any fun x => f.fetches.contains x.id && x.isOf e.vf e.page

def runsMeet (a n b m : Nat) : Bool := decide (a < b + m) && decide (b < a + n)

/-- A reduction of the path to these bytes is still on its way, so that the load waits for it (R193, log 24). -/
def State.ownRed (s : State) (gid : Nat) (slot : Bool) (key n : Nat) : Bool :=
  (s.pending.any fun w => w.grp == gid && w.slot == slot && !w.clean && decide (s.now < w.gwct) &&
      runsMeet w.key w.data.length key n) ||
    s.flights.any fun f => f.grp == gid && f.slot == slot && f.kind == .red &&
      f.accs.any fun a => !a.done && runsMeet a.key f.size key n

/-- A write of the path to bytes of a tile that is not resident has not been accepted, so that its load of them waits (R193, R194). -/
def State.ownAppend (s : State) (gid : Nat) (slot : Bool) (e : TlbEntry) (va n : Nat) : Bool :=
  s.flights.any fun f => f.grp == gid && f.slot == slot && f.kind != .load &&
    f.accs.any fun a => !a.done && (a.tile.map fun t => t.vf) == some e.vf && runsMeet (a.va % 2 ^ 57) f.size (va % 2 ^ 57) n

/-! ## CONSULT (R167) -/

/-- Partials of a tile on their way to its manifest home, or waiting there for its fetch, in their order (R163). A load that reaches the home
finds them accepted, as one that recalls them does (R200). -/
def State.partialsOf (s : State) (vf tile : Nat) : List ManEntry :=
  ((s.flights.filter fun f => f.grp == noGroup).map fun f =>
    (f.accs.filter fun a => !a.done && (a.tile.map fun e => (e.vf, tileOf a.va)) == some (vf, tile)).map fun a =>
      manEntry true f.mf (a.va % 65536) (wlogOf f.size) f.ctx a.data).flatten

/-- A CONSULT read of `n` bytes for a path: the bytes and whether they are poisoned (R167); what no port reaches reads poisoned (R283, R292).
The path's own stores to a frame that is being copied out, accepted before the cut, are seen before their GWCT (R193). -/
def State.consult (s : State) (gid : Nat) (slot : Bool) (e : TlbEntry) (va n : Nat) : List Byte × Bool :=
  let base := s.tileBase e va
  let key := base + va % 65536
  let es := s.entries e.vf (tileOf va) ++ s.partialsOf e.vf (tileOf va)
  let bad := !s.reaches key || (firstPoison s.poison key n).isSome || es.any fun x => x.psn && x.over (va % 65536) n
  let t := { s with mem := (s.ownStores gid slot).foldl (fun (m : Memory) (w : Nat × List Byte) => m.setBytes w.1 w.2) s.mem }
  ((t.applyEntries base es).mem.bytes key n, bad)

/-! ## Moving bytes -/

/-- `n` bytes copied from one run of addresses to another. -/
def Memory.copy (m : Memory) (src dst n : Nat) : Memory :=
  (m.filter fun c => decide (src ≤ c.1) && decide (c.1 < src + n)).foldl (fun m c => m.setByte (dst + (c.1 - src)) c.2) (m.wipe dst n)

/-- Poison of the granules of one run given to those of another, each with a new mask (R279). -/
def copyPoison (m : Map (BitVec 64)) (src dst n : Nat) : Map (BitVec 64) :=
  let inside := fun (a k : Nat) => decide (a ≤ 64 * k) && decide (64 * k < a + n)
  (m.filter fun c => inside src c.1).foldl (fun m c => m.put (dst / 64 + (c.1 - src / 64)) 0) (m.filter fun c => !inside dst c.1)

/-- L2 without the lines of a run: its bytes in HBM have been replaced. -/
def dropRun (m : Map L2Line) (a n : Nat) : Map L2Line := m.filter fun c => !(decide (a ≤ 128 * c.1) && decide (128 * c.1 < a + n))

def State.moveBytes (s : State) (src dst n : Nat) : State :=
  { s with mem := s.mem.copy src dst n, poison := copyPoison s.poison src dst n, l2 := dropRun s.l2 dst n }

/-- Every granule of a run poisoned: what a port that went down brings (R283, R292). -/
def State.poisonRun (s : State) (a n : Nat) : State := { s with poison := (granulesOf a n).foldl poisonAt s.poison }

/-- A wipe: zero bytes, no poison (R285). -/
def State.wipe (s : State) (a n : Nat) : State :=
  { s with mem := s.mem.wipe a n, l2 := dropRun s.l2 a n,
           poison := s.poison.filter fun c => !(decide (a ≤ 64 * c.1 + 63) && decide (64 * c.1 < a + n)) }

end Sys2Proof.Machine
end

