-- ==== Sys2Proof/Machine/Residency.lean ====
section
/-!
DEFINITION. Page faults, forced fetches and residency: the fault buffer (R215 to R219), parking and replaying a group
(R163, R215, R216), fetches, frame pools and arrival (R170, R171, R173, R495), swap-outs (R172, R495); the events
FB_HEAD_WRITE, FB_REPLY_RETRY, FB_REPLY_ABORT, TILE_ARRIVAL, SWAP_OUT, SWAP_COPY_COMPLETE and FRAME_POOL_ADD.
-/
namespace Sys2Proof.Machine

/-! ## The fault buffer (R217 to R219) -/

/-- Records in the buffer. -/
def Part.fbUsed (p : Part) : Nat := (p.fbTail - p.fbHead).toNat

/-- A record written at TAIL (R217). -/
def Part.writeRecord (p : Part) (r : FaultRec) : Part :=
  { p with fbRecords := p.fbRecords.put (p.fbTail.toNat % 4096) { r with valid := true }, fbTail := p.fbTail + 1 }

/-- The 32 bytes of a record as they lie in the buffer, record n at index n mod 4,096 (R217). -/
def FaultRec.word (r : FaultRec) : BitVec 256 :=
  let bit := fun (b : Bool) => if b then 1 else 0
  BitVec.ofNat 256
    (r.addr % 2 ^ 64 + r.replay.toNat * 2 ^ 64 + r.pc.toNat * 2 ^ 96 + r.ctx % 2 ^ 12 * 2 ^ 128 + r.vf % 2 ^ 9 * 2 ^ 140 +
      r.part % 2 ^ 4 * 2 ^ 149 + r.core % 2 ^ 8 * 2 ^ 153 + r.slot % 2 ^ 7 * 2 ^ 161 + r.kind % 2 ^ 4 * 2 ^ 168 +
      r.level % 2 ^ 2 * 2 ^ 172 + bit r.held * 2 ^ 174 + bit r.rept * 2 ^ 175 + r.seq % 2 ^ 32 * 2 ^ 192 + bit r.valid * 2 ^ 255)

/-- The record at an index of the buffer, zero where none has been written (R217, R285). -/
def Part.recordAt (p : Part) (i : Nat) : BitVec 256 := ((p.fbRecords.get? i).map FaultRec.word).getD 0

/-- A new record: written, or held where the buffer is full (R219). -/
def Part.report (p : Part) (r : FaultRec) : Part :=
  let p1 := { p with fbSeq := (p.fbSeq + 1) % 2 ^ 32 }
  if p.fbUsed < 4096 then p1.writeRecord r
  else { p1 with fbOverflow := true, fbHeld := insertBy (fun r => [r.since, r.core, r.slot]) r p.fbHeld }

/-- Held records written in age order while there is room (R219). -/
def Part.drain (p : Part) : List FaultRec → Part
  | [] => { p with fbHeld := [] }
  | r :: rs => if p.fbUsed < 4096 then (p.writeRecord { r with held := true }).drain rs else { p with fbHeld := r :: rs }

/-- The records that have been written since another state, in reserved memory (R159, R217). -/
def State.recordsSeen (s : State) (part : Nat) (t : State) : State :=
  match s.part? part, t.part? part with
  | some p, some q => (List.range (q.fbTail - p.fbTail).toNat).foldl (fun t i => t.shareUse part (recordKey part (p.fbTail.toNat + i)) 32) t
  | _, _ => t

/-! ## Parking a group (R215, R163) -/

/-- The path stands at its word's first prefix, to be executed for the replay lanes. -/
def Path.atReplay (p : Path) (m : Mask) : Path :=
  { p with pfx := [], chain := Chain.none, wait := .ready, replay := some m, released := false, ahead := [] }

/-- Fetches of a list that are not over. -/
def State.fetchesLeft (s : State) (fetches : List Nat) : List Nat := fetches.filter fun i => s.fetches.any fun f => f.id == i

/-- A page fault parks the group and writes a record (R215, R217). A group that is parked already keeps its park, and the path
faults again when the group resumes (log 22). Fetches that other lanes of the word have forced are waited for as well (R163). -/
def State.parkPage (s : State) (gid : Nat) (slot : Bool) (acc : Access) (replay : Mask) (addr level : Nat) (fetches : List Nat) : State :=
  match s.group? gid with
  | none => s
  | some g =>
    match g.path slot with
    | none => s
    | some p =>
      let g1 := g.modPath slot fun p => { p.atReplay replay with awaits := s.fetchesLeft fetches }
      if g.park.isSome then s.setGroup g1
      else
        match s.part? (s.partOf g.ctx) with
        | none => s
        | some pt =>
          let r : FaultRec :=
            { addr := addr, replay := replay, pc := p.pc, ctx := g.ctx, vf := g.vf, part := s.partOf g.ctx,
              core := 4 * g.cluster + g.core, slot := g.slot, kind := acc.code, level := level, held := false,
              rept := p.refault, seq := pt.fbSeq, valid := false, since := s.ticks }
          let g2 := { g1 with park := some (.page slot replay pt.fbSeq acc.code addr) }
          (s.setGroup g2).recordsSeen (s.partOf g.ctx) ((s.setGroup g2).modPart (s.partOf g.ctx) fun q => q.report r)

/-- A forced fetch parks the group without a record (R163), while a page it waits for is not RESIDENT; else the word executes again at once. A
group that is parked already for its other path keeps that park, and this word waits for its pages all the same. -/
def State.parkFetch (s : State) (gid : Nat) (slot : Bool) (replay : Mask) (fetches : List Nat) : State :=
  match s.group? gid with
  | none => s
  | some g =>
    let left := s.fetchesLeft fetches
    let g1 := g.modPath slot fun p => { p.atReplay replay with awaits := left }
    if g.park.isSome || left.isEmpty then s.setGroup g1 else s.setGroup { g1 with park := some (.fetch slot replay left) }

/-- An access of the path, whose word has gone on, still has to be performed on the page of this fetch (R170, R194). -/
def State.deferred (s : State) (r : Replay) : Bool :=
  s.flights.any fun f => f.grp == r.grp && f.slot == r.slot && !f.blocking && f.fetches.contains r.fetch && !(f.accs.all fun a => a.done)

/-- A word of a path begins: what an earlier one of it waited on is past. A word that is executed again keeps its place at the pages that it
still waits for (R171). -/
def State.dropReplays (s : State) (gid : Nat) (slot : Bool) : State :=
  let again := (((s.group? gid).bind fun g => g.path slot).map fun p => p.replay.isSome).getD false
  let past := fun (r : Replay) => r.grp == gid && r.slot == slot && !s.deferred r && !(again && s.fetches.any fun f => f.id == r.fetch)
  if s.replays.isEmpty then s else { s with replays := s.replays.filter fun r => !past r }

/-- A request of a path reaches the home of a tile whose fetch it waits on (R171, R173). -/
def State.noteFetch (s : State) (gid : Nat) (slot : Bool) (e : TlbEntry) (va : Nat) : State :=
  match s.fetches.find? fun f => f.isOf e.vf e.page with
  | none => s
  | some f =>
    if s.replays.any fun r => r.fetch == f.id && r.grp == gid && r.slot == slot then s
    else { s with replays := s.replays ++ [⟨f.id, gid, slot, s.ticks / 12, tileOf va⟩] }

/-- The path of a request has still to execute its word again, or an access of it has still to be performed. -/
def State.replaying (s : State) (r : Replay) : Bool :=
  s.deferred r ||
  match (s.group? r.grp).bind fun g => g.path r.slot with
  | none => false
  | some p =>
    p.replay.isSome ||
      (match p.wait with
       | .memory _ => true
       | _ => false)

/-- Words that wait on one page are executed again in the order in which their requests reached the home, requests of one cycle in ascending
tile address (R171, R173): an earlier one of a page of this path has not been yet. Where two words wait on several pages and their requests
reached the homes in different orders, the word whose first request came first goes first (log 22). -/
def State.mustFollow (s : State) (gid : Nat) (slot : Bool) : Bool :=
  let order := sortBy (fun (x : Nat × Replay) => [x.2.cycle, x.2.tile, x.1])
    ((List.range s.replays.length).zip (s.replays.filter fun r => s.replaying r || (r.grp == gid && r.slot == slot)))
  let rank := fun (g : Nat) (b : Bool) => (order.findIdx? fun x => x.2.grp == g && x.2.slot == b).getD order.length
  let place := fun (f g : Nat) (b : Bool) => order.findIdx? fun x => x.2.fetch == f && x.2.grp == g && x.2.slot == b
  order.any fun m => m.2.grp == gid && m.2.slot == slot &&
    order.any fun x => !(x.2.grp == gid && x.2.slot == slot) && x.2.fetch == m.2.fetch &&
      decide ((place m.2.fetch x.2.grp x.2.slot).getD 0 < (place m.2.fetch gid slot).getD 0) && decide (rank x.2.grp x.2.slot < rank gid slot)

/-- Both paths of a group enter selection again, with fresh ready times (R51). -/
def Group.refresh (g : Group) (now : Nat) : Group :=
  { g with path0 := g.path0.map fun p => { p with readyAt := now }, path1 := g.path1.map fun p => { p with readyAt := now } }

/-- The group leaves its park, and the path executes its word again for the replay lanes. -/
def Group.unpark (g : Group) (slot : Bool) (m : Mask) (refault : Bool) (now : Nat) : Group :=
  (({ g with park := none } : Group).refresh now).modPath slot fun p => { p with replay := some m, refault := refault }

/-! ## Events of the fault buffer -/

/-- FB_HEAD_WRITE: a value from HEAD to TAIL; other writes are ignored (R218, R219). -/
def execFbHeadWrite (part value : Nat) (s : State) : Out :=
  let v := BitVec.ofNat 32 value
  .next (s.recordsSeen part (s.modPart part fun p =>
    if decide (value < 2 ^ 32) && (v - p.fbHead).toNat ≤ p.fbUsed then ({ p with fbHead := v } : Part).drain p.fbHeld else p))

/-- The group of a partition that is parked on a record. -/
def State.parkedOn (s : State) (part seq : Nat) : Option (Group × Bool × Mask × Nat × Nat) :=
  s.groups.findSome? fun g =>
    match g.park with
    | some (.page slot replay q kind addr) =>
      if q == seq && s.partOf g.ctx == part then some (g, slot, replay, kind, addr) else none
    | _ => none

/-- A reply that matches no parked group is discarded and sets STALE (R216, R218). -/
def State.staleReply (s : State) (part : Nat) : State := s.modPart part fun p => { p with fbStale := true }

/-- FB_REPLY_RETRY (R215). -/
def execFbReplyRetry (part seq : Nat) (s : State) : Out :=
  match s.parkedOn part seq with
  | none => .next (s.staleReply part)
  | some (g, slot, replay, _) =>
    .next (if ((g.path slot).map fun p => p.abort).getD false then s.staleReply part else s.setGroup (g.unpark slot replay true s.ticks))

/-- The sibling of a path is in a chain: a trap of the path waits until the chain ends (R46). -/
def State.chainHolds (s : State) (g : Group) (slot : Bool) : Bool := ((g.path (!slot)).map fun o => s.inChain g o).getD false

/-- The page fault of a group ends in the trap PAGE, with TRAP.MASK the replay mask and INFO the KIND (R215, R268). -/
def State.abortPage (s : State) (g : Group) (slot : Bool) (replay : Mask) (kind addr : Nat) : State :=
  match g.path slot with
  | none => s
  | some p =>
    let g1 := (({ g with park := none } : Group).refresh s.ticks).modPath slot fun p => { p with replay := none, abort := false }
    (s.setGroup g1).takeTrap g.id slot
      { cause := .page, info := BitVec.ofNat 8 kind, mask := replay, addr := BitVec.ofNat 64 addr, pc := p.pc }

/-- FB_REPLY_ABORT: PAGE for the group that is parked on the record (R215). While the sibling is in a chain the abort is noted, and the trap
comes when the chain has ended (R46); a second reply to the record then matches nothing. -/
def execFbReplyAbort (part seq : Nat) (s : State) : Out :=
  match s.parkedOn part seq with
  | none => .next (s.staleReply part)
  | some (g, slot, replay, kind, addr) =>
    if ((g.path slot).map fun p => p.abort).getD true then .next (s.staleReply part)
    else if s.chainHolds g slot then .next (s.setGroup (g.modPath slot fun p => { p with abort := true }))
    else .next (s.abortPage g slot replay kind addr)

/-- The trap of an abort that has waited for the end of the sibling's chain (R46, R215). -/
def onAbortDue (gid : Nat) (s : State) : Option State :=
  match s.group? gid with
  | none => none
  | some g =>
    match g.park with
    | some (.page slot replay _ kind addr) =>
      if ((g.path slot).map fun p => p.abort).getD false && !s.chainHolds g slot then some (s.abortPage g slot replay kind addr) else none
    | _ => none

/-! ## Leaves written by the station (R161, R495) -/

/-- An entry of a page table rewritten: the old copies of its line recalled, the new value in force at once. -/
def State.writeEntry (s : State) (key : Nat) (f : DWord → DWord) : State :=
  let s1 := s.atHome (key / 128)
  let e : DWord := BitVec.ofNat 64 (leNat (s1.mem.bytes key 8))
  s1.store key (leBytes 8 (f e).toNat) .clean

/-- The leaves by which the contexts of a function map a migratable page: one tile has one state, whichever context's table maps it
(R164, R173). -/
def State.leavesOf (s : State) (vf page size : Nat) : List Nat :=
  dedup (s.contexts.filterMap fun (x : Nat × Context) =>
    if x.2.vf != vf then none
    else
      match (s.walk x.1 page false).2 with
      | .leaf e => if e.page == page && e.size == size && e.leaf.cls == 1 then some e.leafKey else none
      | _ => none)

/-- The station writes a page's leaf, in every table of the function that maps it. -/
def State.writeLeaves (s : State) (vf page size : Nat) (f : DWord → DWord) : State :=
  (s.leavesOf vf page size).foldl (fun s k => s.writeEntry k f) s

/-- RES of an entry. -/
def setRes (r : Nat) (e : DWord) : DWord := (e &&& ~~~(7#64 <<< 8)) ||| (BitVec.ofNat 64 (r % 8) <<< 8)

/-- RES, ADR and PEER of an entry; the address is a byte address. -/
def setPlace (r adr peer : Nat) (e : DWord) : DWord :=
  let keep := e &&& ~~~((BitVec.ofNat 64 (2 ^ 36 - 1) <<< 16) ||| (BitVec.ofNat 64 255 <<< 56))
  setRes r (keep ||| (BitVec.ofNat 64 (adr / 65536 % 2 ^ 36) <<< 16) ||| (BitVec.ofNat 64 (peer % 256) <<< 56))

/-! ## Frame pools (R495) -/

/-- A free frame of a size in a partition's pool, taken. -/
def Vf.takeFrame (v : Vf) (idx size : Nat) : Option (Nat × Vf) :=
  match v.frames.find? fun f => f.1 == idx && f.2.1 == size with
  | some f => some (f.2.2, { v with frames := v.frames.erase f })
  | none => none

/-- A fetch takes a frame where it has none and the page is not still being swapped out (R172, R495). -/
def State.giveFrame (s : State) (f : Fetch) : State :=
  if f.frame.isSome || s.swaps.any fun w => w.isOf f.vf f.page then s
  else
    match (s.vf? f.vf).bind fun v => v.takeFrame f.part f.size with
    | some (a, v) =>
      { s with vfs := s.vfs.put f.vf v,
               fetches := s.fetches.map fun x => if x.id == f.id then { x with frame := some a } else x }
    | none => s

/-- Waiting fetches take frames in their order. -/
def State.giveFrames (s : State) : State := s.fetches.foldl (fun s f => s.giveFrame f) s

/-- A fetch of a page begins, unless one is under way: the page enters FETCHING, its translations are shot down, a frame is taken
or the shortage reported (R163, R170, R173, R495). Answers the number of the fetch. -/
def State.startFetch (s : State) (cid : Nat) (e : TlbEntry) (free : Bool := false) : State × Nat :=
  match s.fetches.find? fun f => f.isOf e.vf e.page with
  | some f => (s, f.id)
  | none =>
    let (i, s1) := s.newId
    let f : Fetch := { id := i, vf := e.vf, ctx := cid, part := e.part, page := e.page, size := e.size,
                       remote := e.key, frame := none, overflow := false, inPlace := false, free := free }
    let s2 := ({ s1 with fetches := s1.fetches ++ [f] }.writeLeaves e.vf e.page e.size (setRes 3)).shoot e.vf e.page e.size fun _ => true
    let s3 := s2.giveFrame f
    let got := s3.fetches.any fun x => x.id == i && x.frame.isSome
    let wait := s3.swaps.any fun w => w.isOf e.vf e.page
    (if got || wait then s3 else { s3 with outbox := s3.outbox ++ [.frameShortage e.vf (s.leafPart e)] }, i)

/-- FRAME_POOL_ADD: frames inside the function's bound, aligned to their size (R495). -/
def execFramePoolAdd (r : FrameReq) (s : State) : Out :=
  s.command (.framePoolAdd r) <|
    match s.vf? r.vf with
    | none => .next s
    | some v =>
      let sizeOk := r.size == 2 ^ 16 || r.size == 2 ^ 21 || r.size == 2 ^ 30
      let inside := match v.windows[r.part]? with
        | some (_, bound) => decide (r.base + r.count * r.size ≤ bound)
        | none => false
      if sizeOk && inside && r.base % r.size == 0 then
        let fs := (List.range r.count).map fun i => (r.part, r.size, r.base + i * r.size)
        .next { s with vfs := s.vfs.put r.vf { v with frames := v.frames ++ fs } }.giveFrames
      else .next s

/-! ## Accesses translated under an old entry (R213 step 3) -/

/-- Tiles of a page. -/
def tilesOf (page size : Nat) : List Nat := (List.range (size / 65536)).map fun i => page / 65536 + i

/-- A flight has an access to an address of a page that has not been performed. A partial that waits at the manifest home is applied with the
manifest (R163, R171), and an access that waits for the page is performed on it. -/
def Flight.touches (f : Flight) (vf : Nat) (s : State) (page size : Nat) : Bool :=
  f.grp != noGroup && ((s.ctx? f.ctx).map (·.vf)) == some vf &&
    f.accs.any fun a => !a.done && !((a.tile.map fun e => f.defers s e).getD false) && decide (page ≤ a.va % 2 ^ 57) && decide (a.va % 2 ^ 57 < page + size)

/-- A place of a copy that lies in a page's tiles or frame. -/
def Place.inPage (p : Place) (vf page size : Nat) (frame : Nat) : Bool :=
  match p with
  | .tile e va => e.vf == vf && decide (page ≤ va % 2 ^ 57) && decide (va % 2 ^ 57 < page + size)
  | .mem key => decide (frame ≤ key) && decide (key < frame + size)
  | _ => false

/-- A run of a copy or casting command lies in a page's tiles or frame. -/
def Seg.inPage (g : Seg) (vf page size frame : Nat) : Bool := g.src.inPage vf page size frame || g.dst.inPage vf page size frame

/-- Every copy command: in the engines, and in the images of contexts that are not placed (R275, R344). -/
def State.allCopies (s : State) : List Copy :=
  (s.clusters.map fun c => c.2.copies).flatten ++ (s.contexts.map fun x => ((x.2.image.map fun i => i.copies.map fun k => k.2)).getD []).flatten

/-- Every casting command, likewise. -/
def State.allCasts (s : State) : List CastCmd :=
  (s.castQueues.map fun q => q.2).flatten ++ (s.contexts.map fun x => ((x.2.image.map fun i => i.casts.map fun k => k.2)).getD []).flatten

/-- No access of a page translated under its old entry is outstanding. -/
def State.pageQuiet (s : State) (vf page size frame : Nat) : Bool :=
  !(s.flights.any fun f => f.touches vf s page size) &&
    !(s.allCopies.any fun k => k.segs.any fun g => g.inPage vf page size frame) &&
    !(s.allCasts.any fun k => (k.src ++ k.blocks ++ k.costs).any fun g => g.inPage vf page size frame)

/-- Recalls of grants that a test names: each is marked, and a flit tells its source (R214, R290). -/
def State.recallGrants (s : State) (hit : PeerLease → Bool) : State :=
  let mine := s.peerGrants.filter fun l => hit l && !l.recalled
  { s with peerGrants := mapIf hit (fun l => { l with recalled := true }) s.peerGrants,
           outbox := s.outbox ++ mine.map fun l => Output.peerRecall l.peer l.page }

/-- A peer module holds a translation of bytes of a run of keys: it is recalled before the page moves (R214). -/
def State.holdsRun (s : State) (l : PeerLease) (a n : Nat) : Bool :=
  decide (s.now < l.expiry) && decide (a < l.key + l.size) && decide (l.key < a + n)
def State.peerHeld (s : State) (a n : Nat) : Bool := s.peerGrants.any fun l => s.holdsRun l a n

/-- No lease and no pending write stands on a run of keys. -/
def State.linesQuiet (s : State) (a n : Nat) : Bool :=
  !(s.homeLines.any fun h => decide (a ≤ 128 * h.1) && decide (128 * h.1 < a + n) && decide (s.now < h.2.leaseUntil)) &&
    !(s.pending.any fun w => decide (a < w.key + w.data.length) && decide (w.key < a + n))

/-- Every copy of a run of keys leaves the cluster caches (R199, R200). -/
def State.recallRange (s : State) (a n : Nat) : State :=
  let hit := s.homeLines.filter fun h => decide (a ≤ 128 * h.1) && decide (128 * h.1 < a + n)
  hit.foldl (fun s h => s.recall h.1) s

/-- Background copy engines (R10). -/
def copyEngines : Nat := 8

/-- Page transfers that have begun, oldest first: swap-out copies, and fetches that have a frame (R172, R495). A fetch that finds its page's
bytes still in the frame moves nothing. -/
def State.transfers (s : State) : List Nat :=
  sortBy (fun i => [i]) ((s.swaps.map fun w => w.id) ++ (s.fetches.filter fun f => f.frame.isSome && !f.inPlace).map fun f => f.id)

/-- One of the background copy engines carries this transfer; they take transfers in the order of their requests (R10, log 60). -/
def State.carried (s : State) (id : Nat) : Bool := (s.transfers.take copyEngines).contains id

/-- First keys of the tiles of a frame. -/
def State.frameKeys (s : State) (vf idx frame size : Nat) : List Nat :=
  match s.vf? vf with
  | none => []
  | some v => (tilesOf frame size).filterMap fun t => s.confine v idx (65536 * t)

/-! ## Arrival (R171, R173) -/

/-- One tile arrives: its bytes, poisoned where no port brought them (R283), then its manifest, which is emptied, then the partials that
wait at its home (R163). -/
def State.arriveTile (s : State) (vf tile src dst : Nat) (bad : Bool) : State :=
  let s1 := if src = dst then s else s.moveBytes src dst 65536
  let s2 := if bad then s1.poisonRun dst 65536 else s1
  let s3 := s2.applyEntries dst (s2.entries vf tile ++ s2.partialsOf vf tile)
  { s3 with manifests := s3.manifests.filter fun m => !(m.vf == vf && m.tile == tile)
            flights := s3.flights.filter fun f =>
              !(f.grp == noGroup && f.accs.any fun a => (a.tile.map fun e => (e.vf, tileOf a.va)) == some (vf, tile)) }

/-- A word of either path waits for a page (R163). -/
def Group.awaiting (g : Group) : Bool := (g.path0.toList ++ g.path1.toList).any fun p => !p.awaits.isEmpty

/-- Groups parked on a fetch wake when it was the last they waited on (R163). A word that follows a page fault stays one (R215, R216). -/
def Group.fetched (g : Group) (id now : Nat) : Group :=
  let cut := fun (p : Path) => { p with awaits := p.awaits.filter fun f => f != id }
  let g1 : Group := { g with path0 := g.path0.map cut, path1 := g.path1.map cut }
  let g2 := if g.awaiting && !g1.awaiting then g1.refresh now else g1
  match g.park with
  | some (.fetch slot m fs) =>
    let rest := fs.filter fun f => f != id
    if rest.isEmpty then g2.unpark slot m (((g2.path slot).map fun p => p.refault).getD false) now else { g2 with park := some (.fetch slot m rest) }
  | _ => g2

/-- Accesses that have waited for a page are from now on accesses of its frame (R170, R171). -/
def Flight.landed (f : Flight) (id vf page size : Nat) (keyOf : Nat → Nat) : Flight :=
  if f.blocking || !f.fetches.contains id then f
  else
    { f with accs := f.accs.map fun a =>
        let off := a.va % 2 ^ 57 - page
        if !a.done && (a.tile.map fun e => e.vf) == some vf && decide (page ≤ a.va % 2 ^ 57) && decide (off < size) then
          { a with tile := none, key := keyOf off }
        else a }

/-! ## Translations of a peer's pages that this module holds (R214) -/

/-- What names a PEER page to the translations this module holds: function, PART, page, size, first key of its bytes, and whether it may be
written. -/
structure PeerPage where
  vf : Nat
  part : Nat
  page : Nat
  size : Nat
  key : Nat
  write : Bool
deriving DecidableEq, Repr

def TlbEntry.peerPage (e : TlbEntry) : PeerPage := ⟨e.vf, e.part, e.page, e.size, e.key, e.leaf.w⟩

/-- The address in its own space of a peer's byte (R207, R214). -/
def peerAddr (key : Nat) : Nat := (key - 2 ^ 65) % 2 ^ 57

/-- A lease on the translation of a peer page that this module holds or has asked for (R214). -/
def PeerLease.of (l : PeerLease) (e : PeerPage) : Bool := l.page == e.page && l.vf == e.vf && l.key == e.key && !l.recalled

/-- The translation of a peer page is cached under a lease that has not expired (R214). -/
def State.peerCached (s : State) (e : PeerPage) : Bool :=
  s.peerLeases.any fun l => l.of e && !l.asked && decide (s.now < l.expiry)

/-- This module has asked the target for the page's translation and has no answer yet. -/
def State.peerAsked (s : State) (e : PeerPage) : Bool := s.peerLeases.any fun l => l.of e && l.asked

/-- A request for the translation of a peer page goes to its module with the address that the page's leaf gives in the target's space, one flit
for the context (R214, R263, R290). -/
def State.askPeer (s : State) (ctx : Nat) (e : PeerPage) : State :=
  let (i, s1) := s.newId
  let peer := peerOf e.key
  let l : PeerLease :=
    { id := i, peer := peer, vf := e.vf, part := e.part, page := e.page, size := e.size, key := e.key, write := e.write,
      expiry := 0, recalled := false, asked := true }
  ({ s1 with peerLeases := s1.peerLeases ++ [l], outbox := s1.outbox ++ [.peerAsk peer (peerAddr e.key)] } : State).charge ctx 13 1

/-- A transfer of a page to or from a peer that can be reached needs the page's translation first (R214): none where it is there or not needed. -/
def State.peerGap (s : State) (e : PeerPage) : Option PeerPage :=
  if isPeer e.key && s.reaches e.key && !s.peerCached e then some e else none

/-- The translation that an access lacks is asked for, once; without the time master no request goes to a peer (R291). -/
def State.seekPeer (s : State) (ctx : Nat) (e : PeerPage) : Option State :=
  if s.timeLost || s.peerAsked e then none else some (s.askPeer ctx e)

/-- The context that a fetch is charged to; 4,096, which no context has, where an instruction fetch forced it (R472). -/
def Fetch.payer (f : Fetch) : Nat := if f.free then 4096 else f.ctx

/-- The page of a fetch as a peer's. -/
def Fetch.peerPage (f : Fetch) : PeerPage := ⟨f.vf, f.part, f.page, f.size, f.remote, false⟩

/-- The page of a swap-out as a peer's. -/
def Swap.peerPage (w : Swap) : PeerPage := ⟨w.vf, w.part, w.page, w.size, w.remote, true⟩

/-- TILE_ARRIVAL: the page's bytes are in its frame, every tile's manifest is applied, its leaves become RESIDENT, its
translations are shot down, and the parked lanes replay; one atomic step (R171, R173, R495). The context whose access forced the fetch pays for its whole transfer in classes 7
and 10, and none where an instruction fetch did; a swap-out's copy is charged to nobody (R263, R472; DESIGN CHOICE, log 87). It comes when no access
translated before is outstanding (R213), no lease or pending write stands on the frame and a copy engine carries the page; bytes that are
still in the frame do not move and need neither engine nor port (R172). A peer's page is read under a granted translation (R214). -/
def onTileArrival (id : Nat) (s : State) : Option State :=
  match s.fetches.find? fun f => f.id == id with
  | none => none
  | some f =>
    match f.frame with
    | none => none
    | some frame =>
      let s0 := s.mature
      let keys := s0.frameKeys f.vf f.part frame f.size
      let quiet := s0.pageQuiet f.vf f.page f.size f.remote && keys.all fun k => s0.linesQuiet k 65536
      let brought := f.inPlace || (s0.carried id && !s0.masterHolds f.remote)
      if !quiet || !brought || keys.length != f.size / 65536 || s0.swaps.any (fun w => w.isOf f.vf f.page) then none
      else if !f.inPlace && (s0.peerGap f.peerPage).isSome then s0.seekPeer f.payer f.peerPage
      else
        let s1 := (keys.foldl (fun s k => s.recallRange k 65536) s0).recallRange f.remote f.size
        let s2 := ((tilesOf f.page f.size).zip (keys.zip (List.range keys.length))).foldl
          (fun s t => s.arriveTile f.vf t.1 (if f.inPlace then t.2.1 else f.remote + 65536 * t.2.2) t.2.1
            (!f.inPlace && !s.reaches f.remote)) s1
        let s3 := (s2.writeLeaves f.vf f.page f.size (setPlace 0 frame 0)).shoot f.vf f.page f.size fun _ => true
        let s4 := { s3 with fetches := s3.fetches.filter fun x => x.id != id,
                            groups := s3.groups.map fun (g : Group) => g.fetched id s3.ticks,
                            flights := s3.flights.map fun x => x.landed id f.vf f.page f.size fun o => (keys[o / 65536]?).getD 0 + o % 65536 }
        let s5 := if isPeer f.remote && s0.reaches f.remote && !f.inPlace then
            { s4 with outbox := s4.outbox ++ [.peerLoad (peerOf f.remote) (peerAddr f.remote) f.size] } else s4
        some (if f.inPlace then s5 else (s5.charge f.payer 7 (f.size / 64)).charge f.payer 10 (f.size / 64))

/-- TILE_ARRIVAL; nothing happens where it cannot occur (log 48). -/
def execTileArrival (id : Nat) (s : State) : Out := s.occurs (onTileArrival id s)

/-! ## Swap-out (R172, R173, R495) -/

/-- The copies of one line of a page in cluster caches at the cut (R172): an OWNED line comes home; update-only copies stay where they are,
and their home is from now on the tile's manifest home (R163). -/
def State.cutLine (s : State) (e : TlbEntry) (va line : Nat) : State :=
  let h := s.homeLine line
  let s1 := match h.owned with
    | some cl => s.recallFrom line cl
    | none => s
  let mark := fun (s : State) (cl : Nat) => s.modCluster cl fun c =>
    { c with lines := c.lines.map fun l => if l.tag == line && l.kind == .updateOnly then { l with away := some (e, va) } else l }
  if h.upd.isEmpty then s1
  else
    let s2 := h.upd.foldl mark (s1.setHomeLine line { h with owned := none, upd := [] })
    let far := (e.key + (va - e.page)) / 128
    s2.setHomeLine far { s2.homeLine far with upd := h.upd }

/-- The cut of a tile whose bytes begin at a key and at an address; `e` is the leaf as it will be. -/
def State.cutTile (s : State) (e : TlbEntry) (va key : Nat) : State :=
  (s.homeLines.filter fun h => decide (key ≤ 128 * h.1) && decide (128 * h.1 < key + 65536)).foldl
    (fun s h => s.cutLine e (va + (128 * h.1 - key)) h.1) s

/-- SWAP_OUT: a RESIDENT migratable page leaves HBM at one cut; its leaves name its remote place (log 23). Peers that hold a translation of it are
sent a recall first, and the cut comes when they have let it go (R214). A request for a page that is not
resident and migratable, or for a remote place that is not a multiple of its size, has no effect. -/
def onSwapOut (r : SwapReq) (s : State) : Option State :=
  s.serve (.swapOut r) <|
    match s.mature.walk r.ctx r.va false with
    | (s0, .leaf e) =>
      if e.leaf.cls != 1 || e.res != 0 || r.addr % e.size != 0 then some s0
      else
        let keys := s0.frameKeys e.vf e.part e.key e.size
        match keys.head? with
        | none => some s0
        | some k0 =>
          if keys.length != e.size / 65536 then some s0
          else if s0.peerGrants.any fun l => s0.holdsRun l k0 e.size && !l.recalled then
            some (s0.recallGrants fun l => s0.holdsRun l k0 e.size)
          else if !s0.pageQuiet e.vf e.page e.size k0 || s0.peerHeld k0 e.size then none
          else
            let res := if r.toPeer.isSome then 2 else 1
            let peer := r.toPeer.getD 0
            let a := r.addr
            let far := { e with key := if r.toPeer.isSome then peerKey peer a else hostKey a, res := BitVec.ofNat 3 res }
            let s1 := (keys.zip (List.range keys.length)).foldl (fun s k => s.cutTile far (e.page + 65536 * k.2) k.1) s0
            let s2 := (s1.writeLeaves e.vf e.page e.size (setPlace res a peer)).shoot e.vf e.page e.size fun _ => true
            let (i, s3) := s2.newId
            let w : Swap := { id := i, vf := e.vf, part := e.part, page := e.page, size := e.size,
                              remote := far.key, frame := e.key, frameKey := k0 }
            some { s3 with swaps := s3.swaps ++ [w] }
    | (s0, _) => some s0

/-- SWAP_OUT; nothing happens where it cannot occur (log 48). -/
def execSwapOut (r : SwapReq) (s : State) : Out := s.occurs (onSwapOut r s)

/-- SWAP_COPY_COMPLETE: the frame as it stood at the cut is in the remote place; the frame is freed, or goes back to the page, its bytes
unmoved, where a fetch has waited for the copy (R172, R495). Writes accepted before the cut act on the frame, so they are visible
first. -/
def onSwapCopyComplete (id : Nat) (s : State) : Option State :=
  match s.swaps.find? fun w => w.id == id with
  | none => none
  | some w =>
    let s0 := s.mature
    let keys := s0.frameKeys w.vf w.part w.frame w.size
    if !s0.mayReach w.remote || !s0.carried id || keys.any fun k => s0.pending.any fun p => decide (k ≤ p.key) && decide (p.key < k + 65536) then none
    else if (s0.peerGap w.peerPage).isSome then s0.seekPeer 4096 w.peerPage
    else
      let s1 := (keys.zip (List.range keys.length)).foldl
        (fun s k => s.moveBytes k.1 (w.remote + 65536 * k.2) 65536) s0
      let out : List Output := if isPeer w.remote then
          (keys.zip (List.range keys.length)).map fun k => .peerStore (peerOf w.remote) (peerAddr w.remote + 65536 * k.2)
            (s0.mem.bytes k.1 65536) ((List.range 1024).map fun g => (s0.poison.get? (k.1 / 64 + g)).isSome)
        else []
      let s2 := { s1 with swaps := s1.swaps.filter fun x => x.id != id, outbox := s1.outbox ++ out }
      if s2.fetches.any fun f => f.isOf w.vf w.page then
        some { s2 with fetches := s2.fetches.map fun f => if f.isOf w.vf w.page then { f with frame := some w.frame, inPlace := true } else f }
      else some (s2.modVf w.vf fun v => { v with frames := v.frames ++ [(w.part, w.size, w.frame)] }).giveFrames

/-- SWAP_COPY_COMPLETE; nothing happens where it cannot occur (log 48). -/
def execSwapCopyComplete (id : Nat) (s : State) : Out := s.occurs (onSwapCopyComplete id s)

end Sys2Proof.Machine
end

