-- ==== Sys2Proof/Machine/Cache.lean ====
section
/-!
DEFINITION. The cluster cache (R151, R190, R199, R200) and the accesses on their way (R190 to R193): hits, fills, OWNED and
update-only lines, partials, the service of a load and of a write at its home, what an access answers, and the completion of
a word whose path waits for it.
-/
namespace Sys2Proof.Machine

/-! ## Lines of a cluster's cache (R151) -/

/-- Banks in CACHE mode: the ways. -/
def Cluster.ways (c : Cluster) : List Nat :=
  (List.range c.banks.length).filter fun i =>
    match c.banks[i]? with
    | some b => b.mode == .cache && !b.leaving
    | none => false

def State.hasCache (s : State) (cl : Nat) : Bool := ((s.cluster? cl).map fun c => !c.ways.isEmpty).getD false

/-- Lines of one set: address bits 16:7 (R150), of the device physical address, as the tag is (log 62). -/
def Cluster.setOf (c : Cluster) (line : Nat) : List CLine := c.lines.filter fun l => l.line % 1024 == line % 1024

/-- A line most recently used in its set. -/
def Cluster.touch (c : Cluster) (line : Nat) : Cluster :=
  let top := (c.setOf line).foldl (fun t l => max t l.used) 0
  { c with lines := mapIf (fun l => l.tag == line) (fun l => { l with used := top + 1 }) c.lines }

/-- A line least recently used in its set: every other is younger. -/
def Cluster.untouch (c : Cluster) (line : Nat) : Cluster :=
  { c with lines := c.lines.map fun l =>
      if l.tag == line then { l with used := 0 }
      else if l.line % 1024 == line % 1024 then { l with used := l.used + 1 } else l }

/-- A line put into a cluster's cache: in its own place, an empty way of its set, or that of the least recently used line, which
is evicted (R151, R200). Without a CACHE-mode bank nothing is filled. -/
def State.fillLine (s : State) (cl : Nat) (line : Nat) (kind : LineKind) (ctx : Nat) (psn : Bool × Bool) (stream : Bool) : State :=
  match s.cluster? cl with
  | none => s
  | some c =>
    let held := (c.setOf line).filter fun l => l.tag != line
    let own := (c.line? line).map fun l => l.bank
    let empty := c.ways.find? fun w => !(held.any fun l => l.bank == w)
    let victim := leastBy (fun l => l.used) (held.filter fun l => c.ways.contains l.bank)
    let way := (own.or empty).or (victim.map fun l => l.bank)
    match way with
    | none => s
    | some w =>
      let s1 := if own.isNone && empty.isNone then
          (match victim with
           | some v => s.evict cl v
           | none => s)
        else s
      let l : CLine := { line := line, kind := kind, bank := w, used := 0, ctx := ctx, psn := psn, partials := [], away := none,
                         base := if kind == .owned then some (s.homeValue line) else none }
      s1.modCluster cl fun c =>
        let c1 := c.dropLine line
        let c2 := { c1 with lines := c1.lines ++ [l] }
        if stream then c2.untouch line else c2.touch line

/-- A load of the cluster hits the line: an unexpired lease or an OWNED line (R190, R199). -/
def State.hit (s : State) (cl line : Nat) : Option CLine :=
  match (s.cluster? cl).bind fun c => c.line? line with
  | none => none
  | some l =>
    match l.kind with
    | .lease e => if s.now < e then some l else none
    | .owned => some l
    | .updateOnly => none

/-! ## Hits -/

/-- A load access with its data. -/
def Acc.answer (a : Acc) (bs : List Byte) (psnAt : Option Nat) : Acc :=
  { a with done := true, result := bs, psn := psnAt.map fun k => a.va + (k - a.key) }

/-- First poisoned byte of an access that a cached line serves. -/
def CLine.firstPoison (l : CLine) (key n : Nat) : Option Nat :=
  (granulesOf key n).findSome? fun gr =>
    if (if gr % 2 = 0 then l.psn.1 else l.psn.2) then some (max key (64 * gr)) else none

/-- Accesses of a flight to a line that are not performed. -/
def Flight.on (f : Flight) (line : Nat) : List Acc := f.accs.filter fun a => !a.done && a.key / 128 == line

/-- The first poisoned byte of a run in a line that a load hits: of the home's bytes where it is OWNED, else of its own copy (R279). -/
def State.hitPoison (s : State) (l : CLine) (key n : Nat) : Option Nat :=
  match l.kind with
  | .owned => firstPoison s.poison key n
  | _ => l.firstPoison key n

/-- A load access served by the cluster's cache, where it hits (R190, R199); the word's accesses to one line are performed together (R370). -/
def State.serveHit (s : State) (f : Flight) (a : Acc) : Acc :=
  if a.tile.isSome || (f.on (a.key / 128)).any fun x => s.ownRed f.grp f.slot x.key f.size then a
  else
    match s.hit f.cluster (a.key / 128) with
    | none => a
    | some l => a.answer (s.loadBytes f.grp f.slot a.key f.size) (s.hitPoison l a.key f.size)

/-- A load whose line is not cached (R151, R190): policy bypass, or no CACHE-mode bank. -/
def State.bypasses (s : State) (f : Flight) : Bool := f.cache == 2 || !s.hasCache f.cluster

/-- The hits of a load word at issue, with the energy of their sectors (R263 class 5). -/
def State.serveHits (s : State) (f : Flight) : State × Flight :=
  if s.bypasses f then (s, f)
  else
    let accs := f.accs.map fun a => if a.done then a else s.serveHit f a
    let got := ((f.accs.zip accs).filter fun x => !x.1.done && x.2.done).map fun x => x.2
    let s1 := got.foldl (fun s a => s.modCluster f.cluster fun c => c.touch (a.key / 128)) s
    (s1.charge f.ctx 5 (sectorsOf got f.size), { f with accs := accs })

/-! ## A load at its home (R190, R167) -/

/-- A lease granted to a cluster on a line (R190), of the length of the loading context's partition (log 63). -/
def State.grantLease (s : State) (ctx cl : Nat) (stream : Bool) (line : Nat) : State :=
  let len := ((s.part? (s.partOf ctx)).map (·.lease)).getD 256
  let e := s.leaseEnd line len
  let h := s.homeLine line
  (s.setHomeLine line { h with leaseUntil := max h.leaseUntil e }).fillLine cl line (.lease e) ctx (s.linePsn line) stream

/-- The access reads a peer module's memory through a port that is up. -/
def State.peerRead (s : State) (a : Acc) : Option TlbEntry :=
  a.tile.bind fun e => if isPeer (s.tileBase e a.va) && s.reaches (s.tileBase e a.va) then some e else none

/-- First key of the bytes an access reads: in the frame that is still held, where its page is being swapped out. -/
def State.readKey (s : State) (a : Acc) : Nat :=
  match a.tile with
  | none => a.key
  | some e => s.tileBase e a.va + a.va % 65536

/-- A request flit to a peer, charged to the load's context (R263 class 13). How many flits a peer's read takes the spec leaves open: one
for each line here (DESIGN CHOICE, log 85). -/
def State.peerFlit (s : State) (f : Flight) (mine : List Acc) : State :=
  match mine.find? fun a => (s.peerRead a).isSome with
  | none => s
  | some a =>
    ({ s with outbox := s.outbox ++ [.peerLoad (peerOf (s.readKey a)) (peerAddr (s.readKey a) / 128 * 128) 128] } : State).charge f.ctx 13 1

/-- CONSULT reads of a frame that is still being copied out are reads of this module's memory (R167, R172, R263). -/
def State.frameRead (s : State) (f : Flight) (mine : List Acc) : State :=
  let held := (mine.filter fun a => a.tile.isSome).map fun a => { a with key := s.readKey a }
  (dedup (held.map fun a => a.key / 128)).foldl
    (fun s l => s.l2Access f.ctx l (sectorsOf (held.filter fun a => a.key / 128 == l) f.size) false) s

/-- One load access performed at its home. -/
def State.serveLoad (s : State) (f : Flight) (a : Acc) : Acc :=
  match a.tile with
  | some e =>
    let r := s.consult f.grp f.slot e a.va f.size
    { a with done := true, result := r.1, psn := if r.2 then some a.va else none }
  | none => a.answer (s.loadBytes f.grp f.slot a.key f.size) (firstPoison s.poison a.key f.size)

def State.setFlight (s : State) (f : Flight) : State :=
  { s with flights := s.flights.map fun x => if x.id == f.id then f else x }

/-! ## A write at its home (R191, R199, R200, R166) -/

/-- A write-like access of plain memory accepted with a GWCT; an atomic finds what every accepted write leaves (R310, R313). -/
def State.acceptAcc (s : State) (f : Flight) (gwct : Nat) (a : Acc) : State × Acc :=
  match f.kind with
  | .load => (s, a)
  | .store => (s.accept a.key a.data gwct f.grp f.slot .clean f.ctx, { a with done := true })
  | k =>
    let t := s.latest
    let old := t.mem.bytes a.key f.size
    let new := leBytes f.size (atomOp f.mf (leNat old) (leNat a.data) a.cmp)
    let bad := if k == .atom then firstPoison t.poison a.key f.size else none
    (s.accept a.key new gwct f.grp f.slot .combined f.ctx, a.answer old bad)

/-- Accesses in ascending lane order, each accepted. -/
def State.acceptAll (s : State) (f : Flight) (gwct : Nat) : List Acc → State × List Acc
  | [] => (s, [])
  | a :: as =>
    let (s1, a1) := s.acceptAcc f gwct a
    let (s2, as2) := s1.acceptAll f gwct as
    (s2, a1 :: as2)

/-- Accesses replaced by those of the same lane. -/
def replaceAccs (old new : List Acc) : List Acc :=
  old.map fun a => ((new.find? fun n => n.lane == a.lane)).getD a

/-- A flight's writes to one line of plain memory arrive at their home (R191). -/
def State.writeLine (s : State) (f : Flight) (line : Nat) (mine : List Acc) : State × Flight :=
  let s1 := s.atHome line
  let t := s1.gwctOf line
  let (s2, done) := s1.acceptAll f t mine
  let inside := inModule (128 * line)
  (s2.l2Access f.ctx line (sectorsOf mine f.size) true,
   { f with accs := replaceAccs f.accs done, visMod := if inside then max f.visMod t else f.visMod,
            visOut := if inside then f.visOut else max f.visOut t })

/-- Appends to the page park as a forced fetch: an overflow has begun its fetch, or it is a large page being fetched (R170, R173). -/
def State.appendsPark (s : State) (e : TlbEntry) : Bool :=
  s.fetches.any fun x => x.isOf e.vf e.page && (x.overflow || decide (65536 < e.size))

/-- Lanes of a flight that would write to a page join its forced fetch: every active lane where one access stands for them all (R215). -/
def Flight.toFetch (f : Flight) (e : TlbEntry) (id : Nat) : Flight :=
  let out := fun (a : Acc) => !a.done && (a.tile.map fun t => (t.vf, t.page)) == some (e.vf, e.page)
  { f with accs := f.accs.filter fun a => !out a, fetchLanes := f.fetchLanes ||| (if f.one then f.lanes else maskOf ((f.accs.filter out).map fun a => a.lane)),
           fetches := if f.fetches.contains id then f.fetches else f.fetches ++ [id] }

/-- A write of a group went where no port is up, or was on its way through one that went down: POISON at its next release, with the address of
the first such write (R283, R292). -/
def State.loseWrite (s : State) (gid va : Nat) : State := s.modGroup gid fun g => { g with lost := g.lost.or (some va) }

/-- A path waits for a fetch that an access of a word behind it has forced (R170, R194). -/
def State.awaitFetch (s : State) (gid : Nat) (slot : Bool) (id : Nat) : State :=
  s.modGroup gid fun g => g.modPath slot fun p => if p.awaits.contains id then p else { p with awaits := p.awaits ++ [id] }

/-- The append of one access, or its overflow (R166, R170). A reduction partial whose tile forces a fetch, or finds no room, waits at the home
until the page arrives (R163). The overflowing lanes of a word whose path waits for it park with the word; those of one that has gone on stay
with its flight, and the group waits for the page at its present boundary (log 3). A write to a page of a peer that no port reaches makes the
group's next release raise POISON (R292). The manifest is kept behind the system share (R164); whether an append is an L2 access of class 6 the
spec does not say: none is charged (DESIGN CHOICE, log 86). -/
def State.appendAcc (s : State) (f : Flight) (a : Acc) (e : TlbEntry) : State × Flight :=
  let es := entriesOf (f.kind == .red) f.mf (a.va % 65536) f.ctx a.data
  let (s1, made) := if s.appendsPark e || e.wp then (s, false) else s.append e (tileOf a.va) es
  if made then
    (if isPeer e.key && !s.reaches e.key then s1.loseWrite f.grp a.va else s1,
     { f with accs := replaceAccs f.accs [{ a with done := true }], visMod := max f.visMod s.now })
  else
    let (s2, id) := s1.startFetch f.ctx e
    let s3 := { s2 with fetches := s2.fetches.map fun x => if x.id == id then { x with overflow := true } else x }
    if f.grp == noGroup then (s3, f)
    else if f.blocking then (s3.noteFetch f.grp f.slot e a.va, f.toFetch e id)
    else ((s3.noteFetch f.grp f.slot e a.va).awaitFetch f.grp f.slot id,
          { f with fetches := if f.fetches.contains id then f.fetches else f.fetches ++ [id] })

/-- Appends in ascending lane order; lanes that have joined a fetch meanwhile are passed over. -/
def State.appendAll (s : State) (f : Flight) : List Acc → State × Flight
  | [] => (s, f)
  | a :: as =>
    match a.tile with
    | none => s.appendAll f as
    | some e =>
      if f.accs.any fun x => x.lane == a.lane && !x.done then
        let (s1, f1) := s.appendAcc f a e
        s1.appendAll f1 as
      else s.appendAll f as

/-- The function and tile of an access to a page that is not resident. -/
def Acc.tileNo (a : Acc) : Option (Nat × Nat) := a.tile.map fun e => (e.vf, tileOf a.va)

/-- The accesses of a flight that are appended with those of a line: all of the same tiles, in ascending lane order (R166). -/
def Flight.appends (f : Flight) (line : Nat) : List Acc :=
  f.accs.filter fun a => !a.done && a.tile.isSome && (f.on line).any fun m => m.tileNo == a.tileNo

/-- A reduction partial reaches the manifest home (R163, R166). -/
def State.arrivePartial (s : State) (f : Flight) : State :=
  let r := s.appendAll f f.accs
  if r.2.accs.all fun a => a.done then { r.1 with flights := r.1.flights.filter fun x => x.id != f.id } else r.1.setFlight r.2

/-- A request for a line of a tile that is not resident: the update-only copies of the line are recalled, and their partials are accepted
before it (R163, R166, R200). -/
def State.settleLine (s : State) (line : Nat) : State :=
  let s1 := s.recall line
  (s1.flights.filter fun f => f.grp == noGroup && (f.on line).any fun a => a.tile.isSome).foldl (fun s f => s.arrivePartial f) s1

/-- A flight's writes to one line arrive at their home, and with those to a tile the word's others to it. -/
def State.writeAtHome (s : State) (f : Flight) (line : Nat) : State :=
  let plain := (f.on line).filter fun a => a.tile.isNone
  let (s1, f1) := if plain.isEmpty then (s.mature, f) else s.writeLine f line plain
  let tiles := dedup ((f.appends line).map fun a => a.key / 128)
  let s1 := if f.grp == noGroup then s1 else tiles.foldl (fun s l => s.settleLine l) s1
  let (s2, f2) := s1.appendAll f1 (f.appends line)
  if f.grp == noGroup && f2.accs.all fun a => a.done then { s2 with flights := s2.flights.filter fun x => x.id != f.id }
  else s2.setFlight f2

/-- The home serves a flight's loads of one line (R190, R167). -/
def State.loadAtHome (s : State) (f : Flight) (line : Nat) : State :=
  let mine := f.on line
  let plain := mine.filter fun a => a.tile.isNone
  let s1 := if plain.length = mine.length then s.atHome line else s.mature.settleLine line
  let f1 := { f with accs := f.accs.map fun a => if !a.done && a.key / 128 == line then s1.serveLoad f a else a }
  let s2 := (s1.peerFlit f mine).frameRead f mine
  let s3 := if plain.isEmpty then s2
    else if s2.bypasses f then s2.l2Access f.ctx line (sectorsOf plain f.size) false
    else (s2.l2Access f.ctx line 4 false).grantLease f.ctx f.cluster (f.cache == 1) line
  s3.setFlight f1

/-! ## Loads performed before their words (R194, log 3) -/

/-- Bytes that the path has loaded already cover an access. -/
def Early.covers (e : Early) (a : Acc) (size : Nat) : Bool :=
  e.tile == a.tileNo && decide (e.key ≤ a.key) && decide (a.key + size ≤ e.key + e.bytes.length)

/-- Bytes that the path has loaded already meet an access. -/
def Early.meets (e : Early) (a : Acc) (size : Nat) : Bool := e.tile == a.tileNo && runsMeet e.key e.bytes.length a.key size

/-- The answer of a load access from bytes that the path has loaded already. -/
def Early.answer (e : Early) (a : Acc) (size : Nat) : Acc :=
  a.answer ((e.bytes.drop (a.key - e.key)).take size)
    (((List.range size).find? fun i => (e.psn[a.key - e.key + i]?).getD false).map fun i => a.key + i)

/-- What the path has loaded already for an access of a word, with the CACHE policy of the word: the word's accesses to one line are performed
together, so it serves them all or none (R370). -/
def Flight.early (f : Flight) (l : List Early) (a : Acc) : Option Early :=
  l.find? fun e => e.cache == f.cache && (f.accs.filter fun x => x.tileNo == a.tileNo && x.key / 128 == a.key / 128).all fun x => e.covers x f.size

/-- The bytes of a word's accesses are no longer held from before: the next load of them is performed after the word (R193). -/
def State.dropEarly (s : State) (f : Flight) : State :=
  s.modGroup f.grp fun g => g.modPath f.slot fun p =>
    if p.early.isEmpty then p
    else { p with early := p.early.filter fun e => !(f.accs.any fun a => e.meets a f.size) }

/-- The energy of accesses of one line that have been performed before their word: hits of the cluster cache, or sectors that an L2 slice has
returned and what it had to fetch from HBM (R263). -/
def State.chargeEarly (s : State) (f : Flight) (got : List (Acc × Early)) (line : Nat) : State :=
  let here := got.filter fun x => x.1.key / 128 == line
  let n := sectorsOf (here.map fun x => x.1) f.size
  match here.head?.map fun x => x.2 with
  | none => s
  | some e =>
    if e.hit then s.charge f.ctx 5 n
    else
      match e.l2 with
      | none => s
      | some miss =>
        let s1 := s.charge f.ctx 6 (if e.whole then 4 else n)
        if miss then s1.charge f.ctx 7 2 else s1

/-- The accesses of a load word that have been performed before it. -/
def State.serveEarly (s : State) (f : Flight) : State × Flight :=
  match ((s.group? f.grp).bind fun g => g.path f.slot).map fun p => p.early with
  | none | some [] => (s, f)
  | some early =>
    let got := f.accs.filterMap fun a => (f.early early a).map fun e => (a, e)
    let accs := f.accs.map fun a => ((f.early early a).map fun e => e.answer a f.size).getD a
    ((dedup (got.map fun x => x.1.key / 128)).foldl (fun s l => s.chargeEarly f got l) s, { f with accs := accs })

/-- A load of a path to these bytes, or an atomic or reduction, is on its way, so that none is performed before it (R193). -/
def State.loadBusy (s : State) (gid : Nat) (slot : Bool) (key n : Nat) : Bool :=
  s.ownRed gid slot key n || s.flights.any fun f =>
    f.grp == gid && f.slot == slot && f.kind != .store && f.accs.any fun a => !a.done && runsMeet a.key f.size key n

/-- Which of n places answer with poison. -/
def psnMap (n : Nat) (bad : Nat → Bool) : List Bool := (List.range n).map bad

/-- What a load finds now in the cluster cache: the line is most recently used (R151). -/
def State.earlyHit (s : State) (g : Group) (slot : Bool) (cache : BitVec 2) (l : CLine) (key n : Nat) : State × Early :=
  (s.modCluster g.cluster fun c => c.touch (key / 128),
   { tile := none, key := key, bytes := s.loadBytes g.id slot key n, psn := psnMap n fun i => (s.hitPoison l (key + i) 1).isSome,
     cache := cache, hit := true, whole := false, l2 := none })

/-- What a load finds now at the home of a line: under lease or streaming it takes a lease and fills the line, under bypass it leaves none (R151,
R190). What L2 and HBM do for it is charged once a word takes the bytes. -/
def State.earlyMiss (s : State) (g : Group) (slot : Bool) (cache : BitVec 2) (bypass : Bool) (key n : Nat) : State × Early :=
  let line := key / 128
  let s1 := s.l2Look (s.dataWays g.ctx line) g.ctx line false
  (if bypass then s1 else s1.grantLease g.ctx g.cluster (cache == 1) line,
   { tile := none, key := key, bytes := s.loadBytes g.id slot key n, psn := psnMap n fun i => (firstPoison s.poison (key + i) 1).isSome,
     cache := cache, hit := false, whole := !bypass, l2 := some (s.l2Misses line) })

/-- What CONSULT answers now, a byte at a time, so that each has its own poison (R165, R167, R279). A frame that is still being copied out is read
through L2 (R172). -/
def State.earlyConsult (s : State) (g : Group) (slot : Bool) (cache : BitVec 2) (e : TlbEntry) (va r n : Nat) : State × Early :=
  let line := (s.tileBase e va + va % 65536) / 128
  let frame := inModule (128 * line)
  (if frame then s.l2Look (s.dataWays g.ctx line) g.ctx line false else s,
   { tile := some (e.vf, tileOf va), key := r, bytes := (s.consult g.id slot e va n).1,
     psn := psnMap n fun i => (s.consult g.id slot e (va + i) 1).2,
     cache := cache, hit := false, whole := false, l2 := if frame then some (s.l2Misses line) else none })

/-- What a load finds now, under a CACHE policy (R68, R151). -/
def State.readEarly (s : State) (g : Group) (slot : Bool) (cache : BitVec 2) (va n : Nat) : Xlat → Option (State × Early)
  | .mem key =>
    let bypass := cache == 2 || !s.hasCache g.cluster
    match if bypass then none else s.hit g.cluster (key / 128) with
    | some l => if s.loadBusy g.id slot key n then none else some (s.earlyHit g slot cache l key n)
    | none =>
      let s1 := s.recall (key / 128)
      if s1.loadBusy g.id slot key n then none else some (s1.earlyMiss g slot cache bypass key n)
  | .tile e r =>
    let s1 := s.settleLine (r / 128)
    if e.rp || s1.loadBusy g.id slot r n || s1.loadBusy g.id slot (s1.tileBase e va + va % 65536) n || s1.ownAppend g.id slot e va n ||
        isPeer (s1.tileBase e va) then none
    else some (s1.earlyConsult g slot cache e va r n)
  | _ => none

/-- A path's load of `n` bytes of one line performed before its word: R194 lets a part perform accesses to different bytes in any order. The
address translates and is readable now, to plain memory or to a tile that CONSULT serves from this module or its host, and no access of the
path to these bytes is on its way (R193). -/
def State.loadEarly (s : State) (gid : Nat) (slot : Bool) (cache : BitVec 2) (va n : Nat) : State :=
  match (s.group? gid).bind fun g => (g.path slot).map fun _ => g with
  | none => s
  | some g =>
    if !canonicalRange va n || n == 0 || cache == 3 || decide (128 < va % 128 + n) then s
    else
      let r := s.mature.translate g.ctx g.secure .load va
      match r.1.readEarly g slot cache va n r.2 with
      | none => r.1
      | some (s1, e) =>
        s1.modGroup gid fun g => g.modPath slot fun p =>
          { p with early := (p.early.filter fun x => !(x.tile == e.tile && runsMeet x.key x.bytes.length e.key n)) ++ [e] }

/-! ## Atomics and reductions in the cluster cache (R199, R200) -/

/-- An atomic performed in an OWNED line, at once (R199, R310, R313). -/
def State.performOwned (s : State) (f : Flight) (a : Acc) : State × Acc :=
  let old := s.mem.bytes a.key f.size
  let new := leBytes f.size (atomOp f.mf (leNat old) (leNat a.data) a.cmp)
  let bad := firstPoison s.poison a.key f.size
  ((s.store a.key new .combined).raiseHorizons f.grp s.now true, a.answer old bad)

def Partial.over (p : Partial) (off n : Nat) : Bool := runsMeet p.off p.width off n

/-- A contribution to a line's partials: overlapping ones of another code or width go home first (R200, R399). -/
def State.contribute (s : State) (cl : Nat) (f : Flight) (a : Acc) : State × Acc :=
  match (s.cluster? cl).bind fun c => c.line? (a.key / 128) with
  | none => (s, a)
  | some l =>
    let off := a.key % 128
    let x := leNat a.data
    let same := fun (p : Partial) => p.off == off && p.width == f.size && p.code == f.mf
    let gone := l.partials.filter fun p => p.over off f.size && !same p
    let s1 := s.combineAll l gone
    let kept := l.partials.filter fun p => !(p.over off f.size && !same p)
    let ps := if kept.any same then
        kept.map fun p => if same p then { p with data := atomOp f.mf p.data x 0 } else p
      else kept ++ [{ off := off, width := f.size, code := f.mf, data := x }]
    let s2 := s1.modCluster cl fun c => c.setLine { l with partials := ps }
    (s2.raiseHorizons f.grp s.now true, { a with done := true })

/-- A flight's accesses to a line that its cluster holds OWNED or update-only, in ascending lane order. -/
def State.localAll (s : State) (f : Flight) : List Acc → State × List Acc
  | [] => (s, [])
  | a :: as =>
    let (s1, a1) := if f.kind == .atom then s.performOwned f a else s.contribute f.cluster f a
    let (s2, as2) := s1.localAll f as
    (s2, a1 :: as2)

/-- The cluster holds the line in the state the flight needs. -/
def State.holds (s : State) (f : Flight) (line : Nat) : Bool :=
  match (s.cluster? f.cluster).bind fun c => c.line? line with
  | none => false
  | some l => l.away.isNone && ((f.on line).all fun a => a.tile.isNone) && if f.kind == .atom then l.kind == .owned else l.kind == .updateOnly

/-- A flight's accesses to one line performed in the cluster cache where the line stands ready; one that found it there is a hit: the line is most
recently used, and each sector counts (R151, R263). -/
def State.performLocal (s : State) (f : Flight) (line : Nat) (hit : Bool) : State × Flight :=
  if s.holds f line then
    let (s1, done) := s.localAll f (f.on line)
    (if hit then (s1.modCluster f.cluster fun c => c.touch line).charge f.ctx 5 (sectorsOf (f.on line) f.size) else s1,
     { f with accs := replaceAccs f.accs done })
  else (s, f)

/-- Lines of a flight's accesses. -/
def Flight.lines (f : Flight) : List Nat := dedup ((f.accs.filter fun a => !a.done).map fun a => a.key / 128)

/-- At issue, the accesses of a local atomic or reduction whose lines stand ready. -/
def State.performReady (s : State) (f : Flight) : List Nat → State × Flight
  | [] => (s, f)
  | l :: ls =>
    let (s1, f1) := s.performLocal f l true
    s1.performReady f1 ls

/-! ## Completion of a word whose path waits (R369, R311, R215) -/

/-- Registers of a loaded value (R60, R369). -/
def loadWords (mf : Nat) (bs : List Byte) : List Word :=
  let x := leNat bs
  match mf with
  | 0 | 2 => [BitVec.ofNat 32 x]
  | 1 => [wordOf (sextNat x 8)]
  | 3 => [wordOf (sextNat x 16)]
  | _ => leWords bs (bs.length / 4)

/-- Registers of an access's answer. -/
def Flight.words (f : Flight) (a : Acc) : List Word :=
  if f.kind == .atom then leWords a.result (f.size / 4) else loadWords f.mf a.result

/-- v[d] onward of a lane. -/
def Group.setVs (g : Group) (d lane : Nat) : List Word → Group
  | [] => g
  | w :: ws => (g.setV d lane w).setVs (d + 1) lane ws

/-- One access's answer written to its registers (R57, R369, R439). -/
def Flight.write (f : Flight) (g : Group) (a : Acc) : Group :=
  match f.dst with
  | .nowhere => g
  | .lanes d => g.setVs d a.lane (f.words a)
  | .bcast d m => (lanesOf m).foldl (fun g i => g.setVs d i (f.words a)) g
  | .uni d => g.setGs d (f.words a)

/-- The poisoned lanes of a flight, and the first poisoned byte of the lowest (R313, R369). -/
def Flight.poisoned (f : Flight) (p : Path) : Option (Mask × Nat) :=
  match f.accs.find? fun a => a.psn.isSome with
  | none => none
  | some a =>
    let m := if f.one then p.lanes else maskOf ((f.accs.filter fun a => a.psn.isSome).map fun a => a.lane)
    some (m, a.psn.getD 0)

/-- The access kind of a flight, for a fault record. -/
def Flight.access (f : Flight) : Access :=
  match f.kind with
  | .load => .load
  | .store => .store
  | .red => .reduction
  | .atom => .atomic

/-- The word of a flight's lanes that remain parks its group, else the word completes (R215, R163), and an acquire takes effect (R198).
Where some lanes fault PAGE and others force a fetch, the record's ADDR is that of the lowest lane that faulted, be it the lowest lane of REPLAY or
not: R217 does not say which (DESIGN CHOICE, log 92). -/
def State.endWord (s : State) (f : Flight) : State :=
  if f.pageLanes ≠ 0 then s.parkPage f.grp f.slot f.access (f.pageLanes ||| f.fetchLanes) f.pageVa f.pageLevel f.fetches
  else if f.fetchLanes ≠ 0 then s.parkFetch f.grp f.slot f.fetchLanes f.fetches
  else
    match s.group? f.grp with
    | none => s
    | some g => s.finish (if f.acq then g.modPath f.slot Path.forget else g) f.slot f.cls

/-- The answer of a load or atomic: registers, or POISON (R369, R313). -/
def State.respond (s : State) (f : Flight) : State :=
  let s1 := { s with flights := s.flights.filter fun x => x.id != f.id }
  match s1.group? f.grp with
  | none => s1
  | some g =>
    match g.path f.slot with
    | none => s1
    | some p =>
      match f.poisoned p with
      | some (m, a) =>
        let g1 := if f.kind == .atom then
            (f.accs.filter fun a => a.psn.isNone).foldl (fun g a => f.write g a) g
          else g
        (s1.setGroup g1).trapPath f.grp f.slot .poison m a
      | none => (s1.setGroup (f.accs.foldl (fun g a => f.write g a) g)).endWord f

end Sys2Proof.Machine
end

