-- ==== Sys2Proof/Config.lean ====
section
/-!
DEFINITION. What an implementation fixes and the spec does not: free values without a body (logs 7 to 9). Nothing in Lean
can evaluate one, so what is proved holds for every value.
-/
namespace Sys2Proof.Config

/-- An UNSPECIFIED word (R1): word number i of those that a context takes at once, for the n-th time it takes any, with n counted in
Context.free. It depends on the context and on its own count alone, and on no other context's state (log 7). -/
opaque freeWord : (ctx n i : Nat) → BitVec 32

/-- The special functions inside their accuracy bounds, a candidate for each function and input (R87, log 8):
0 RSQ, 1 EXP2, 2 LOG2, 3 SIN, 4 COS, 5 TANH. -/
opaque special : Nat → Word → Word

/-- SHA-256 of a run of bytes, as 32 bytes (R295, log 9). -/
opaque sha256 : List Byte → List Byte

/-- A signature is the right one for a role and bytes: 0 the key in fuses, for images, the configuration block and the anti-rollback counter; 2
life-cycle moves (R293 to R298, log 9). -/
opaque signatureOk : Nat → List Byte → List Byte → Bool

/-- SHA-256 digest of the ROM (R295, log 9). -/
opaque romDigest : List Byte

/-- The device's own signature over bytes (R295, log 9). -/
opaque deviceSign : List Byte → List Byte

/-- Answers of the key exchange to a request (R295, log 9). -/
opaque keyExchange : List Byte → List Byte

end Sys2Proof.Config
end

