-- ==== Sys2Proof/Machine/Free.lean ====
section
/-!
DEFINITION. UNSPECIFIED values (R1): what a context takes of them, and the registers and scratchpad bytes that read as one until an MWAIT
covers an operation (R120, R135).
-/
namespace Sys2Proof.Machine

/-- A taking of UNSPECIFIED values: the context, and how often it had taken any before (R1, log 7). -/
structure Take where
  ctx : Nat
  n : Nat
deriving DecidableEq, Repr

def Take.word (t : Take) (i : Nat) : Word := Config.freeWord t.ctx t.n i
def Take.byte (t : Take) (i : Nat) : Byte := (t.word i).extractLsb' 0 8

/-- The next taking of a context, and the state after it. -/
def State.taking (s : State) (ctx : Nat) : Take := { ctx := ctx, n := ((s.ctx? ctx).map (·.free)).getD 0 }
def State.took (s : State) (ctx : Nat) : State := s.modCtx ctx fun c => { c with free := c.free + 1 }

/-- Bytes become UNSPECIFIED. -/
def scramble (t : Take) (m : Memory) (os : List Nat) : Memory := os.foldl (fun m o => m.setByte o (t.byte o)) m

/-- The registers of accumulators that no MWAIT covers read a value that may differ at each word (R120). -/
def Group.renew (g : Group) (t : Take) : Group :=
  { g with v := g.accRuns.foldl (fun m a =>
      (List.range 32).foldl (fun m r => (List.range 8).foldl (fun m j =>
        let k := 32 * (a.first + r) + 8 * a.quarter + j
        m.setWord k (t.word k)) m) m) g.v }

/-- The same of the scratchpad bytes of arrays that no MWAIT covers (R135). -/
def Block.renew (b : Block) (t : Take) : Block :=
  { b with scratch := b.claims.foldl (fun m c => scramble t m ((List.range c.len).map fun i => c.off + i)) b.scratch }

/-- Something of a context reads UNSPECIFIED values. -/
def State.hasOpen (s : State) (ctx : Nat) : Bool :=
  (s.groups.any fun g => g.ctx == ctx && !g.accRuns.isEmpty) || s.blocks.any fun b => b.ctx == ctx && !b.claims.isEmpty

/-- Before a context reads: what is UNSPECIFIED has a new value (R120, R135, log 30). -/
def State.renew (s : State) (ctx : Nat) : State :=
  if s.hasOpen ctx then
    let gs := (s.groups.filter fun g => g.ctx == ctx && !g.accRuns.isEmpty).map (·.id)
    let bs := (s.blocks.filter fun b => b.ctx == ctx && !b.claims.isEmpty).map (·.id)
    let s1 := gs.foldl (fun (s : State) i => (s.modGroup i fun g => g.renew (s.taking ctx)).took ctx) s
    bs.foldl (fun (s : State) i => (s.modBlock i fun b => b.renew (s.taking ctx)).took ctx) s1
  else s

end Sys2Proof.Machine
end

