-- ==== Sys2Proof/Machine/Fifo.lean ====
section
/-!
DEFINITION. FIFOs of a cluster and queue bindings (R49, R154 to R157, R349, R389, R390, R393).
-/
namespace Sys2Proof.Machine

/-- W banks of a FIFO, and its depth in rows (R154). -/
def Fifo.width (f : Fifo) : Nat := 2 ^ f.wlog
def Fifo.depth (f : Fifo) : Nat := 1024 * f.width

/-- The bank in which row r of a FIFO lies (R154). -/
def Fifo.bankOf (f : Fifo) (r : Nat) : Nat := f.first + r % f.width

/-- Rows accepted and delivered in a cycle of the cluster so far (R154). -/
def Fifo.moved (f : Fifo) (cycle : Nat) : Nat × Nat := if f.rate.1 = cycle then f.rate.2 else (0, 0)

/-- The FIFO can accept, or deliver, one more row in a cycle: 2W of either (R154). -/
def Fifo.accepts (f : Fifo) (cycle : Nat) : Bool := decide ((f.moved cycle).1 < 2 * f.width)
def Fifo.delivers (f : Fifo) (cycle : Nat) : Bool := decide ((f.moved cycle).2 < 2 * f.width)

/-- One more row accepted, or delivered, in a cycle. -/
def Fifo.countIn (f : Fifo) (cycle : Nat) : Fifo := { f with rate := (cycle, (f.moved cycle).1 + 1, (f.moved cycle).2) }
def Fifo.countOut (f : Fifo) (cycle : Nat) : Fifo := { f with rate := (cycle, (f.moved cycle).1, (f.moved cycle).2 + 1) }

def Cluster.fifo? (c : Cluster) (first : Nat) : Option Fifo := c.fifos.find? fun f => f.first == first
def Cluster.setFifo (c : Cluster) (f : Fifo) : Cluster :=
  { c with fifos := c.fifos.map fun x => if x.first == f.first then f else x }

/-- A FIFO that holds no row and has no binding keeps nothing (R157). -/
def Cluster.dropEmptyFifos (c : Cluster) : Cluster :=
  { c with fifos := c.fifos.filter fun f => !(f.rows.isEmpty && f.bound.isEmpty) }

/-- The reading position of a binding on a multicast FIFO. -/
def Fifo.reader? (f : Fifo) (grp q : Nat) : Option Sub := f.readers.find? fun r => r.grp == grp && r.q == q && !r.retired

/-- Rows a pop through a binding would find (R157, R393). -/
def Fifo.avail (f : Fifo) (grp q : Nat) : Nat :=
  if f.mc then
    match f.reader? grp q with
    | some r => f.base + f.rows.length - r.pos
    | none => f.rows.length
  else f.rows.length

/-- Rows a push would find room for (R393). -/
def Fifo.room (f : Fifo) : Nat := f.depth - f.rows.length

/-- The row a pop through a binding takes. -/
def Fifo.peek (f : Fifo) (grp q : Nat) : Option Row :=
  if f.mc then
    match f.reader? grp q with
    | some r => f.rows[r.pos - f.base]?
    | none => none
  else f.rows.head?

/-- A row at a stream position is freed: N subscribers have popped it, retired ones counting (R157). -/
def Fifo.freed (f : Fifo) (pos : Nat) : Bool :=
  decide (f.subs ≤ (f.readers.filter fun r => r.retired || decide (pos < r.pos)).length)

/-- Rows freed from the oldest on, at most `n`. -/
def Fifo.free (f : Fifo) : Nat → Fifo
  | 0 => f
  | n + 1 =>
    match f.rows with
    | [] => f
    | _ :: rs => if f.mc && f.freed f.base then ({ f with rows := rs, base := f.base + 1 } : Fifo).free n else f

def Fifo.freeAll (f : Fifo) : Fifo := f.free f.rows.length

/-- One row popped through a binding. -/
def Fifo.pop (f : Fifo) (grp q : Nat) : Fifo :=
  if f.mc then
    ({ f with readers := f.readers.map fun r =>
        if r.grp == grp && r.q == q && !r.retired then { r with pos := r.pos + 1 } else r } : Fifo).freeAll
  else { f with rows := f.rows.drop 1, base := f.base + 1 }

/-- One row pushed. A multicast FIFO whose subscribers are all retired frees it at once (R157). -/
def Fifo.push (f : Fifo) (r : Row) : Fifo := ({ f with rows := f.rows ++ [r] } : Fifo).freeAll

/-- Rows that a pop through a binding would meet first and that belong to a chunk cut short (R109, R127). -/
def Fifo.owedTo (f : Fifo) (grp q : Nat) : Nat :=
  sumNat ((f.owed.filter fun x => !f.mc || (x.1 == grp && x.2.1 == q)).map fun x => x.2.2)

/-- Rows discarded for one binding while it has any that the FIFO delivers in a cycle; how many are left to discard. -/
def Fifo.discardFor (cycle grp q : Nat) : Nat → Fifo → Fifo × Nat
  | 0, f => (f, 0)
  | n + 1, f =>
    if f.mc && (f.reader? grp q).isNone then (f, 0)
    else if f.avail grp q = 0 || !f.delivers cycle then (f, n + 1)
    else Fifo.discardFor cycle grp q n ((f.pop grp q).countOut cycle)

/-- Rows of chunks cut short leave the FIFO in the chunks' order (R109, R127). -/
def Fifo.discard (f : Fifo) (cycle : Nat) : Fifo :=
  let step := fun (x : Fifo × List (Nat × Nat × Nat)) (t : Nat × Nat × Nat) =>
    if x.2.any fun u => !f.mc || (u.1 == t.1 && u.2.1 == t.2.1) then (x.1, x.2 ++ [t])
    else
      let r := Fifo.discardFor cycle t.1 t.2.1 t.2.2 x.1
      (r.1, if r.2 = 0 then x.2 else x.2 ++ [(t.1, t.2.1, r.2)])
  let r := f.owed.foldl step (f, [])
  { r.1 with owed := r.2 }

/-- The FIFO a queue register is bound to, with the role of the binding (R155). -/
def State.fifoOf (s : State) (g : Group) (q : Nat) : Option (Fifo × BitVec 2) :=
  match g.queue q with
  | none => none
  | some b =>
    match (s.cluster? g.cluster).bind fun c => c.fifo? b.bank with
    | none => none
    | some f => some (f, b.role)

/-- The cycle a cluster is in. -/
def State.cycleNo (s : State) (cl : Nat) : Nat := ((s.cluster? cl).map fun c => c.cycles s.ticks).getD 0

/-- A pop through qN would find a row, in a cycle in which its FIFO still delivers; none where the binding has no pop role (R49, R154, R390). -/
def State.canPop (s : State) (g : Group) (q : Nat) : Option Bool :=
  match s.fifoOf g q with
  | some (f, role) => if role.getLsbD 1 then some (decide (0 < f.avail g.id q) && f.delivers (s.cycleNo g.cluster)) else none
  | none => none

/-- A push through qN would find room, in a cycle in which its FIFO still accepts; none where the binding has no push role (R49, R154,
R390). -/
def State.canPush (s : State) (g : Group) (q : Nat) : Option Bool :=
  match s.fifoOf g q with
  | some (f, role) => if role.getLsbD 0 then some (decide (0 < f.room) && f.accepts (s.cycleNo g.cluster)) else none
  | none => none

/-- A FIFO of a cluster replaced. -/
def State.setFifo (s : State) (cl : Nat) (f : Fifo) : State := s.modCluster cl fun c => (c.setFifo f).dropEmptyFifos

/-- The row at the head of a binding. -/
def State.peekRow (s : State) (g : Group) (q : Nat) : Option Row := (s.fifoOf g q).bind fun p => p.1.peek g.id q

def State.popRow (s : State) (g : Group) (q : Nat) : State :=
  match s.fifoOf g q with
  | some (f, _) => s.setFifo g.cluster ((f.pop g.id q).countOut (s.cycleNo g.cluster))
  | none => s

def State.pushRow (s : State) (g : Group) (q : Nat) (r : Row) : State :=
  match s.fifoOf g q with
  | some (f, _) => s.setFifo g.cluster ((f.push r).countIn (s.cycleNo g.cluster))
  | none => s

/-- A binding leaves its FIFO: a subscriber is retired and counts as having popped every row (R157). -/
def Fifo.unbind (f : Fifo) (grp q : Nat) : Fifo :=
  ({ f with bound := f.bound.filter fun b => b != (grp, q),
            readers := f.readers.map fun r => if r.grp == grp && r.q == q then { r with retired := true } else r } : Fifo).freeAll

/-- The binding of qN of a group removed (R156). -/
def State.unbind (s : State) (gid q : Nat) : State :=
  match s.group? gid with
  | none => s
  | some g =>
    match g.queue q with
    | none => s
    | some b =>
      let s1 := s.modCluster g.cluster fun c =>
        ({ c with fifos := c.fifos.map fun f => if f.first == b.bank then f.unbind gid q else f } : Cluster).dropEmptyFifos
      s1.modGroup gid fun g => { g with qreg := modifyAt g.qreg q fun _ => none }

/-- Every binding of a group removed (R156, R349). -/
def State.unbindAll (s : State) (gid : Nat) : State := (List.range 8).foldl (fun s q => s.unbind gid q) s

/-- Why a path that waits on queues may wake: every condition holds, or a role is missing, so that the word traps (R49, R390). -/
def State.queueReady (s : State) (g : Group) (pop push : Option Nat) : Bool :=
  let p := match pop with
    | none => true
    | some q => (s.canPop g q).getD true
  let w := match push with
    | none => true
    | some q => if pop == some q then true else (s.canPush g q).getD true
  p && w

end Sys2Proof.Machine
end

