-- ==== Sys2Proof/Machine/Operands.lean ====
section
/-!
DEFINITION. The operand forms: prefixes (R65 to R72), register fields (R56, R62, R66), latches and chains (R42 to R45),
bounds (R27, R28), queue operands (R48, R49), and the checks in the order of R74. A word's form says what its three fields
hold; `operands` checks and resolves them.
-/
namespace Sys2Proof.Machine

/-! ## Prefixes -/

/-- The prefixes of a word, at most one of each kind (R70). -/
structure Prefixes where
  reg : Option PfxReg
  imm : Option (BitVec 22)
  mem : Option PfxMem
deriving DecidableEq, Repr

/-- No prefix. -/
def Prefixes.none : Prefixes := ⟨.none, .none, .none⟩

/-- One prefix more; nothing where its kind stands already (R70). -/
def Prefixes.add (ps : Prefixes) : Pfx → Option Prefixes
  | .reg p => if ps.reg.isNone then some { ps with reg := some p } else .none
  | .imm v => if ps.imm.isNone then some { ps with imm := some v } else .none
  | .mem p => if ps.mem.isNone then some { ps with mem := some p } else .none

/-- The prefixes issued before a word: at most two, of different kinds (R70). -/
def gather : List Pfx → Option Prefixes
  | [] => some Prefixes.none
  | [a] => Prefixes.none.add a
  | [a, b] => (Prefixes.none.add a).bind fun ps => ps.add b
  | _ => .none

/-- The kinds of prefix a word accepts (R69). -/
structure Accepts where
  reg : Bool
  imm : Bool
  mem : Bool
deriving DecidableEq, Repr

def Prefixes.accepted (ps : Prefixes) (k : Accepts) : Bool :=
  (ps.reg.isNone || k.reg) && (ps.imm.isNone || k.imm) && (ps.mem.isNone || k.mem)

/-! ## Register fields -/

/-- What a field of a word holds (R56, R62). -/
inductive FieldKind where
  /-- no register -/
  | none
  /-- a vector field -/
  | vec
  /-- a group field of a lane-set word -/
  | grp
  /-- the group data of a store or reduction with U = 1, whose H bits must be zero (R57, R398, R413) -/
  | data
  /-- a register field of a uniform-set word -/
  | uni
deriving DecidableEq, Repr

/-- A field: what it holds, its bits, whether it is the 7-bit B, whether a latch code in it is ILLEGAL (a destination, a pair
or a run), and how many registers it names. -/
structure Fld where
  kind : FieldKind
  code : Nat
  short : Bool
  noLatch : Bool
  span : Nat
deriving DecidableEq, Repr

def Fld.absent : Fld := ⟨.none, 0, false, false, 0⟩
/-- A vector destination, or a run of data. -/
def Fld.vd (code : BitVec 8) (span : Nat) : Fld := ⟨.vec, code.toNat, false, true, span⟩
/-- A vector source in A. -/
def Fld.va (code : BitVec 8) : Fld := ⟨.vec, code.toNat, false, false, 1⟩
/-- B of a lane-set word: a vector field, or a group field under U = 1. -/
def Fld.b7 (u : Bool) (code : BitVec 7) : Fld := ⟨if u then .grp else .vec, code.toNat, true, false, 1⟩
/-- A of a lane-set word: a vector field, or a group field under U = 1. -/
def Fld.a8 (u : Bool) (code : BitVec 8) : Fld := ⟨if u then .grp else .vec, code.toNat, false, false, 1⟩
/-- A group destination or run of a lane-set word. -/
def Fld.gd (code : BitVec 8) (span : Nat) : Fld := ⟨.grp, code.toNat, false, true, span⟩
/-- The group data of a store or reduction with U = 1. -/
def Fld.gx (code : BitVec 8) (span : Nat) : Fld := ⟨.data, code.toNat, false, true, span⟩
/-- A uniform source of one register. -/
def Fld.us (code : BitVec 8) : Fld := ⟨.uni, code.toNat, false, false, 1⟩
/-- A uniform destination, pair or run. -/
def Fld.ud (code : BitVec 8) (span : Nat) : Fld := ⟨.uni, code.toNat, false, true, span⟩

/-- What a field names, before bounds. -/
inductive Name where
  | absent
  | v (n : Nat)
  | g (n : Nat)
  | latch (n : Nat)
  /-- a latch code in a group field: ILLEGAL_LATCH (R56) -/
  | badLatch
  | queue (n : Nat)
deriving DecidableEq, Repr

/-- The H bits of a REG prefix for a position: 1 D, 2 A, 3 B (R66). -/
def pfxH (p : PfxReg) (pos : Nat) : Nat := (if pos = 1 then p.dh else if pos = 2 then p.ah else p.bh).toNat

/-- The name in a field; nothing where R56, R62 or R66 make the word ILLEGAL. -/
def Fld.name (f : Fld) (reg : Option PfxReg) (pos : Nat) : Option Name :=
  let h := (reg.map fun p => pfxH p pos).getD 0
  let b8 : Nat := match reg with
    | some p => if p.b8 && f.short then 128 else 0
    | none => 0
  let rel := match reg with
    | some p => p.rel.toNat == pos
    | none => false
  match f.kind with
  | .none => if h = 0 && !rel then some .absent else none
  | .vec =>
    if h ≠ 0 then none
    else
      let wide := !f.short || reg.isSome
      let c := f.code + b8
      let vLim := if wide then 0xF4 else 0x7C
      let lBase := if wide then 0xFC else 0x7C
      if c < vLim then some (.v c)
      else if rel then none
      else if c < lBase then (if f.short then none else some (.queue (c - 0xF4)))
      else if f.noLatch then none
      else some (.latch (c - lBase))
  | .grp =>
    match reg with
    | some _ => some (.g (h * 256 + f.code + b8))
    | none =>
      if f.short then (if f.code < 0x7C then some (.g f.code) else some .badLatch)
      else if f.code < 0xF4 then some (.g f.code)
      else if f.code < 0xFC then none
      else if f.noLatch then none
      else some .badLatch
  | .data => if h ≠ 0 || (reg.isNone && decide (0xF4 ≤ f.code)) then none else some (.g f.code)
  | .uni =>
    match reg with
    | some _ => some (.g (h * 256 + f.code))
    | none =>
      if f.code < 0xFC then some (.g f.code) else if f.noLatch then none else some (.latch (f.code - 0xFC))

/-- B8 stands only on a B field of a lane-set word that holds a register (R56, R62, R66). -/
def b8Ok (reg : Option PfxReg) (b : Fld) : Bool :=
  match reg with
  | some p => !p.b8 || (b.short && b.kind != .none)
  | none => true

/-! ## The form of a word -/

/-- A word's form: its fields, the prefixes it accepts, whether its opcode is chain-eligible (R42), its set, NW and U, and
whether D is read as a source (R44). -/
structure Form where
  d : Fld
  a : Fld
  b : Fld
  accepts : Accepts
  chain : Bool
  uniSet : Bool
  u : Bool
  nw : Bool
deriving DecidableEq, Repr

/-- A resolved field: a register number in bounds, a latch, or a queue. -/
inductive Loc where
  | absent
  | v (n : Nat)
  | g (n : Nat)
  | latch (n : Nat)
  | queue (n : Nat)
deriving DecidableEq, Repr

/-- What the checks of R74 leave for the body of a word. -/
structure Operands where
  d : Loc
  a : Loc
  b : Loc
  ps : Prefixes
  /-- the chain the word is in, with the latches it may read; none where the word is not chain-eligible -/
  chain : Option Chain
  /-- the word reads a latch -/
  readsLatch : Bool
deriving DecidableEq, Repr

def Name.isLatch : Name → Bool
  | .latch _ => true
  | .badLatch => true
  | _ => false

def Name.isQueue : Name → Bool
  | .queue _ => true
  | _ => false

/-- A latch of the chain that is valid (R43). -/
def Chain.valid (c : Chain) (uniSet : Bool) (n : Nat) : Bool :=
  if uniSet then decide (n < c.uni.length) else decide (n < c.lane.length)

/-- The latch a name reads is valid (R43). -/
def Name.latchOk (c : Option Chain) (uniSet : Bool) : Name → Bool
  | .latch n =>
    match c with
    | some c => c.valid uniSet n
    | none => false
  | .badLatch => false
  | _ => true

/-- The effective number of a register, in bounds with its run, or nothing (R27, R28). -/
def effective (n : Nat) (off : Int) (span size : Nat) : Option Nat :=
  let e : Int := n + off
  if 0 ≤ e ∧ e + span ≤ size then some e.toNat else none

/-- The location of a name within the group's allocation (R27, R28). -/
def Name.loc (g : Group) (off : Int) (span : Nat) : Name → Option Loc
  | .absent => some .absent
  | .v n => (effective n off span g.vCount).map .v
  | .g n => (effective n off span g.gCount).map .g
  | .latch n => some (.latch n)
  | .badLatch => none
  | .queue n => some (.queue n)

/-- The offset REL adds at a position; nothing where IDX is out of bounds (R28, R66). -/
def relOffset (g : Group) (reg : Option PfxReg) (pos : Nat) : Option Int :=
  match reg with
  | none => some 0
  | some p =>
    if p.rel = 0 then some 0
    else if g.gCount ≤ p.idx.toNat then none
    else if p.rel.toNat = pos then some (g.greg p.idx.toNat).toInt else some 0

/-- The location of one field. -/
def fieldLoc (g : Group) (reg : Option PfxReg) (pos : Nat) (f : Fld) (nm : Name) : Option Loc :=
  (relOffset g reg pos).bind fun off => nm.loc g off f.span

/-- The chain a chain-eligible word issues in: a 65th word begins a new one (R45). -/
def Path.chainNow (p : Path) : Chain := if 64 ≤ p.chain.len then Chain.none else p.chain

/-- R73 for the word with its prefixes: the names of its three fields and its prefixes. -/
def Form.names (f : Form) (p : Path) : Option (Prefixes × Name × Name × Name) :=
  (gather p.pfx).bind fun ps =>
    if ps.accepted f.accepts && b8Ok ps.reg f.b then
      (f.d.name ps.reg 1).bind fun d => (f.a.name ps.reg 2).bind fun a => (f.b.name ps.reg 3).bind fun b =>
        some (ps, d, a, b)
    else none

/-- The word, with its prefixes and operands, is chain-eligible (R42). -/
def Form.eligible (f : Form) (ps : Prefixes) (d a : Name) : Bool :=
  f.chain && !f.u && !d.isQueue && !a.isQueue && ps.mem.isNone &&
    (match ps.reg with
     | some p => p.rel == 0
     | none => true)

/-- The checks of R74, 1 to 3. `ok` holds the checks of R67 on the immediate of the word's prefixes. -/
def Form.operands (f : Form) (g : Group) (p : Path) (ok : Prefixes → Bool := fun _ => true) : Except Stop Operands :=
  let m := p.lanes
  match f.names p with
  | none => .error (.trap .illegal m 0)
  | some (ps, d, a, b) =>
    let el := f.eligible ps d a
    if (f.nw && !el) || !ok ps then .error (.trap .illegal m 0)
    else
      let c := if el then some p.chainNow else none
      let reads := d.isLatch || a.isLatch || b.isLatch
      if !(d.latchOk c f.uniSet && a.latchOk c f.uniSet && b.latchOk c f.uniSet) then .error (.trap .illegalLatch m 0)
      else if reads && decide (8 ≤ (c.map (·.latchRun)).getD 0) then .error (.trap .illegalLatch m 0)
      else
        match fieldLoc g ps.reg 1 f.d d, fieldLoc g ps.reg 2 f.a a, fieldLoc g ps.reg 3 f.b b with
        | some dl, some al, some bl => .ok { d := dl, a := al, b := bl, ps := ps, chain := c, readsLatch := reads }
        | _, _, _ => .error (.trap .regBounds m 0)

/-! ## Sources -/

/-- The lane-set latch value of lane i. -/
def Operands.laneLatch (o : Operands) (n i : Nat) : Word :=
  match o.chain with
  | some c => ((c.lane[n]?).bind fun l => l.vals[i]?).getD 0
  | none => 0

/-- The uniform-set latch value. -/
def Operands.uniLatch (o : Operands) (n : Nat) : Word :=
  match o.chain with
  | some c => (c.uni[n]?).getD 0
  | none => 0

/-- Source value of lane i: a v register, a latch, a popped row, or a group register (R48, R57, R299). -/
def Operands.laneSrc (o : Operands) (g : Group) (row : Option Row) (l : Loc) (i : Nat) : Word :=
  match l with
  | .absent => 0
  | .v n => g.vreg n i
  | .g n => g.greg n
  | .latch n => o.laneLatch n i
  | .queue _ => (row.bind fun r => r.data[i]?).getD 0

/-- Source value of a uniform field (R62, R435). -/
def Operands.uniSrc (o : Operands) (g : Group) (l : Loc) : Word :=
  match l with
  | .g n => g.greg n
  | .latch n => o.uniLatch n
  | _ => 0

/-- Register number of a location. -/
def Loc.num : Loc → Nat
  | .v n => n
  | .g n => n
  | _ => 0

/-! ## Immediates and offsets (R67, R68) -/

/-- A signed immediate of n bits, extended by an IMM prefix (R67). -/
def signedImm (ps : Prefixes) (x n : Nat) : Int :=
  match ps.imm with
  | some v => sextNat (v.toNat * 2 ^ n + x) (22 + n)
  | none => sextNat x n

/-- The byte offset of a memory word beside its own immediate (R67, R68). -/
def pfxOffset (ps : Prefixes) : Int :=
  (match ps.imm with
   | some v => sextNat v.toNat 22
   | none => 0) +
  (match ps.mem with
   | some p => sextNat p.ofs.toNat 15
   | none => 0)

/-- Scope, cache policy and order of a memory word (R68). -/
def memScope (ps : Prefixes) : BitVec 3 := (ps.mem.map (·.scope)).getD 0
def memCache (ps : Prefixes) : BitVec 2 := (ps.mem.map (·.cache)).getD 0
def memOrder (ps : Prefixes) : BitVec 2 := (ps.mem.map (·.order)).getD 0

/-- Access size in bytes of a load or store (R60, R144). -/
def accessSize (mf : BitVec 4) : Nat :=
  match mf.toNat with
  | 0 | 1 => 1
  | 2 | 3 => 2
  | 4 => 4
  | 5 => 8
  | 6 => 16
  | _ => 32

/-- Registers of the data run of a load or store (R60). -/
def accessRegs (mf : BitVec 4) : Nat := (accessSize mf + 3) / 4

/-- Access size of an ATOM or RED (R144). -/
def atomSize (mf : BitVec 4) : Nat := if mf.toNat = 11 then 8 else 4

/-- Registers of the run of an ATOM or RED: two for CAS and ADD.i64 (R60). -/
def atomRegs (mf : BitVec 4) : Nat := if mf.toNat = 10 || mf.toNat = 11 then 2 else 1

/-! ## Queue operands of lane-set words (R48, R49) -/

/-- The queue register of a location. -/
def Loc.queue? : Loc → Option Nat
  | .queue n => some n
  | _ => none

/-- The queue conditions of a word that pops through A and pushes through D: QUEUE where a role is missing, a park where a row
or room is; else the row popped (R49). A poisoned row is popped as any other: a lane word raises no POISON for it, and the register it goes to
holds none (R279, R300; log 32). -/
def queueCheck (s : State) (g : Group) (m : Mask) (pop push : Option Nat) : Except Stop (Option Row) :=
  let popOk := match pop with
    | none => some true
    | some q => s.canPop g q
  let pushOk := match push with
    | none => some true
    | some q => (s.canPush g q).map fun r => r || pop == some q
  match popOk, pushOk with
  | some a, some b =>
    if a && b then
      match pop with
      | none => .ok none
      | some q =>
        match s.peekRow g q with
        | none => .error (.park (.queue pop push))
        | some r => .ok (some r)
    else .error (.park (.queue pop push))
  | _, _ => .error (.trap .queue m 0)

end Sys2Proof.Machine
end

