-- ==== Sys2Proof/Machine/Lane.lean ====
section
/-!
DEFINITION. The plain lane word (R299, R300) and the cross-lane word (R396) as shared operations: operands, the body in every
active lane, the destination register, row or latch, the chain, the energy class.
-/
namespace Sys2Proof.Machine

/-- Prefixes a plain lane word accepts (R300). -/
def regOnly : Accepts := ⟨true, false, false⟩
def regImm : Accepts := ⟨true, true, false⟩

/-- VR words. -/
def formR (o : LaneR) (acc : Accepts) : Form :=
  { d := .vd o.d 1, a := .a8 o.u o.a, b := .b7 o.u o.b, accepts := acc, chain := true, uniSet := false, u := o.u, nw := o.nw }

/-- VU and VI words: B holds no register. -/
def formA (u nw : Bool) (d a : BitVec 8) (acc : Accepts) : Form :=
  { d := .vd d 1, a := .a8 u a, b := .absent, accepts := acc, chain := true, uniSet := false, u := u, nw := nw }

/-- The chain after one of its words: the latches of the word's set take the result, and the count of latch reads goes on
(R43, R45). -/
def chainLane (c : Option Chain) (reads : Bool) (vals : List Word) (m : Mask) : Chain :=
  match c with
  | none => Chain.none
  | some c =>
    { c with len := c.len + 1, lane := (⟨vals, m⟩ :: c.lane).take 4, latchRun := if reads then c.latchRun + 1 else 0 }

def chainUni (c : Option Chain) (reads : Bool) (val : Word) : Chain :=
  match c with
  | none => Chain.none
  | some c => { c with len := c.len + 1, uni := (val :: c.uni).take 4, latchRun := if reads then c.latchRun + 1 else 0 }

/-- The row a word pushes: active lanes' results, zero elsewhere (R48). -/
def pushedRow (m : Mask) (vals : Nat → Word) : Row :=
  { data := lanesFrom fun i => if m.getLsbD i then vals i else 0, psn := (false, false) }

/-- Queue effects of a lane word: the pop, then the push (R48, R49). -/
def State.queueEffect (s : State) (g : Group) (m : Mask) (a d : Loc) (vals : Nat → Word) : State :=
  let s1 := match a with
    | .queue q => s.popRow g q
    | _ => s
  match d with
  | .queue q => s1.pushRow g q (pushedRow m vals)
  | _ => s1

/-- Result of a lane word: v[D] in the active lanes, a row, or only the latch (R44, R48, R299). -/
def State.laneResult (s : State) (g : Group) (slot : Bool) (p : Path) (o : Operands) (nw : Bool) (cls : Nat)
    (vals : Nat → Word) : State :=
  let s1 := s.queueEffect g p.mask o.a o.d vals
  let g1 := match o.d with
    | .v n => if nw then g else g.setLanes n (lanesOf p.mask) vals
    | _ => g
  s1.finishAt g1 slot p.nextPc (chainLane o.chain o.readsLatch (lanesFrom vals) p.mask) cls

/-- The group register that d reads under U = 1 is in bounds too (R27, R299). -/
def accInBounds (g : Group) (u acc : Bool) (d : Loc) : Bool := !(u && acc) || decide (d.num < g.gCount)

/-- The old value of D that an accumulating word reads: v[D] of the lane, or g[D] under U = 1 (R44, R299). -/
def accSrc (g : Group) (u : Bool) (d : Loc) (i : Nat) : Word := if u then g.greg d.num else g.vreg d.num i

/-- A plain lane word over its resolved operands: `body ps a b d` is the result of one lane (R299, R300). -/
def lanePlain (f : Form) (acc : Bool) (cls : Nat) (ok : Prefixes → Bool) (body : Prefixes → Word → Word → Word → Word)
    (s : State) : Out :=
  s.word fun g slot p => do
    let o ← f.operands g p ok
    trapIf (!accInBounds g f.u acc o.d) .regBounds p.lanes
    let row ← queueCheck s g p.lanes o.a.queue? o.d.queue?
    let vals := fun i => body o.ps (o.laneSrc g row o.a i) (o.laneSrc g row o.b i) (if acc then accSrc g f.u o.d i else 0)
    .ok (s.laneResult g slot p o f.nw (if f.u then 0 else cls) vals)

/-- No check on an immediate. -/
def anyImm : Prefixes → Bool := fun _ => true

/-- A VR word of two sources. -/
def lane2 (o : LaneR) (cls : Nat) (f : Word → Word → Word) : State → Out :=
  lanePlain (formR o regOnly) false cls anyImm fun _ a b _ => f a b

/-- An accumulating VR word (IMAD, SEL, FFMA, BFMA2, BDOT2). -/
def lane3 (o : LaneR) (cls : Nat) (f : Word → Word → Word → Word) : State → Out :=
  lanePlain (formR o regOnly) true cls anyImm fun _ a b d => f a b d

/-- A unary VU word. -/
def lane1 (o : LaneU) (cls : Nat) (f : Word → Word) : State → Out :=
  lanePlain (formA o.u o.nw o.d o.a regOnly) false cls anyImm fun _ a _ _ => f a

/-- An immediate shift. -/
def laneShift (o : LaneS) (f : Word → Nat → Word) : State → Out :=
  lanePlain (formA o.u o.nw o.d o.a regOnly) false 1 anyImm fun _ a _ _ => f a o.s.toNat

/-! ## Cross-lane words (R396) -/

/-- Source value of lane k for a cross-lane word: absent lanes give 0, and a latch lane that was not active when the latch was
written is UNSPECIFIED (R396, log 7). -/
def crossSrc (s : State) (g : Group) (o : Operands) (row : Option Row) (k : Nat) : Word :=
  if !g.present k then 0
  else
    match o.a with
    | .latch n =>
      match o.chain.bind fun c => c.lane[n]? with
      | some l => if l.mask.getLsbD k then (l.vals[k]?).getD 0 else (s.taking g.ctx).word k
      | none => 0
    | _ => o.laneSrc g row o.a k

/-- A cross-lane word: `body src b i` is the result of lane i (R396, R407, R408). -/
def laneCross (f : Form) (cls : Nat) (body : (Nat → Word) → Word → Nat → Word) (s : State) : Out :=
  s.word fun g slot p => do
    let o ← f.operands g p
    let row ← queueCheck s g p.lanes o.a.queue? o.d.queue?
    let src := crossSrc s g o row
    let vals := fun i => body src (o.laneSrc g row o.b i) i
    .ok ((s.took g.ctx).laneResult g slot p o f.nw cls vals)

end Sys2Proof.Machine
end

