-- ==== Sys2Proof/Machine/Control.lean ====
section
/-!
DEFINITION. Branches, joins, traps and the words without an effect of their own: BRA, BRZ, BRNZ, BRD, JSET, CALL, JMP, RET,
JMPV, RETV, NOP, YIELD, TRAP, ERET and the prefix words (R31 to R34, R65, R271, R328 to R333, R365 to R367, R385, R402, R403,
R423, R463); the events REACH_JOIN, ICACHE_FILL, QUEUE_WAKE, ISSUE_PROMOTION and YIELD_HOLD_END.
-/
namespace Sys2Proof.Machine

def noPfx : Accepts := ⟨false, false, false⟩
def immOnly : Accepts := ⟨false, true, false⟩

/-- A uniform word outside R435: not chain-eligible. -/
def formCtl (d a b : Fld) (acc : Accepts) : Form :=
  { d := d, a := a, b := b, accepts := acc, chain := false, uniSet := true, u := false, nw := false }

/-- A branch target, or nothing outside 0 to 2^32 − 4 (R31). -/
def target? (base off : Int) : Option Word :=
  let t := base + 4 * off
  if 0 ≤ t ∧ t ≤ 4294967292 then some (BitVec.ofNat 32 t.toNat) else none

/-- The target of a word-relative branch (R53). -/
def Path.branch (p : Path) (off : Int) : Option Word := target? p.wordPc.toNat off

/-- The whole path moves to a target (R31). -/
def State.moveTo (s : State) (g : Group) (slot : Bool) (pc : Word) : State := s.finishAt g slot pc Chain.none 12

/-- The branch to a target, ADDRESS where it has none. -/
def State.branchTo (s : State) (g : Group) (slot : Bool) (p : Path) (t : Option Word) : Except Stop State :=
  match t with
  | some pc => .ok (s.moveTo g slot pc)
  | none => .error (.trap .address p.lanes 0)

/-- BRA (R328). -/
def execBra (off : BitVec 24) (s : State) : Out :=
  s.word fun g slot p => do
    let r ← (formCtl .absent .absent .absent immOnly).operands g p
    s.branchTo g slot p (p.branch (signedImm r.ps off.toNat 24))

/-- BRZ and BRNZ: a taken branch checks its target (R332). -/
def branchIf (cond : Word → Bool) (o : UniJ) (s : State) : Out :=
  s.word fun g slot p => do
    let r ← (formCtl (.us o.r) .absent .absent regImm).operands g p
    if cond (g.greg r.d.num) then s.branchTo g slot p (p.branch (signedImm r.ps o.off.toNat 16))
    else .ok (s.moveTo g slot p.nextPc)

/-- BRZ (R332). -/
def execBrz (o : UniJ) : State → Out := branchIf (fun x => x == 0) o

/-- BRNZ (R332). -/
def execBrnz (o : UniJ) : State → Out := branchIf (fun x => x != 0) o

/-- A new path beside one that keeps its slot: in the other slot where it is empty, else a PATH entry (R33, R34). -/
def Group.addPath (g : Group) (slot : Bool) (pc : Word) (m : Mask) (join : Option Nat) (now : Nat) : Group :=
  if (g.path (!slot)).isNone then g.setPath (!slot) (some (Path.start pc m join now)) else g.push (pathEntry pc m join)

/-- BRD (R330). -/
def execBrd (o : UniJ) (s : State) : Out :=
  s.word fun g slot p => do
    let r ← (formCtl (.us o.r) .absent .absent regImm).operands g p
    let t := p.mask &&& g.greg r.d.num
    if t = 0 then .ok (s.moveTo g slot p.nextPc)
    else
      match p.branch (signedImm r.ps o.off.toNat 16) with
      | none => .error (.trap .address p.lanes 0)
      | some pc =>
        if t = p.mask then .ok (s.moveTo g slot pc)
        else do
          trapIf ((g.path (!slot)).isSome && g.sp == g.stackCap) .divstack p.lanes
          let g1 := g.modPath slot fun q => { q with mask := p.mask ^^^ t }
          .ok (s.stackSeen g false (s.moveTo (g1.addPath slot pc t p.join s.ticks) slot p.nextPc))

/-- The offset of JSET is not 0, counting an IMM prefix (R367). -/
def jsetOk (off : BitVec 24) (ps : Prefixes) : Bool := signedImm ps off.toNat 24 != 0

/-- JSET (R32, R367). -/
def execJset (off : BitVec 24) (s : State) : Out :=
  s.word fun g slot p => do
    let r ← (formCtl .absent .absent .absent immOnly).operands g p (jsetOk off)
    match p.branch (signedImm r.ps off.toNat 24) with
    | none => .error (.trap .address p.lanes 0)
    | some pc => do
      trapIf (g.sp == g.stackCap) .divstack p.lanes
      let g1 := (g.push (joinEntry pc p.mask p.join)).modPath slot fun q => { q with join := some g.sp }
      .ok (s.stackSeen g false (s.moveTo g1 slot p.nextPc))

/-- CALL: the link is the offset of the word after it (R333). -/
def execCall (o : UniL) (s : State) : Out :=
  s.word fun g slot p => do
    let r ← (formCtl (.ud o.d 1) .absent .absent regImm).operands g p
    s.branchTo (g.setG r.d.num p.nextPc) slot p (p.branch (signedImm r.ps o.imm.toNat 16))

/-- JMP: g[R] + 4 × off, ADDRESS where it is out of range or not a multiple of 4 (R365). -/
def execJmp (o : UniJ) (s : State) : Out :=
  s.word fun g slot p => do
    let r ← (formCtl (.us o.r) .absent .absent regImm).operands g p
    let base := g.greg r.d.num
    let t := if base.toNat % 4 = 0 then target? base.toNat (signedImm r.ps o.off.toNat 16) else none
    s.branchTo g slot p t

/-- RET (R402). -/
def execRet (r : BitVec 8) (s : State) : Out :=
  s.word fun g slot p => do
    let o ← (formCtl (.us r) .absent .absent regOnly).operands g p
    let t := g.greg o.d.num
    trapIf (t == 0) .nullReturn p.lanes
    trapIf (t.toNat % 4 != 0) .address p.lanes
    .ok (s.moveTo g slot t)

/-- The form of JMPV and RETV: a vector field in D (R366). -/
def formV (r : BitVec 8) : Form := formCtl ⟨.vec, r.toNat, false, true, 1⟩ .absent .absent regOnly

/-- Distinct per-lane targets, ascending (R34). -/
def targetsOf (m : Mask) (t : Nat → Word) : List Word :=
  sortBy (fun w => [w.toNat]) (dedup ((lanesOf m).map t))

/-- Lanes of a mask with a target. -/
def lanesAt (m : Mask) (t : Nat → Word) (w : Word) : Mask := maskOf ((lanesOf m).filter fun i => t i == w)

/-- PATH entries pushed for the remaining targets, ascending (R34). -/
def Group.pushPaths (g : Group) (m : Mask) (t : Nat → Word) (join : Option Nat) : List Word → Group
  | [] => g
  | w :: ws => (g.push (pathEntry w (lanesAt m t w) join)).pushPaths m t join ws

/-- JMPV from its MISALIGNED check on (R366). -/
def State.jumpLanes (s : State) (g : Group) (slot : Bool) (p : Path) (t : Nat → Word) : Except Stop State := do
  let bad := maskOf ((lanesOf p.mask).filter fun i => (t i).toNat % 4 != 0)
  trapIf (bad != 0) .misaligned bad
  match targetsOf p.mask t with
  | [] => .ok (s.moveTo g slot p.nextPc)
  | t1 :: rest =>
    let free := (g.path (!slot)).isNone && !rest.isEmpty
    let pushes := if free then rest.length - 1 else rest.length
    trapIf (decide (g.stackCap < g.sp + pushes)) .divstack p.lanes
    let g1 := g.modPath slot fun q => { q with mask := lanesAt p.mask t t1 }
    let g2 := match free, rest with
      | true, t2 :: more =>
        (g1.setPath (!slot) (some (Path.start t2 (lanesAt p.mask t t2) p.join s.ticks))).pushPaths p.mask t p.join more
      | _, more => g1.pushPaths p.mask t p.join more
    .ok (s.stackSeen g false (s.moveTo g2 slot t1))

/-- JMPV (R366). -/
def execJmpv (r : BitVec 8) (s : State) : Out :=
  s.word fun g slot p => do
    let o ← (formV r).operands g p
    s.jumpLanes g slot p fun i => g.vreg o.d.num i

/-- RETV: NULL_RETURN first (R403). -/
def execRetv (r : BitVec 8) (s : State) : Out :=
  s.word fun g slot p => do
    let o ← (formV r).operands g p
    let bad := maskOf ((lanesOf p.mask).filter fun i => g.vreg o.d.num i == 0)
    trapIf (bad != 0) .nullReturn bad
    s.jumpLanes g slot p fun i => g.vreg o.d.num i

/-- NOP (R385). -/
def execNop (s : State) : Out :=
  s.word fun g slot p => do
    let _ ← (formCtl .absent .absent .absent noPfx).operands g p
    .ok (s.finish g slot 12)

/-- YIELD: the next word is not eligible for 16 cycles of its core (R463). -/
def execYield (s : State) : Out :=
  s.word fun g slot p => do
    let _ ← (formCtl .absent .absent .absent noPfx).operands g p
    let t := s.ticks + 16 * s.cycle g.cluster
    let s1 := s.finish g slot 12
    .ok (s1.modGroup g.id fun g => g.modPath slot fun q => { q with holdUntil := t, readyAt := t })

/-- TRAP #c: TRAP_INSN with INFO c and TRAP.PC after the word; class 12 is charged at delivery (R269, R423). -/
def execTrap (c : BitVec 8) (s : State) : Out :=
  match s.here with
  | none => .fault .noPath
  | some (g, slot, p) =>
    match (formCtl .absent .absent .absent noPfx).operands g p with
    | .error e => s.settle g.id slot (.error e)
    | .ok _ =>
      let vec := ((s.ctx? g.ctx).map (·.trapVec)).getD 0
      let s1 := if g.trap.handler || vec == 0 then s else s.charge g.ctx 12 1
      .next (s1.takeTrap g.id slot { cause := .trapInsn, info := c, mask := p.lanes, addr := 0, pc := p.nextPc })

/-- ERET (R271). -/
def execEret (s : State) : Out :=
  s.word fun g slot p => do
    let _ ← (formCtl .absent .absent .absent noPfx).operands g p
    .ok (s.returnTrap g slot p)

/-! ## Prefix words (R65): each stands before its word until that word issues -/

/-- A prefix joins those issued before the path's next word (R65, R72). -/
def State.addPfx (s : State) (x : Pfx) : Out :=
  match s.here with
  | none => .fault .noPath
  | some (g, slot, _) => .next (s.setGroup (g.modPath slot fun q => { q with pfx := q.pfx ++ [x], promoted := false }))

/-- PFX of kind REG (R66). -/
def execPfxReg (p : PfxReg) (s : State) : Out := s.addPfx (.reg p)

/-- PFX of kind IMM (R67). -/
def execPfxImm (v : BitVec 22) (s : State) : Out := s.addPfx (.imm v)

/-- PFX of kind MEM (R68). -/
def execPfxMem (p : PfxMem) (s : State) : Out := s.addPfx (.mem p)

/-! ## Events of paths -/

/-- An event that names a path in a state that allows it; none where it does not. -/
def State.pathEvent (s : State) (gid : Nat) (slot : Bool) (ok : Group → Path → Bool) (f : Group → Path → State) : Option State :=
  match s.group? gid with
  | none => none
  | some g =>
    match g.path slot with
    | none => none
    | some p => if ok g p then some (f g p) else none

/-- REACH_JOIN (R36, R38, R39, R41); POISON where an entry it needs is poisoned (R35). -/
def onReachJoin (gid : Nat) (slot : Bool) (s : State) : Option State :=
  s.pathEvent gid slot (fun g p => g.atJoin p && !s.inChain g p && p.wait == .ready) fun g p =>
    if g.reachPsn slot s.ticks then s.trapPath gid slot .poison p.mask 0
    else s.stackSeen g false ((s.setGroup (g.reachJoin slot s.ticks)).unstick gid)

/-- REACH_JOIN; nothing happens where it cannot occur (log 48). -/
def execReachJoin (gid : Nat) (slot : Bool) (s : State) : Out := s.occurs (onReachJoin gid slot s)

/-- ICACHE_FILL (R30): the path is eligible again from now on (R50). -/
def onIcacheFill (gid : Nat) (slot : Bool) (s : State) : Option State :=
  s.pathEvent gid slot (fun _ p => p.wait == .icache) fun _ _ => s.wakePath gid slot

/-- ICACHE_FILL; nothing happens where it cannot occur (log 48). -/
def execIcacheFill (gid : Nat) (slot : Bool) (s : State) : Out := s.occurs (onIcacheFill gid slot s)

/-- QUEUE_WAKE (R49, R51, R390). -/
def onQueueWake (gid : Nat) (slot : Bool) (s : State) : Option State :=
  s.pathEvent gid slot
    (fun g p =>
      match p.wait with
      | .queue pop push => s.queueReady g pop push
      | _ => false)
    fun _ _ => s.wakePath gid slot

/-- QUEUE_WAKE; nothing happens where it cannot occur (log 48). -/
def execQueueWake (gid : Nat) (slot : Bool) (s : State) : Out := s.occurs (onQueueWake gid slot s)

/-- YIELD_HOLD_END: the hold is over; the word's fresh ready time is the tick at which it ended (R463). -/
def onYieldHoldEnd (gid : Nat) (slot : Bool) (s : State) : Option State :=
  s.pathEvent gid slot (fun _ p => decide (0 < p.holdUntil) && decide (p.holdUntil ≤ s.ticks)) fun _ _ =>
    s.modGroup gid fun g => g.modPath slot fun p => { p with holdUntil := 0, readyAt := max p.readyAt p.holdUntil }

/-- YIELD_HOLD_END; nothing happens where it cannot occur (log 48). -/
def execYieldHoldEnd (gid : Nat) (slot : Bool) (s : State) : Out := s.occurs (onYieldHoldEnd gid slot s)

end Sys2Proof.Machine
end

