-- ==== Sys2Proof/Machine/Mem.lean ====
section
/-!
DEFINITION. The global memory words LD, ST, ATOM, RED, ULD, UST and UATOM (R309, R311, R368, R369, R398, R399, R413, R414,
R439, R440, R445, R454), FENCE and the release of an ordered word (R195 to R198).
-/
namespace Sys2Proof.Machine

/-! ## Release (R196 to R198) -/

/-- A write-like access of the group, issued before an identifier was given, has no visibility time yet (R196, R197): a store, reduction, atomic
or append on its way, or a deposit that has not acted at its home. -/
def State.writesOut (s : State) (gid upTo : Nat) : Bool :=
  (s.flights.any fun f => f.grp == gid && f.kind != .load && decide (f.id < upTo)) ||
    s.tupleReqs.any fun r => r.grp == gid && r.kind == .dep && (r.stage == .releasing || r.stage == .travelling || r.stage == .parked) &&
      decide (r.id < upTo)

/-- The conditions of a release at a scope hold (R197): the guard is 2 ns. -/
def State.settled (s : State) (g : Group) (scope : BitVec 3) (upTo : Nat) : Bool :=
  !s.writesOut g.id upTo && decide ((g.horizons[scope.toNat]?).getD 0 + 2 ≤ s.now)

/-- A release that is issued now has nothing to wait for, and no write of the group has been lost to a port (R197, R283). -/
def State.released (s : State) (g : Group) (scope : BitVec 3) : Bool := s.settled g scope s.nextId && g.lost.isNone

/-- SCOPE.MAX of the group's function (R195). -/
def State.scopeMax (s : State) (g : Group) : Nat := ((s.vf? g.vf).map (·.scopeMax)).getD 5

/-- The scope of a word exceeds SCOPE.MAX (R195). -/
def scopeCheck (s : State) (g : Group) (p : Path) (scope : BitVec 3) : Except Stop Unit :=
  trapIf (decide (s.scopeMax g < scope.toNat)) .scopeDenied p.lanes

/-- A word that releases waits before it takes effect, unless its release has been performed (R198, R201, R187, R228). -/
def releaseFirst (s : State) (g : Group) (p : Path) (scope : BitVec 3) : Except Stop Unit :=
  if p.released || s.released g scope then .ok () else .error (.park (.release scope))

/-! ## A memory word's accesses -/

/-- What a memory word does: kind, MF, size, address register, the lanes that access with their offsets and data, whether one
access stands for all lanes, where an answer goes, and its energy class. -/
structure MemWord where
  kind : ReqKind
  mf : Nat
  size : Nat
  ar : AddrReg
  single : Bool
  off : Nat → Int
  data : Nat → List Byte
  cmp : Nat → Nat
  dst : Dst
  cls : Nat

def ReqKind.access : ReqKind → Access
  | .load => .load
  | .store => .store
  | .red => .reduction
  | .atom => .atomic

/-- Lanes that form an address: one stands for all where the word makes a single access. -/
def MemWord.lanes (w : MemWord) (p : Path) : List Nat := if w.single then [0] else lanesOf p.lanes

/-- A lane performs its access: a helper lane only loads (R25). -/
def MemWord.performs (w : MemWord) (g : Group) (p : Path) (i : Nat) : Bool :=
  w.kind == .load || (if w.single then p.lanes &&& ~~~g.helper != 0 else !g.helper.getLsbD i)

/-- A tile that is not resident forces a fetch for this access (R163). -/
def MemWord.fetches (w : MemWord) (e : TlbEntry) : Bool :=
  match w.kind with
  | .load => e.rp
  | .atom => true
  | _ => e.wp

/-- The access of a lane whose translation found plain memory or a tile that serves it. -/
def MemWord.acc (w : MemWord) (l : LaneX) : Option Acc :=
  let mk := fun (key : Nat) (tile : Option TlbEntry) =>
    ({ lane := l.lane, va := l.va, key := key, tile := tile, data := w.data l.lane, cmp := w.cmp l.lane, done := false,
       result := [], psn := none } : Acc)
  match l.x with
  | .mem key => some (mk key none)
  | .tile e r => if w.fetches e then none else some (mk r (some e))
  | _ => none

/-- Lanes as a mask: every active lane for a single access (R215). -/
def MemWord.maskFor (w : MemWord) (p : Path) (ls : List LaneX) : Mask :=
  if ls.isEmpty then 0 else if w.single then p.lanes else maskOf (ls.map fun l => l.lane)

/-- A fetch begun for every page of a list (R163). -/
def State.startFetches (s : State) (cid : Nat) : List TlbEntry → State × List Nat
  | [] => (s, [])
  | e :: es =>
    let (s1, i) := s.startFetch cid e
    let (s2, is) := s1.startFetches cid es
    (s2, dedup (i :: is))

/-- The requests of a path that wait on fetches have reached the tiles' homes (R171). -/
def State.noteFetches (s : State) (gid : Nat) (slot : Bool) (es : List (TlbEntry × Nat)) : State :=
  es.foldl (fun s x => s.noteFetch gid slot x.1 x.2) s

def LaneX.isPage (l : LaneX) : Bool :=
  match l.x with
  | .page _ => true
  | _ => false

def LaneX.level (l : LaneX) : Nat :=
  match l.x with
  | .page n => n
  | _ => 0

/-- The page whose fetch the lane forces. -/
def MemWord.fetchOf (w : MemWord) (l : LaneX) : Option TlbEntry :=
  match l.x with
  | .tile e _ => if w.fetches e then some e else none
  | _ => none

/-- An atomic or reduction is performed in the cluster cache (R199, R200). -/
def MemWord.isLocal (w : MemWord) (s : State) (g : Group) (ps : Prefixes) : Bool :=
  (w.kind == .atom || w.kind == .red) && decide ((memScope ps).toNat ≤ 3) && memCache ps != 2 && s.hasCache g.cluster

/-- An earlier write of the path to bytes that this one writes on the line is still on its way, so this one waits (R193); to different bytes a path's
accesses are performed in any order (R194). -/
def State.behind (s : State) (f : Flight) (line : Nat) : Bool :=
  s.flights.any fun x => x.grp == f.grp && x.slot == f.slot && decide (x.id < f.id) && x.kind != .load &&
    (f.on line).any fun a => (x.on line).any fun b => runsMeet a.key f.size b.key x.size

/-- A flight sets out: accesses of a load that have been performed before, its hits, and the ready lines of a local atomic or reduction, are performed at once. -/
def State.depart (s : State) (f : Flight) : State :=
  let (s0, f0) := if f.kind == .load then s.serveEarly f else (s, f)
  let s := s0.dropEarly f
  let (s1, f1) := match f0.kind with
    | .load => s.serveHits f0
    | .store => (s, f)
    | _ => if f.local_ then s.performReady f (f.lines.filter fun l => !s.behind f l) else (s, f)
  { s1 with flights := s1.flights ++ [f1] }

/-- A flight whose every access has its visibility time already leaves nothing to acknowledge. -/
def State.dropDone (s : State) (id : Nat) : State :=
  { s with flights := s.flights.filter fun f => !(f.id == id && !f.blocking && f.local_ && f.accs.all fun a => a.done) }

/-- A memory word after its operand checks (R144, R145, R163, R190 to R200, R208, R215). What the walks of a word that traps have done and are
charged stands (R263, R297); what the path has loaded before a release is dropped (R197). -/
def State.memory (s : State) (g : Group) (slot : Bool) (p : Path) (ps : Prefixes) (w : MemWord) : Except Stop State := do
  scopeCheck s g p (memScope ps)
  trapIf (!w.ar.valid) .address p.lanes
  let rel := (memOrder ps).getLsbD 1
  if rel then releaseFirst s g p (memScope ps)
  let s0 := if rel then s.setGroup (g.modPath slot Path.forget) else s
  let (s1, ls) := (s0.mature.dropReplays g.id slot).reachLanes g w.kind.access w.ar w.size w.off (w.lanes p)
  match laneTrap ls with
  | some (.trap c m a) => .ok (s1.trapPath g.id slot c (if w.single then p.lanes else m) a)
  | some (.park k) => .error (.park k)
  | none =>
    let live := ls.filter fun l => w.performs g p l.lane
    let pages := ls.filter LaneX.isPage
    let forced := live.filter fun l => (w.fetchOf l).isSome
    let accs := live.filterMap w.acc
    let (s2, fs) := s1.startFetches g.ctx (forced.filterMap w.fetchOf)
    let (i, s3) := (s2.noteFetches g.id slot (forced.filterMap fun l => (w.fetchOf l).map fun e => (e, l.va))).newId
    let block := w.kind == .load || w.kind == .atom || !pages.isEmpty || !forced.isEmpty || accs.any fun a => a.tile.isSome
    let f : Flight :=
      { id := i, grp := g.id, slot := slot, cluster := g.cluster, ctx := g.ctx, kind := w.kind, mf := w.mf, size := w.size,
        cache := memCache ps, local_ := w.isLocal s g ps, accs := accs, lanes := p.lanes, one := w.single, dst := w.dst, pageLanes := w.maskFor p pages,
        pageLevel := (pages.head?.map LaneX.level).getD 0, pageVa := (pages.head?.map (·.va)).getD 0,
        fetchLanes := w.maskFor p forced, fetches := fs, visMod := 0, visOut := 0, cls := w.cls, blocking := block,
        acq := (memOrder ps).getLsbD 0, posted := s.ticks }
    if accs.isEmpty then .ok (s3.endWord f)
    else
      let s4 := s3.depart f
      if block then .ok (s4.modGroup g.id fun g => g.modPath slot fun q => { q with wait := .memory i, chain := Chain.none })
      else .ok ((s4.dropDone i).endWord f)

/-! ## Lane forms (R309, R368, R398, R413) -/

def allPfx : Accepts := ⟨true, true, true⟩

def formVM (d : Fld) (u : Bool) (a : BitVec 8) : Form :=
  { d := d, a := .a8 u a, b := .absent, accepts := allPfx, chain := false, uniSet := false, u := u, nw := false }

/-- Low bytes of a run of v registers of a lane, or of g registers. -/
def runBytes (g : Group) (d : Loc) (regs size i : Nat) : List Byte :=
  let ws := match d with
    | .v n => (List.range regs).map fun k => g.vreg (n + k) i
    | .g n => g.gregs n regs
    | _ => []
  (wordBytes ws).take size

/-- Byte offset of a lane: its offset register and the prefixes' (R143). -/
def laneOffset (o : Operands) (g : Group) (i : Nat) : Int := (o.laneSrc g none o.a i).toNat + pfxOffset o.ps

def laneClass (u : Bool) (cls : Nat) : Nat := if u then 0 else cls

/-- LD (R369). -/
def execLd (o : LaneVM) (s : State) : Out :=
  s.word fun g slot p => do
    let r ← (formVM (.vd o.d (accessRegs o.mf)) o.u o.a).operands g p
    s.memory g slot p r.ps
      { kind := .load, mf := o.mf.toNat, size := accessSize o.mf, ar := g.addr o.ar.toNat, single := o.u,
        off := laneOffset r g, data := fun _ => [], cmp := fun _ => 0,
        dst := if o.u then .bcast r.d.num p.lanes else .lanes r.d.num, cls := laneClass o.u 1 }

/-- ST (R414). -/
def execSt (o : LaneVM) (s : State) : Out :=
  s.word fun g slot p => do
    let d := if o.u then Fld.gx o.d (accessRegs o.mf) else Fld.vd o.d (accessRegs o.mf)
    let r ← (formVM d o.u o.a).operands g p
    s.memory g slot p r.ps
      { kind := .store, mf := o.mf.toNat, size := accessSize o.mf, ar := g.addr o.ar.toNat, single := o.u,
        off := laneOffset r g, data := runBytes g r.d (accessRegs o.mf) (accessSize o.mf), cmp := fun _ => 0,
        dst := .nowhere, cls := laneClass o.u 1 }

/-- Operand of an atomic, from its data run: the second register of CAS is stored, the first compared (R310). -/
def atomData (mf : BitVec 4) (bs : List Byte) : List Byte := if mf.toNat = 10 then bs.drop 4 else bs
def atomCmp (mf : BitVec 4) (bs : List Byte) : Nat := if mf.toNat = 10 then leNat (bs.take 4) else 0

/-- Where the data of an ATOM stand: v[D] onward, or g[D] onward under U = 1 (R309). -/
def atomSource (u : Bool) (d : Loc) : Loc := if u then .g d.num else d

/-- ATOM (R309, R311). With U = 1 the old value goes to every active lane (R57) but a helper lane, whose v[D] an ATOM leaves unchanged (R25, R311;
DEDUCED, log 88). -/
def execAtom (o : LaneVM) (s : State) : Out :=
  s.word fun g slot p => do
    let n := atomRegs o.mf
    let r ← (formVM (.vd o.d n) o.u o.a).operands g p
    trapIf (o.u && decide (g.gCount < r.d.num + n)) .regBounds p.lanes
    let bs := runBytes g (atomSource o.u r.d) n (4 * n)
    s.memory g slot p r.ps
      { kind := .atom, mf := o.mf.toNat, size := atomSize o.mf, ar := g.addr o.ar.toNat, single := o.u,
        off := laneOffset r g, data := fun i => atomData o.mf (bs i), cmp := fun i => atomCmp o.mf (bs i),
        dst := if o.u then .bcast r.d.num (p.lanes &&& ~~~g.helper) else .lanes r.d.num, cls := laneClass o.u 1 }

/-- RED (R399). -/
def execRed (o : LaneVM) (s : State) : Out :=
  s.word fun g slot p => do
    let n := atomRegs o.mf
    let d := if o.u then Fld.gx o.d n else Fld.vd o.d n
    let r ← (formVM d o.u o.a).operands g p
    s.memory g slot p r.ps
      { kind := .red, mf := o.mf.toNat, size := atomSize o.mf, ar := g.addr o.ar.toNat, single := o.u,
        off := laneOffset r g, data := runBytes g r.d n (4 * n), cmp := fun _ => 0,
        dst := .nowhere, cls := laneClass o.u 1 }

/-! ## Uniform forms (R439) -/

/-- A uniform memory word: D alone is a register. -/
def formUM (d : BitVec 8) (span : Nat) : Form := formCtl (.ud d span) .absent .absent allPfx

/-- Offset of a UM word: the signed imm9 scaled by the access size, and the prefixes' (R68, R439). -/
def uniOffset (o : UniM) (size : Nat) (ps : Prefixes) : Int := sextNat o.imm.toNat 9 * size + pfxOffset ps

/-- ULD (R445). -/
def execUld (o : UniM) (s : State) : Out :=
  s.word fun g slot p => do
    let r ← (formUM o.d (accessRegs o.mf)).operands g p
    s.memory g slot p r.ps
      { kind := .load, mf := o.mf.toNat, size := accessSize o.mf, ar := g.addr o.ar.toNat, single := true,
        off := fun _ => uniOffset o (accessSize o.mf) r.ps, data := fun _ => [], cmp := fun _ => 0,
        dst := .uni r.d.num, cls := 0 }

/-- UST (R454). -/
def execUst (o : UniM) (s : State) : Out :=
  s.word fun g slot p => do
    let r ← (formUM o.d (accessRegs o.mf)).operands g p
    s.memory g slot p r.ps
      { kind := .store, mf := o.mf.toNat, size := accessSize o.mf, ar := g.addr o.ar.toNat, single := true,
        off := fun _ => uniOffset o (accessSize o.mf) r.ps,
        data := runBytes g r.d (accessRegs o.mf) (accessSize o.mf), cmp := fun _ => 0, dst := .nowhere, cls := 0 }

/-- UATOM (R440). -/
def execUatom (o : UniM) (s : State) : Out :=
  s.word fun g slot p => do
    let n := atomRegs o.mf
    let r ← (formUM o.d n).operands g p
    let bs := runBytes g r.d n (4 * n) 0
    s.memory g slot p r.ps
      { kind := .atom, mf := o.mf.toNat, size := atomSize o.mf, ar := g.addr o.ar.toNat, single := true,
        off := fun _ => uniOffset o (atomSize o.mf) r.ps, data := fun _ => atomData o.mf bs, cmp := fun _ => atomCmp o.mf bs,
        dst := .uni r.d.num, cls := 0 }

/-! ## FENCE (R197) -/

/-- FENCE: REL and FULL wait; at the acquire part the path's loads have returned, since its next word waits for them. What the path has loaded
before its words is dropped at either part: a release holds the words behind it until it is complete (log 3). -/
def execFence (o : UniFence) (s : State) : Out :=
  s.word fun g slot p => do
    let _ ← (formCtl .absent .absent .absent noPfx).operands g p
    scopeCheck s g p o.scope
    if o.kind == 2 || s.released g o.scope then .ok (s.finish (g.modPath slot Path.forget) slot 12)
    else .ok (s.setGroup (g.modPath slot fun q => { q with wait := .fence o.scope, chain := Chain.none, upTo := s.nextId }))

end Sys2Proof.Machine
end

