-- ==== Sys2Proof/Machine/MemEvents.lean ====
section
/-!
DEFINITION. The events of the memory side: MEMORY_RESPONSE, HOME_LOAD_REQUEST, HOME_WRITE_ARRIVAL, OWNED_LINE_REQUEST,
UPDATE_ONLY_REQUEST, WRITE_ACK, WRITE_VISIBLE, FENCE_RELEASE (R190 to R200, R369), SCOPE_MAX_SET and LEASE_LENGTH_SET
(R189, R195).
-/
namespace Sys2Proof.Machine

def State.flight? (s : State) (id : Nat) : Option Flight := s.flights.find? fun f => f.id == id

/-- Every access of a flight has been performed, or has its visibility time. -/
def Flight.finished (f : Flight) : Bool := f.accs.all fun a => a.done

/-- A flight may answer: a load whose accesses are performed, an atomic whose writes are visible (R199, R311). -/
def State.canRespond (s : State) (f : Flight) : Bool :=
  f.finished && (f.kind == .load || (f.kind == .atom && decide (max f.visMod f.visOut ≤ s.now)))

/-- The visibility times of a flight raise its group's horizons (R196). -/
def State.raiseFor (s : State) (f : Flight) : State :=
  (s.raiseHorizons f.grp f.visMod true).raiseHorizons f.grp f.visOut false

/-- MEMORY_RESPONSE (R369, R311, R313). An answer that raises POISON waits while the sibling is in a chain (R46). -/
def onMemoryResponse (id : Nat) (s : State) : Option State :=
  match s.flight? id with
  | none => none
  | some f =>
    let held := (f.accs.any fun a => a.psn.isSome) && (((s.group? f.grp).map fun g => s.chainHolds g f.slot).getD false)
    if s.canRespond f && !held then some (((s.raiseFor f).respond f).wakeMopf f.grp) else none

/-- MEMORY_RESPONSE; nothing happens where it cannot occur (log 48). -/
def execMemoryResponse (id : Nat) (s : State) : Out := s.occurs (onMemoryResponse id s)

/-- A load's accesses to a line may be served: none waits for the path's own reduction or append (R193), and without the time master none goes to a
peer that can be reached (R291, R292). -/
def State.canLoad (s : State) (f : Flight) (line : Nat) : Bool :=
  f.kind == .load && !(f.on line).isEmpty &&
    !((f.on line).any fun a => s.ownRed f.grp f.slot a.key f.size || s.ownRed f.grp f.slot (s.readKey a) f.size ||
      (a.tile.map fun e => s.ownAppend f.grp f.slot e a.va f.size).getD false) &&
    !((f.on line).any fun a => (a.tile.map fun e => s.masterHolds (s.tileBase e a.va)).getD false)

/-- The peer page whose translation a load of the line lacks (R214). -/
def State.peerMiss (s : State) (f : Flight) (line : Nat) : Option TlbEntry :=
  (f.on line).findSome? fun a => (s.peerRead a).bind fun e => if s.peerCached e.peerPage then none else some e

/-- HOME_LOAD_REQUEST (R190, R167). A load from a peer first asks for the translation of its page, and waits for it (R214). -/
def onHomeLoadRequest (id line : Nat) (s : State) : Option State :=
  match s.flight? id with
  | none => none
  | some f =>
    if s.canLoad f line then
      match s.peerMiss f line with
      | none => some (s.loadAtHome f line)
      | some e => s.seekPeer f.ctx e.peerPage
    else none

/-- HOME_LOAD_REQUEST; nothing happens where it cannot occur (log 48). -/
def execHomeLoadRequest (id line : Nat) (s : State) : Out := s.occurs (onHomeLoadRequest id line s)

/-- A flight's writes to a line may arrive at their home: earlier ones of its path have (R193), those of a local atomic or
reduction to plain memory stay in the cluster while it has a CACHE-mode bank (R199, R200), a partial that waits at the home of a page on its
way arrives no second time (R163), and an access that has waited for a page is performed in its turn (R171). -/
def State.canWrite (s : State) (f : Flight) (line : Nat) : Bool :=
  f.kind != .load && !(f.on line).isEmpty && !s.behind f line && !((f.appends line).any fun a => s.behind f (a.key / 128)) &&
    !(f.grp == noGroup && (f.on line).any fun a => (a.tile.map fun e => s.appendsPark e).getD false) &&
    !((f.on line).any fun a => (a.tile.map fun e => f.defers s e).getD false) &&
    (f.blocking || f.fetches.isEmpty || !s.mustFollow f.grp f.slot) &&
    (!f.local_ || !s.hasCache f.cluster || (f.on line).all fun a => a.tile.isSome)

/-- HOME_WRITE_ARRIVAL (R191, R166). -/
def onHomeWriteArrival (id line : Nat) (s : State) : Option State :=
  match s.flight? id with
  | none => none
  | some f => if s.canWrite f line then some (s.writeAtHome f line) else none

/-- HOME_WRITE_ARRIVAL; nothing happens where it cannot occur (log 48). -/
def execHomeWriteArrival (id line : Nat) (s : State) : Out := s.occurs (onHomeWriteArrival id line s)

/-- A flight waits for a line in its cluster's cache. -/
def Flight.awaits (f : Flight) (cl line : Nat) (k : ReqKind) : Bool :=
  f.cluster == cl && f.kind == k && f.local_ && !(f.on line).isEmpty && (f.on line).all fun a => a.tile.isNone

/-- The flights of a cluster that wait for a line in its cache, in arrival order: none is behind another write of its path that does not wait
for the same line (R193). -/
def State.waitingOn (s : State) (cl line : Nat) (k : ReqKind) : List Flight :=
  s.flights.filter fun f => f.awaits cl line k &&
    !({ s with flights := s.flights.filter fun x => !x.awaits cl line k }.behind f line)

/-- The waiting flights perform on a line that stands ready; the first counts no hit where the line came at its request (R263). -/
def State.performWaiting (s : State) (line : Nat) (hit : Bool) : List Flight → State
  | [] => s
  | f :: fs =>
    let (s1, f1) := s.performLocal f line hit
    ((s1.setFlight f1).dropDone f.id).performWaiting line true fs

/-- A grant of a line to a cluster, OWNED or update-only, at a time when no lease and no pending write stands on it; copies of
the other kind come home first (R199, R200). An OWNED line arrives with its value; an update-only grant brings no data (R263,
log 31). -/
def State.grant (s : State) (cl line : Nat) (f : Flight) (kind : LineKind) : State :=
  let h0 := s.homeLine line
  let s1 := if kind == .updateOnly && h0.owned.isNone then s else s.recall line
  let h := s1.homeLine line
  let h1 := if kind == .owned then { h with owned := some cl } else { h with upd := h.upd.filter (fun c => c != cl) ++ [cl] }
  let s2 := if kind == .owned then s1.l2Access f.ctx line 4 false else s1
  (s2.fillLine cl line kind f.ctx (s1.linePsn line) (f.cache == 1)).setHomeLine line h1

/-- OWNED_LINE_REQUEST and UPDATE_ONLY_REQUEST. -/
def State.request (s : State) (cl line : Nat) (k : ReqKind) (kind : LineKind) : Option State :=
  let s0 := s.mature
  let fs := s0.waitingOn cl line k
  match fs with
  | [] => none
  | f :: _ =>
    if s0.holds f line then some (s0.performWaiting line true fs)
    else if s0.gwctOf line ≤ s0.now && s0.hasCache cl then some ((s0.grant cl line f kind).performWaiting line false fs)
    else none

/-- OWNED_LINE_REQUEST (R199). -/
def onOwnedLineRequest (cl line : Nat) (s : State) : Option State := s.request cl line .atom .owned

/-- OWNED_LINE_REQUEST; nothing happens where it cannot occur (log 48). -/
def execOwnedLineRequest (cl line : Nat) (s : State) : Out := s.occurs (onOwnedLineRequest cl line s)

/-- UPDATE_ONLY_REQUEST (R200). -/
def onUpdateOnlyRequest (cl line : Nat) (s : State) : Option State := s.request cl line .red .updateOnly

/-- UPDATE_ONLY_REQUEST; nothing happens where it cannot occur (log 48). -/
def execUpdateOnlyRequest (cl line : Nat) (s : State) : Out := s.occurs (onUpdateOnlyRequest cl line s)

/-- WRITE_ACK: the group receives the visibility times; a word whose path waits for them completes (R191, R196). -/
def onWriteAck (id : Nat) (s : State) : Option State :=
  match s.flight? id with
  | none => none
  | some f =>
    if f.finished && (f.kind == .store || f.kind == .red) then
      let s1 := { s.raiseFor f with flights := s.flights.filter fun x => x.id != id }
      some (if f.blocking then s1.endWord f else s1)
    else none

/-- WRITE_ACK; nothing happens where it cannot occur (log 48). -/
def execWriteAck (id : Nat) (s : State) : Out := s.occurs (onWriteAck id s)

/-- WRITE_VISIBLE: the write takes effect for every reader at its GWCT, after those before it in coherence order (R192). -/
def onWriteVisible (id : Nat) (s : State) : Option State :=
  match s.pending.find? fun w => w.id == id with
  | none => none
  | some w =>
    if w.gwct ≤ s.now then
      let before := fun (x : PWrite) => keyLe [x.gwct, x.id] [w.gwct, w.id]
      some ((coherent (s.pending.filter before)).foldl (fun s w => w.perform s)
        { s with pending := s.pending.filter fun x => !before x })
    else none

/-- WRITE_VISIBLE; nothing happens where it cannot occur (log 48). -/
def execWriteVisible (id : Nat) (s : State) : Out := s.occurs (onWriteVisible id s)

/-- A release is complete: what the path has loaded before its words is dropped (log 3). Where a port took a write of the group with it, POISON is
raised instead, with TRAP.ADDR at the write, once (R283, R292). -/
def State.endRelease (s : State) (g : Group) (slot : Bool) (f : Group → State) : State :=
  match g.lost with
  | none => f (g.modPath slot Path.forget)
  | some a =>
    ({ s with tupleReqs := s.tupleReqs.filter fun r => !(r.grp == g.id && r.slot == slot) }.setGroup
      (g.modPath slot fun p => { p with wait := .ready })).tellPath g.id slot .poison
      (((g.path slot).map Path.lanes).getD 0) a { lost := true }

/-- FENCE_RELEASE: the conditions of R197 hold; a FENCE completes, a word that releases goes on (R198), and a deposit sets out (R187). Where it
would trap instead, it waits while the sibling is in a chain (R46). -/
def onFenceRelease (gid : Nat) (slot : Bool) (s : State) : Option State :=
  match (s.group? gid).bind fun g => (g.path slot).map fun p => (g, p) with
  | none => none
  | some (g, p) =>
    if g.lost.isSome && s.chainHolds g slot then none else
    match p.wait with
    | .fence scope => if s.settled g scope p.upTo then some (s.endRelease g slot fun g => s.finish g slot 12) else none
    | .release scope =>
      if s.settled g scope p.upTo then
        some (s.endRelease g slot fun g => s.setGroup (g.modPath slot fun q => { q with wait := .ready, released := true }))
      else none
    | .tuple id =>
      if (s.tupleReqs.any fun r => r.id == id && r.stage == .releasing) && s.settled g 5 p.upTo then
        some (s.endRelease g slot fun g =>
          { s.setGroup g with tupleReqs := mapIf (fun r => r.id == id) (fun r => { r with stage := .travelling }) s.tupleReqs })
      else none
    | _ => none

/-- FENCE_RELEASE; nothing happens where it cannot occur (log 48). -/
def execFenceRelease (gid : Nat) (slot : Bool) (s : State) : Out := s.occurs (onFenceRelease gid slot s)

/-- SCOPE_MAX_SET: 3 to 7, by the hypervisor (R195). -/
def execScopeMaxSet (vf value : Nat) (s : State) : Out :=
  s.command (.scopeMaxSet vf value) <| .next (if 3 ≤ value ∧ value ≤ 7 then s.modVf vf fun v => { v with scopeMax := value } else s)

/-- The lease lengths of R189. -/
def leaseLengths : List Nat := [32, 64, 128, 256, 512, 1024, 2048, 4096]

/-- LEASE_LENGTH_SET: for leases granted after it (R189). -/
def execLeaseLengthSet (part ns : Nat) (s : State) : Out :=
  s.command (.leaseLengthSet part ns) <| .next (if leaseLengths.contains ns then s.modPart part fun p => { p with lease := ns } else s)

end Sys2Proof.Machine
end

