-- ==== Sys2Proof/Machine/Fetch.lean ====
section
/-!
DEFINITION. The choice of the paths that issue (R13, R50, R51, R463), and a fetch that finds no word (R208, R215).
-/
namespace Sys2Proof.Machine

/-! ## Selection (R50) -/

/-- The path waits on nothing, its sibling is not in a chain, and nothing stops it at this boundary (R46, R51). -/
def State.mayIssue (s : State) (g : Group) (slot : Bool) (p : Path) : Bool :=
  p.wait == .ready && !(((g.path (!slot)).map fun o => s.inChain g o).getD false) &&
    (s.mid g p || (!p.stopped && g.park.isNone && !g.awaiting && !g.stopping && !s.mustFollow g.id slot))

/-- The path may issue now: neither YIELD nor the cycles of its last word hold it. -/
def State.eligible (s : State) (g : Group) (slot : Bool) (p : Path) : Bool :=
  decide (p.holdUntil ≤ s.ticks) && decide (p.busyUntil ≤ s.ticks) && s.mayIssue g slot p

/-- A tick comes: a path that may not issue before it has not been eligible up to it (R50). -/
def State.notEligible (s : State) (t : Nat) : State :=
  let mark := fun (g : Group) (slot : Bool) => g.modPath slot fun p => if s.mayIssue g slot p then p else { p with idleAt := t }
  { s with groups := s.groups.map fun g => mark (mark g false) true }

/-- A path is promoted when it has been eligible for 256 consecutive cycles without issuing: the count begins at the latest tick up to which it
was not eligible, and is 0 again while its sibling is in a chain (R46, R50). -/
def promotable (s : State) (g : Group) (slot : Bool) (p : Path) : Bool :=
  s.mayIssue g slot p && !p.promoted &&
    decide (max (max p.readyAt p.idleAt) (max (max p.holdUntil p.busyUntil)
      (max p.chainAt (((g.path (!slot)).map fun o => o.chainAt).getD 0))) + 256 * s.cycle g.cluster ≤ s.ticks)

/-- ISSUE_PROMOTION (R50). -/
def onIssuePromotion (gid : Nat) (slot : Bool) (s : State) : Option State :=
  s.pathEvent gid slot (fun g p => promotable s g slot p) fun _ _ =>
    s.modGroup gid fun g => g.modPath slot fun p => { p with promoted := true }

/-- ISSUE_PROMOTION; nothing happens where it cannot occur (log 48). -/
def execIssuePromotion (gid : Nat) (slot : Bool) (s : State) : Out := s.occurs (onIssuePromotion gid slot s)


/-- The effective class of a launch: the larger of its own and its context's (R224, R237). -/
def State.classOf (s : State) (g : Group) : Nat :=
  max (((s.ctx? g.ctx).map (·.cls)).getD 0) (((s.launch? g.launch).map (·.lpb.cls)).getD 0)

/-- The partition that a cluster belongs to (R19): four clusters to a unit. -/
def State.clusterPart (s : State) (cl : Nat) : Option Nat := s.parts.findIdx? fun p => p.cfg.units.contains (cl / 4)

/-- The cores and the matrix engine of a cluster issue and grant in the first DUTY cycles of every 64 (R259). -/
def State.dutyOpen (s : State) (cl : Nat) : Bool :=
  match s.cluster? cl, (s.clusterPart cl).bind fun p => s.part? p with
  | some c, some p => decide (c.cycles s.ticks % 64 < p.duty)
  | _, _ => true

/-- The order of R50: a path in a chain, a promoted one, class, ready time, group slot, path slot. A path that has been eligible for 256 cycles
is promoted whether or not the event that says so has come (R50, R494). -/
def State.issueKey (s : State) (g : Group) (slot : Bool) (p : Path) : List Nat :=
  let rank := if s.inChain g p then 0 else if p.promoted || promotable s g slot p then 1 else 2
  [rank, if rank = 2 then s.classOf g else 0, p.readyAt, g.slot, if slot then 1 else 0]

/-- Eligible paths of a core. -/
def State.candidates (s : State) (cl core : Nat) : List (Group × Bool × Path) :=
  if !s.dutyOpen cl then [] else
  ((s.groups.filter fun g => g.cluster == cl && g.core == core).map fun g =>
    [false, true].filterMap fun b =>
      match g.path b with
      | some p => if s.eligible g b p then some (g, b, p) else none
      | none => none).flatten

/-- A path that may issue, with its group and slot. -/
abbrev Candidate := Group × Bool × Path

/-- A word is a prefix: PFX of the uniform set (R65). -/
def isPfx (w : Word) : Bool := w.getLsbD 31 && fOp7 w == 0x7F

/-- The path stands at a prefix, which takes no issue slot of its own (R387). -/
def State.atPfx (s : State) (g : Group) (p : Path) : Bool :=
  match (s.fetch g p).2 with
  | .word w => isPfx w
  | _ => false

/-- The word with which the prefixes ahead of a path issue, looked for behind so many of them (R65, R387). -/
def State.wordAhead (s : State) (g : Group) (p : Path) : Nat → Option Word
  | 0 => none
  | n + 1 =>
    match (s.fetch g p).2 with
    | .word w => if isPfx w then s.wordAhead g { p with pc := p.pc + 4 } n else some w
    | _ => none

/-- The next issue of the path goes to the uniform pipe: the word after its prefixes, of which a word has at most two, is of the uniform
set, or none is there (R13, R70, R387). A lane-set word with U = 1 competes for a vector pipe, as R53 has it by bit 31 of the word, although R57 and
R300 execute it on the uniform pipe (DESIGN CHOICE, log 79). -/
def State.uniformNext (s : State) (c : Candidate) : Bool := ((s.wordAhead c.1 c.2.2 4).map fun w => w.getLsbD 31).getD true

/-- The path stands at its join, at a boundary (R36, R52): it reaches the join and does not issue. -/
def State.atJoin (s : State) (g : Group) (p : Path) : Bool := g.atJoin p && !s.inChain g p

/-- The candidate that R50 places first. -/
def State.firstOf (s : State) (l : List Candidate) : Option Candidate := leastKey (fun c => s.issueKey c.1 c.2.1 c.2.2) l

/-- The path a core chooses before any other (R50). -/
def State.choose (s : State) (cl core : Nat) : Option Candidate := s.firstOf (s.candidates cl core)

/-- What a core issues in a cycle: at most two lane-set words of different groups and one uniform-set word, after the paths that stand
at a join; words of one cycle take effect by group slot, slot 0 before slot 1 (R13, R50, R270). -/
def State.picks (s : State) (cl core : Nat) : List Candidate :=
  let cs := s.candidates cl core
  let joins := cs.filter fun c => s.atJoin c.1 c.2.2
  let words := cs.filter fun c => !s.atJoin c.1 c.2.2
  let lane := words.filter fun c => !s.uniformNext c
  let l1 := s.firstOf lane
  let l2 := s.firstOf (lane.filter fun c => !(l1.toList.any fun x => x.1.id == c.1.id))
  let u := s.firstOf (words.filter fun c => s.uniformNext c)
  joins ++ sortBy (fun c => [c.1.slot, if c.2.1 then 1 else 0]) (l1.toList ++ l2.toList ++ u.toList)

/-- What is left of the choices of a core in this cycle. Cores of a cluster issue in ascending number within a cycle, so a lower one than the
latest has none left (R134, R153, R157). -/
def State.planOf (s : State) (c : Cluster) (core : Nat) : List (Nat × Bool) :=
  let fresh := (s.picks c.id core).map fun x => (x.1.id, x.2.1)
  match c.plan with
  | some pl =>
    if pl.cycle != c.cycles s.ticks || pl.core < core then fresh else if pl.core = core then pl.rest else []
  | none => fresh

/-- The rest of a core's choices of this cycle set. -/
def State.setPlan (s : State) (cl core : Nat) (rest : List (Nat × Bool)) : State :=
  s.modCluster cl fun c => { c with plan := some ⟨c.cycles s.ticks, core, rest⟩ }

/-- The path whose turn it is on a core, with the rest of the cycle's choices noted; none where the core has issued all of them. A path
at a prefix keeps its place: its word issues in the same cycle (R387). -/
def State.takePlan (s : State) (cl core : Nat) : State × Option Candidate :=
  match s.cluster? cl with
  | none => (s, none)
  | some c =>
    match s.planOf c core with
    | [] => (s, none)
    | (gid, slot) :: rest =>
      match (s.candidates cl core).find? fun x => x.1.id == gid && x.2.1 == slot with
      | none => (s.setPlan cl core rest, none)
      | some x =>
        let again := !s.atJoin x.1 x.2.2 && s.atPfx x.1 x.2.2
        (s.setPlan cl core (if again then (gid, slot) :: rest else rest), some x)

/-- A core with choices of this cycle that it has not issued. -/
def State.openPlan (s : State) : Option (Nat × Nat) :=
  s.clusters.findSome? fun (x : Nat × Cluster) =>
    match x.2.plan with
    | some pl => if pl.cycle == x.2.cycles s.ticks && !pl.rest.isEmpty then some (x.1, pl.core) else none
    | none => none

/-- The first core from a number on, around the part, with an eligible path (log 1). -/
def State.busyCore (s : State) (from_ : Nat) : Option Nat :=
  let cores := sortBy (fun c => [(c + 256 - from_ % 256) % 256]) (dedup (s.groups.map fun g => 4 * g.cluster + g.core))
  cores.find? fun c => (s.choose (c / 4) (c % 4)).isSome

/-- A fetch that finds no word: the trap, or the park of the group (R208, R215). The arrival that an instruction fetch forces is charged to no
context (R472). -/
def State.fetchStop (s : State) (g : Group) (slot : Bool) (p : Path) : Fetched → State
  | .word _ => s
  | .trap c => s.trapPath g.id slot c p.mask (s.fetchAddr g p)
  | .page l => s.parkPage g.id slot .fetch p.mask (s.fetchAddr g p) l []
  | .absent e =>
    let (s1, i) := (s.dropReplays g.id slot).startFetch g.ctx e true
    (s1.noteFetch g.id slot e (s.fetchAddr g p)).parkFetch g.id slot p.mask [i]

/-- The group before a word of a path issues: the sibling's latches are no longer valid (R46). -/
def State.switchTo (s : State) (g : Group) (slot : Bool) : State :=
  { s.setGroup (g.modPath (!slot) fun o => { o with chain := Chain.none }) with cur := some (g.id, slot) }

/-- The state in which a word of a path is executed: what is UNSPECIFIED has a new value (R120, R135, log 30), and the path is the one that issues
(R46). -/
def State.readyFor (s : State) (g : Group) (slot : Bool) : State :=
  let t := s.renew g.ctx
  t.switchTo ((t.group? g.id).getD g) slot

end Sys2Proof.Machine
end

