-- ==== Sys2Proof/Machine/Boot.lean ====
section
/-!
DEFINITION. A word placed where the machine fetches its next one (log 4): the bytes of the path that a core would choose, or,
where no path can issue, one launched group with one page of code.
-/
namespace Sys2Proof.Machine

/-- Key of the word at a path's program counter, where it is mapped. -/
def State.fetchKey (s : State) (g : Group) (p : Path) : Option Nat :=
  match (s.mature.translate g.ctx g.secure .fetch (s.fetchAddr g p)).2 with
  | .mem key => some key
  | _ => none

/-- Partition-relative page tables of one 64 KiB page at address 0 with every permission: root 0x20000, level 2 at 0x40000,
level 1 at 0x50000, level 0 at 0x51000, page 0x60000. -/
def bootTables : List (Nat × Nat) :=
  [(0x20000, 0x4000001), (0x40000, 0x5000001), (0x50000, 0x5100001), (0x51000, 0x6003F)]

def bootLpb : Lpb :=
  { codeBase := 0, entry := 0, gx := 1, gy := 1, gz := 1, threads := 32, gang := 1, flags := 0, vRegs := 64, gRegs := 64, cls := 0,
    floor := 0, scratch := 0, ctx := 0, prio := 0, divstack := 16, trapVec := 0, tgt := 0, ivl := 0, tag := 0, mapKind := 0,
    mapP := 0, mapQ := 0, mapR := 0, bitmap := 0, args := [], zero2F := true, zeros := true }

/-- One group of context 0 of function 0, launched and placed on cluster 0, over the standard configuration. -/
def State.boot (s : State) : State :=
  let vf := { Vf.reset [0] false with windows := [(0, 2 ^ 20)] }
  let l : Launch := { id := 0, vf := 0, queue := 0, seq := 0, lpb := bootLpb, producer := none, visible := 0, accepted := 0, started := [0], complete := [],
                      exited := [], bitsSet := [], reserved := [], finished := false }
  let b : Block := { id := 0, launch := 0, ctx := 0, index := 0, gang := 0, member := 0, cluster := 0, scratchBytes := 0,
                     scratch := [], psn := [], claims := [], shadow := [], hits := [], granules := [], live := 1, done := 0, groups := 1 }
  let g := Group.fresh 0 0 0 0 0 0 false 0 0 0 64 64 16 (BitVec.allOnes 32) 0 0 s.ticks
  { s with
    turns := []
    mem := bootTables.foldl (fun m e => m.setBytes e.1 (leBytes 8 e.2)) s.mem
    vfs := s.vfs.put 0 vf
    contexts := s.contexts.put 0 (Context.fresh 0 0 0 0 0x20000 0 0 [])
    launches := [l]
    blocks := [b]
    groups := [g]
    tlb := []
    nextId := s.nextId + 1 }

/-- A word's bytes at a key. -/
def State.putWord (s : State) (key : Nat) (w : Word) : State := { s with mem := s.mem.setBytes key (leBytes 4 w.toNat) }

end Sys2Proof.Machine
end

