-- ==== Sys2Proof/Machine/Flags.lean ====
section
/-!
DEFINITION. Status words: the words that collect flags for a program to read (R152, R268, R393, R244).
-/
namespace Sys2Proof.Machine

/-- A flag at a bit of a word. -/
def flagAt (b : Bool) (i : Nat) : Nat := if b then 2 ^ i else 0

/-- The status of BANKCFG: 0 DONE, or BUSY with WHY (R152). -/
def bankStatus (why : Nat) : Word := if why = 0 then 0 else BitVec.ofNat 32 (1 + why * 16)

/-- The word of QSTAT: ROLE, MC, AVAIL, ROOM (R393). -/
def queueStatus (role : BitVec 2) (mc : Bool) (avail room : Nat) : Word :=
  BitVec.ofNat 32 (role.toNat + flagAt mc 2 + avail % 16384 * 8 + room % 16384 * 2 ^ 17)

/-- TRAP.CAUSE: CAUSE, INFO, SLOT, HANDLER (R268). -/
def causeWord (cause info : BitVec 8) (slot handler : Bool) : Word :=
  BitVec.ofNat 32 (cause.toNat + info.toNat * 256 + flagAt slot 16 + flagAt handler 17)

end Sys2Proof.Machine
end

