-- ==== Sys2Proof/Machine/Kd8.lean ====
section
/-!
DEFINITION. KD8 and cast weights (R89 to R100). A KD8 value is a whole multiple of 1 / (32 × 10^6).
-/
namespace Sys2Proof.Machine

/-- Units of a KD8 value: 32 × 10^6 to one. -/
def kdUnit : Nat := 32000000

/-- Magnitude of the code 0x00 to 0x7F in units of 1 / kdUnit (R89, R90). -/
def kdMag (c : Nat) : Nat :=
  if c = 0 then 0
  else if c = 1 then 1000000 * kdUnit
  else
    let top := c.log2
    let k := 6 - top
    let f := 5 - k
    let e := c / 2 ^ f % 2
    let frac := c % 2 ^ f
    let ten := if e = 0 then 10 ^ (6 + k) else 10 ^ (5 - k)
    ten * (32 + 9 * frac * 2 ^ (5 - f))

/-- The value of a code in units of 1 / kdUnit; 0x80 is NaN (R89). -/
def kdValue (c : Nat) : Fp :=
  if c = 128 then .nan else .fin (decide (128 ≤ c)) (kdMag (c % 128))

/-- The binary32 decode of a code (R90). -/
def kdDecode (c : Nat) : Word := rneF32 kdUnit (kdValue c)

/-- The code of the sign of ±num/den whose value is nearest, ties to the code whose bit 0 is 0 (R91). -/
def kdNearest (neg : Bool) (num den : Nat) : Nat :=
  let dist := fun c : Nat => (((num * kdUnit : Nat) : Int) - ((kdMag c * den : Nat) : Int)).natAbs
  let c := (leastPair (fun c => 2 * dist c + c % 2) (List.range 128)).getD 0
  if c = 0 then 0 else if neg then 128 + c else c
where
  /-- The list's value of least key. -/
  leastPair (key : Nat → Nat) : List Nat → Option Nat
    | [] => none
    | x :: xs =>
      match leastPair key xs with
      | none => some x
      | some y => if key x ≤ key y then some x else some y

/-- rne_f32(10^s) (R92). -/
def tenPow (s : Int) : Word :=
  if 0 ≤ s then signed false (roundMag 23 (10 ^ s.toNat) 1) else signed false (roundMag 23 1 (10 ^ (-s).toNat))

/-- A scaled element: d × rne_f32(10^s), taken exactly and rounded once (R92, R346). -/
def dq8 (a : Word) : Word :=
  let c := field a 0 8
  if c = 0 then 0 else if c = 128 then qNaN else fmul (kdDecode c) (tenPow (sextNat (field a 8 8) 8))

/-- |x| > 10^6 × 10^s for x of n units of 2^-149 (R95). -/
def kdExceeds (n : Nat) (s : Int) : Bool :=
  if 0 ≤ s then decide (10 ^ (6 + s.toNat) * u1 < n) else decide (10 ^ 6 * u1 < n * 10 ^ (-s).toNat)

/-- A value drives the scale up (R95). -/
def kdRises (x : Fp) (s : Int) : Bool :=
  match x with
  | .nan => false
  | .inf _ => true
  | .fin _ n => kdExceeds n s

/-- The scale after at most `fuel` rises, and the rises it took (R95). -/
def kdScale (xs : List Fp) : Nat → Int → Nat → Int × Nat
  | 0, s, r => (s, r)
  | f + 1, s, r => if s < 127 && xs.any (fun x => kdRises x s) then kdScale xs f (s + 1) (r + 1) else (s, r)

/-- The packed word of one element under a scale (R94, R95). -/
def kdPack (x : Fp) (s : Int) (rises : Nat) : Word :=
  let put := fun (sat code : Nat) =>
    BitVec.ofNat 32 (rises * 131072 + sat * 65536 + (s % 256).toNat * 256 + code)
  match x with
  | .nan => put 0 0x80
  | .inf neg => put 1 (if neg then 0x81 else 0x01)
  | .fin neg n =>
    if kdExceeds n s then put 1 (if neg then 0x81 else 0x01)
    else if 0 ≤ s then put 0 (kdNearest neg n (u1 * 10 ^ s.toNat))
    else put 0 (kdNearest neg (n * 10 ^ (-s).toNat) u1)

/-- QNT8 over the lanes: for each lane the scale of its group, from the lowest active lane's predicted scale (R95). -/
def qnt8Lanes (groupSize : Nat) (active : Mask) (a b : Nat → Word) (i : Nat) : Word :=
  let j := i / groupSize
  let ls := (lanesOf active).filter fun l => l / groupSize = j
  match ls with
  | [] => 0
  | l0 :: _ =>
    let (s, r) := kdScale (ls.map fun l => fpOf (a l)) 3 (sextNat (field (b l0) 8 8) 8) 0
    kdPack (fpOf (a i)) s r

/-! ## Cast weights (R96 to R100) -/

/-- step, values per window, bits, block bytes of a format code 2, 3 or 4 (R97). -/
def castStep (rate : Nat) : Nat := if rate = 2 then 1 else if rate = 3 then 3 else 7
def castValues (rate : Nat) : Nat := if rate = 2 then 1 else if rate = 3 then 2 else 4
def castBits (rate : Nat) : Nat := if rate = 2 then 256 else if rate = 3 then 384 else 448
def castBytes (rate : Nat) : Nat := 4 + castBits rate / 8

/-- v of weight p of a window (R99). -/
def castV (w p : Nat) : Int :=
  let h := (rotl16 w (5 * p) * 0x9E37 + 0x3039) % 65536
  (h / 256 : Nat) + (h % 256 : Nat) - (255 : Int)

/-- The 16 bits of window i, from the bytes of the block (R98). -/
def castWindow (rate : Nat) (byte : Nat → Nat) (i : Nat) : Nat :=
  (List.range 16).foldl (fun w k =>
    let b := (i * castStep rate + k) % castBits rate
    w + byte (4 + b / 8) / 2 ^ (b % 8) % 2 * 2 ^ k) 0

/-- The weight v × S / 256 as a value: S in units of 2^-149, so the product is in units of 2^-157 (R99). -/
def castValue (v : Int) (s : Nat) : Word :=
  match fpOfHalf s with
  | .nan => qNaN
  | .inf neg => if v = 0 then qNaN else signed (neg != decide (v < 0)) 0x7F800000
  | .fin neg n => rneF32 (u1 * 256) (.fin (neg != decide (v < 0)) (n * v.natAbs))

/-- Weight j of a block (R98, R99). -/
def castWeight (rate : Nat) (byte : Nat → Nat) (j : Nat) : Word :=
  castValue (castV (castWindow rate byte (j / castValues rate)) (j % castValues rate)) (byte 0 + 256 * byte 1)

end Sys2Proof.Machine
end

