-- ==== Sys2Proof/Machine/Scratch.lean ====
section
/-!
DEFINITION. Scratchpad (R146 to R149, R201): addresses and their checks, bank spans, reads and writes, poison; barrier words and
their waiters (R319 to R324); the words LDS, STS, ULDS, USTS, TRW and TWSET (R371, R416, R427, R434, R446), BARA, BARW
and BARS, and the event BARRIER_POLL.
-/
namespace Sys2Proof.Machine

/-! ## Addresses (R147) -/

/-- Member index and offset of an address X. -/
def memberOf (x : Nat) : Nat := x / 2 ^ 24 % 16
def offsetOf (x : Nat) : Nat := x % 2 ^ 24

/-- Blocks of a grid (R223). -/
def Lpb.total (l : Lpb) : Nat := l.gx * l.gy * l.gz

/-- Blocks of gang number k: the last one holds the remaining blocks (R233). -/
def Lpb.gangLen (l : Lpb) (k : Nat) : Nat := min l.gang (l.total - k * l.gang)

/-- Gang size and scratchpad bytes of a group's block (R147, R233). -/
def State.gangSize (s : State) (g : Group) : Nat :=
  match s.launch? g.launch, s.block? g.block with
  | some l, some b => l.lpb.gangLen b.gang
  | _, _ => 1
def State.scratchSize (s : State) (g : Group) : Nat := ((s.launch? g.launch).map (·.lpb.scratch)).getD 0

/-- The check of R147 on a range that lies in one member: SCRATCH_BOUNDS (rank 1), MISALIGNED (rank 2). -/
def State.scratchFault (s : State) (g : Group) (x : Int) (size align : Nat) : Option (Nat × Cause) :=
  if x < 0 ∨ 2 ^ 28 ≤ x then some (rankAddress, .scratchBounds)
  else if s.gangSize g ≤ memberOf x.toNat ∨ s.scratchSize g < offsetOf x.toNat + size then some (rankAddress, .scratchBounds)
  else if x.toNat % align ≠ 0 then some (rankMisaligned, .misaligned)
  else none

/-- The block of the gang of a group's block that has a member index, once it has been placed (R148). -/
def State.memberBlock (s : State) (g : Group) (m : Nat) : Option Block :=
  match s.block? g.block with
  | none => none
  | some b => s.blocks.find? fun x => x.launch == b.launch && x.gang == b.gang && x.member == m

/-- A lane's scratchpad access: its address, or its fault. -/
def State.scratchLanes (s : State) (g : Group) (size : Nat) (x : Nat → Int) (lanes : List Nat) : List LaneX :=
  lanes.map fun i =>
    match s.scratchFault g (x i) size size with
    | some (r, c) => { lane := i, va := (x i % 2 ^ 64).toNat, x := .fault r c }
    | none => { lane := i, va := (x i).toNat, x := .mem (x i).toNat }

/-- A member that a lane names and that has not started (R148). -/
def State.absentMember (s : State) (g : Group) (ls : List LaneX) : Option Nat :=
  (ls.find? fun l => (s.memberBlock g (memberOf l.va)).isNone).map fun l => memberOf l.va

/-- Distinct 256-byte spans of a list of runs of bytes (R149). -/
def spansOf (l : List (Nat × Nat)) : Nat :=
  (dedup ((l.map fun r => (List.range ((r.1 + r.2 - 1) / 256 - r.1 / 256 + 1)).map fun i => r.1 / 256 + i).flatten)).length

/-- The largest number of distinct 256-byte spans in any one bank (R149). -/
def State.bankCycles (s : State) (g : Group) (l : List (Nat × Nat)) : Nat :=
  let spans := dedup (l.map fun r => (List.range ((r.1 + r.2 - 1) / 256 - r.1 / 256 + 1)).map fun i => r.1 / 256 + i).flatten
  let bank := fun (sp : Nat) => (s.memberBlock g (memberOf (256 * sp))).map fun b =>
    16 * b.cluster + (b.granules[offsetOf (256 * sp) / 4096]?).getD 0
  let at_ := spans.map bank
  at_.foldl (fun m x => max m (at_.filter fun y => y == x).length) 0

/-- A lane-set scratchpad word takes that many cycles: the path's next word is not ready before they have passed (R149). -/
def State.holdBanks (s : State) (g : Group) (slot : Bool) (n : Nat) : State :=
  if n ≤ 1 then s
  else
    match s.cluster? g.cluster with
    | none => s
    | some c =>
      let t := c.cycleStart s.ticks n
      s.modGroup g.id fun g => g.modPath slot fun p => { p with busyUntil := t, readyAt := t }

/-! ## Reads and writes at the banks (R201, R279, R280) -/

/-- Bytes of a member's scratchpad from an address X. -/
def State.scratchBytes (s : State) (g : Group) (x n : Nat) : List Byte :=
  match s.memberBlock g (memberOf x) with
  | some b => b.scratch.bytes (offsetOf x) n
  | none => List.replicate n 0

/-- Address of the first poisoned byte of a run. -/
def State.scratchPoison (s : State) (g : Group) (x n : Nat) : Option Nat :=
  (s.memberBlock g (memberOf x)).bind fun b =>
    (firstPoison b.psn (offsetOf x) n).map fun o => x / 2 ^ 24 * 2 ^ 24 + o

/-- A byte lies in an array of a factor command that no MWAIT covers (R135). -/
def Block.claimed (b : Block) (o : Nat) : Bool := b.claims.any fun c => decide (c.off ≤ o) && decide (o < c.off + c.len)

/-- Bytes written to a block's scratchpad; one that a command claims becomes UNSPECIFIED (R135). -/
def Block.put (b : Block) (off : Nat) (data : List Byte) : Block :=
  if b.claims.isEmpty then { b with scratch := b.scratch.setBytes off data }
  else
    let os := (List.range data.length).map fun i => off + i
    let free := (os.zip data).filter fun x => !b.claimed x.1
    { b with scratch := free.foldl (fun m x => m.setByte x.1 x.2) b.scratch, hits := b.hits ++ os.filter b.claimed }

/-- A write to a block's scratchpad. -/
def Block.store (b : Block) (off : Nat) (data : List Byte) (t : Taint) : Block :=
  { b.put off data with psn := poisonWrite b.psn off data.length t }

/-! ## Barrier words (R319) -/

def barExpect (w : Nat) : Nat := w % 65536
def barArrived (w : Nat) : Nat := w / 65536 % 65536
def barPhase (w : Nat) : Bool := w / 2 ^ 32 % 2 == 1

/-- EXPECT 0, ARRIVED not below EXPECT, or a set bit above PHASE. -/
def barMalformed (w : Nat) : Bool := barExpect w == 0 || decide (barExpect w ≤ barArrived w) || w / 2 ^ 33 != 0

/-- The word after an arrival of count c (R322). -/
def barArrive (w c : Nat) : Nat :=
  if barArrived w + c = barExpect w then barExpect w + (if barPhase w then 0 else 2 ^ 32)
  else w + c * 65536

/-- A waiting path whose barrier wakes it: its word acquires and completes (R201, R323). -/
def State.wakeWaiter (s : State) (gid : Nat) (slot : Bool) : State :=
  match s.group? gid with
  | none => s
  | some g => s.finish (g.modPath slot Path.forget) slot 12

/-- The paths that wait on a barrier, as file waiters (R323). -/
def State.fileWaiters (s : State) (block off : Nat) (phase : Bool) : List (Nat × Bool) :=
  (s.groups.map fun g => [false, true].filterMap fun b =>
    match (g.path b).map (fun (p : Path) => p.wait) with
    | some (.barrier bl o ph false) => if bl == block && o == off && ph != phase then some (g.id, b) else none
    | _ => none).flatten

/-- A path waits in the file of a core for a barrier. -/
def State.fileUsed (s : State) (cl core block off : Nat) : Bool :=
  s.groups.any fun g => g.cluster == cl && g.core == core && [false, true].any fun b =>
    match (g.path b).map (fun (p : Path) => p.wait) with
    | some (.barrier bl o _ false) => bl == block && o == off
    | _ => false

/-- Entries of the named-barrier files whose last waiter has woken are freed (R323). -/
def State.freeFiles (s : State) : State :=
  { s with clusters := s.clusters.map fun (k, c) =>
      (k, { c with barFile := c.barFile.filter fun e => s.fileUsed k e.1 e.2.1 e.2.2 }) }

/-- A change of PHASE wakes every file waiter whose awaited phase differs from the new one (R323). -/
def State.phaseChanged (s : State) (block off : Nat) (phase : Bool) : State :=
  ((s.fileWaiters block off phase).foldl (fun s w => s.wakeWaiter w.1 w.2) s).freeFiles

/-- The barrier words of a run of bytes. -/
def wordsIn (off n : Nat) : List Nat := (List.range ((off + n - 1) / 8 - off / 8 + 1)).map fun i => off / 8 * 8 + 8 * i

/-- Bytes and poison of one lane's store (R193, R280). -/
def State.scratchPut (s : State) (g : Group) (x : Nat) (data : List Byte) : State :=
  match s.memberBlock g (memberOf x) with
  | none => s
  | some b => s.modBlock b.id fun b => b.store (offsetOf x) data .clean

/-- PHASE of the barrier word at an offset of a block. -/
def State.phaseAt (s : State) (block off : Nat) : Bool :=
  ((s.block? block).map fun b => barPhase (leNat (b.scratch.bytes off 8))).getD false

/-- Barrier words, by block and offset, that runs of bytes touch. -/
def State.wordsAt (s : State) (g : Group) (runs : List (Nat × Nat)) : List (Nat × Nat) :=
  dedup (runs.map fun r =>
    match s.memberBlock g (memberOf r.1) with
    | none => []
    | some b => (wordsIn (offsetOf r.1) r.2).map fun w => (b.id, w)).flatten

/-- A word has stored: the waiters of every barrier word whose PHASE it has changed wake (R201, R323). What its lanes write to one word in turn is
one store of the word. -/
def State.wakeChanged (s : State) (old : State) (g : Group) (runs : List (Nat × Nat)) : State :=
  (s.wordsAt g runs).foldl (fun t w =>
    if old.phaseAt w.1 w.2 == s.phaseAt w.1 w.2 then t else t.phaseChanged w.1 w.2 (s.phaseAt w.1 w.2)) s

/-- A store of one run to scratchpad (R201, R323). -/
def State.scratchStore (s : State) (g : Group) (x : Nat) (data : List Byte) : State :=
  (s.scratchPut g x data).wakeChanged s g [(x, data.length)]

/-! ## LDS, STS, ULDS, USTS -/

/-- A MEM prefix of a scratchpad word carries OFS only (R68). -/
def ofsOnly (ps : Prefixes) : Bool := memScope ps == 0 && memCache ps == 0 && memOrder ps == 0

/-- The checks of a scratchpad word: faults (R145, R147), then a member that has not started (R148). A helper lane of a store counts as one that
accesses the member it names, though it writes nothing (R414): R148 speaks of an access, R416 of a write (DESIGN CHOICE, log 98). -/
def State.scratchCheck (s : State) (g : Group) (p : Path) (single : Bool) (ls : List LaneX) : Except Stop Unit :=
  match laneTrap ls with
  | some (.trap c m a) => .error (.trap c (if single then p.lanes else m) a)
  | some e => .error e
  | none =>
    match s.absentMember g ls with
    | some m => .error (.park (.gang m))
    | none => .ok ()

/-- A scratchpad load: every lane's bytes, POISON, or the registers written by `write` (R371, R446). -/
def State.scratchLoad (s : State) (g : Group) (slot : Bool) (p : Path) (single : Bool) (size : Nat) (x : Nat → Int)
    (cls : Nat) (write : Group → Nat → List Byte → Group) : Except Stop State := do
  let ls := s.scratchLanes g size x (if single then [0] else lanesOf p.lanes)
  s.scratchCheck g p single ls
  let s1 := s.charge g.ctx 8 (spansOf (ls.map fun l => (l.va, size)))
  let bad := ls.filter fun l => (s.scratchPoison g l.va size).isSome
  match bad with
  | l :: _ =>
    let m := if single then p.lanes else maskOf (bad.map fun l => l.lane)
    .ok (s1.trapPath g.id slot .poison m ((s.scratchPoison g l.va size).getD 0))
  | [] => .ok ((s1.finish (ls.foldl (fun g l => write g l.lane (s.scratchBytes g l.va size)) g) slot cls).holdBanks g slot
      (s.bankCycles g (ls.map fun l => (l.va, size))))

/-- A scratchpad store: the lanes that are not helpers write in ascending order (R193, R416, R446). Loads and stores are performed at the
bank when they issue, so accesses of a path to different bytes keep program order too (R201 leaves it open; log 64). -/
def State.scratchWrite (s : State) (g : Group) (slot : Bool) (p : Path) (single : Bool) (size : Nat) (x : Nat → Int)
    (cls : Nat) (data : Nat → List Byte) : Except Stop State := do
  let ls := s.scratchLanes g size x (if single then [0] else lanesOf p.lanes)
  s.scratchCheck g p single ls
  let live := ls.filter fun l => if single then p.lanes &&& ~~~g.helper != 0 else !g.helper.getLsbD l.lane
  let s1 := (live.foldl (fun s l => s.scratchPut g l.va (data l.lane)) s).wakeChanged s g (live.map fun l => (l.va, size))
  let s2 := (if live.isEmpty then s1 else s1.raiseHorizons g.id s.now true).charge g.ctx 8
    (if live.isEmpty then 0 else spansOf (live.map fun l => (l.va, size)))
  match s2.group? g.id with
  | none => .ok s2
  | some g2 => .ok ((s2.finish g2 slot cls).holdBanks g slot (s.bankCycles g (live.map fun l => (l.va, size))))

/-- The address of a lane: offset register and prefixes (R147). -/
def scratchX (o : Operands) (g : Group) (i : Nat) : Int := laneOffset o g i

/-- LDS (R371). -/
def execLds (o : LaneVS) (s : State) : Out :=
  s.word fun g slot p => do
    let r ← (formVM (.vd o.d (accessRegs o.mf)) o.u o.a).operands g p ofsOnly
    let put := fun (g : Group) (i : Nat) (bs : List Byte) =>
      if o.u then (lanesOf p.lanes).foldl (fun g i => g.setVs r.d.num i (loadWords o.mf.toNat bs)) g
      else g.setVs r.d.num i (loadWords o.mf.toNat bs)
    s.scratchLoad g slot p o.u (accessSize o.mf) (scratchX r g) (laneClass o.u 1) put

/-- STS (R416). -/
def execSts (o : LaneVS) (s : State) : Out :=
  s.word fun g slot p => do
    let d := if o.u then Fld.gx o.d (accessRegs o.mf) else Fld.vd o.d (accessRegs o.mf)
    let r ← (formVM d o.u o.a).operands g p ofsOnly
    s.scratchWrite g slot p o.u (accessSize o.mf) (scratchX r g) (laneClass o.u 1)
      (runBytes g r.d (accessRegs o.mf) (accessSize o.mf))

/-- The form of a US word (R439). -/
def formUS (d : BitVec 8) (span : Nat) (a : BitVec 8) : Form := formCtl (.ud d span) (.us a) .absent allPfx

/-- The address of a US word: g[A], the unsigned imm4 scaled by the size, and the prefixes' offset (R439). -/
def uniX (o : UniMS) (size : Nat) (r : Operands) (g : Group) : Int :=
  (r.uniSrc g r.a).toNat + (o.imm.toNat * size : Nat) + pfxOffset r.ps

/-- ULDS (R446). -/
def execUlds (o : UniMS) (s : State) : Out :=
  s.word fun g slot p => do
    let r ← (formUS o.d (accessRegs o.mf) o.a).operands g p ofsOnly
    s.scratchLoad g slot p true (accessSize o.mf) (fun _ => uniX o (accessSize o.mf) r g) 0
      fun g _ bs => g.setGs r.d.num (loadWords o.mf.toNat bs)

/-- USTS (R446). -/
def execUsts (o : UniMS) (s : State) : Out :=
  s.word fun g slot p => do
    let r ← (formUS o.d (accessRegs o.mf) o.a).operands g p ofsOnly
    s.scratchWrite g slot p true (accessSize o.mf) (fun _ => uniX o (accessSize o.mf) r g) 0
      (runBytes g r.d (accessRegs o.mf) (accessSize o.mf))

/-! ## Window registers: TWSET and TRW -/

/-- TWSET (R434). -/
def execTwset (o : UniTw) (s : State) : Out :=
  s.word fun g slot p => do
    let r ← (formCtl .absent (.ud o.a 4) .absent regOnly).operands g p
    let w := g.gregs r.a.num 4
    let x := (w[0]?).getD 0
    let rate := ((w[1]?).getD 0).toNat
    let count := ((w[2]?).getD 0).toNat
    trapIf (decide (rate < 2) || decide (4 < rate) || count == 0 || decide (2 ^ 24 < count) || (w[3]?).getD 0 != 0) .format p.lanes
    match s.scratchFault g x.toNat (count * castBytes rate) 4 with
    | some (_, c) => .error (.trap c p.lanes x.toNat)
    | none =>
      let reg : WinReg := { addr := x.extractLsb' 0 28, rate := BitVec.ofNat 4 rate, count := BitVec.ofNat 25 count, valid := true }
      .ok (s.finish { g with wreg := modifyAt g.wreg o.w.toNat fun _ => reg } slot 12)

/-- Address of the block of a weight index. -/
def WinReg.blockAt (w : WinReg) (idx : Nat) : Nat := w.addr.toNat + idx / 256 * castBytes w.rate.toNat

/-- Runs of bytes that a weight index reads: the scale, and the stream bytes of its window (R98, R427). -/
def WinReg.runs (w : WinReg) (idx : Nat) : List (Nat × Nat) :=
  let rate := w.rate.toNat
  let x := w.blockAt idx
  let i := idx % 256 / castValues rate
  let bytes := dedup ((List.range 16).map fun k => (i * castStep rate + k) % castBits rate / 8)
  (x, 2) :: bytes.map fun b => (x + 4 + b, 1)

/-- The weight of an index (R427). -/
def State.weight (s : State) (g : Group) (w : WinReg) (idx : Nat) : Word :=
  let x := w.blockAt idx
  castWeight w.rate.toNat (fun k => (((s.scratchBytes g (x + k) 1)[0]?).getD 0).toNat) (idx % 256)

/-- The form of TRW (R426). -/
def formTrw (o : LaneTrw) : Form :=
  { d := .vd o.d 1, a := .a8 o.u o.a, b := .absent, accepts := regOnly, chain := false, uniSet := false, u := o.u, nw := false }

/-- First poisoned byte of the runs of an index, least address. -/
def State.runPoison (s : State) (g : Group) (w : WinReg) (idx : Nat) : Option Nat :=
  leastBy (fun a => a) ((w.runs idx).filterMap fun r => s.scratchPoison g r.1 r.2)

/-- TRW (R427). Its window's member may not have started (R148). -/
def execTrw (o : LaneTrw) (s : State) : Out :=
  s.word fun g slot p => do
    let r ← (formTrw o).operands g p
    let row ← queueCheck s g p.lanes r.a.queue? r.d.queue?
    let w := g.window o.w.toNat
    trapIf (!w.valid) .format p.lanes
    let lanes := if o.u then [0] else lanesOf p.lanes
    let idx := fun i => (r.laneSrc g row r.a i).toNat
    let out := lanes.filter fun i => decide (256 * w.count.toNat ≤ idx i)
    match out with
    | i :: _ => .error (.trap .scratchBounds (if o.u then p.lanes else maskOf out) (w.blockAt (idx i)))
    | [] =>
      if (s.memberBlock g (memberOf w.addr.toNat)).isNone then .error (.park (.gang (memberOf w.addr.toNat)))
      else
        let runs := (lanes.map fun i => w.runs (idx i)).flatten
        let s1 := s.charge g.ctx 8 (spansOf runs)
        let bad := lanes.filter fun i => (s.runPoison g w (idx i)).isSome
        match bad with
        | i :: _ =>
          .ok (s1.trapPath g.id slot .poison (if o.u then p.lanes else maskOf bad) ((s.runPoison g w (idx i)).getD 0))
        | [] =>
          let vals := fun i => s.weight g w (idx (if o.u then 0 else i))
          .ok ((s1.laneResult g slot p r false (laneClass o.u 1) vals).holdBanks g slot (s.bankCycles g runs))

/-! ## Barriers -/

/-- The barrier address: g[A], checked with size 8 (R320, R321). -/
def State.barrierAt (s : State) (g : Group) (p : Path) (x : Nat) : Except Stop Block :=
  match s.scratchFault g x 8 8 with
  | some (_, c) => .error (.trap c p.lanes x)
  | none =>
    match s.memberBlock g (memberOf x) with
    | none => .error (.park (.gang (memberOf x)))
    | some b => .ok b

/-- The path waits: in its core's file where an entry holds the barrier or is free, else polling (R323). It stands at the first prefix of the
word, which completes when it wakes (R72). -/
def State.waitBarrier (s : State) (g : Group) (slot : Bool) (block off : Nat) (phase : Bool) : State :=
  match s.cluster? g.cluster with
  | none => s
  | some c =>
    let mine := c.barFile.filter fun e => e.1 == g.core
    let held := mine.any fun e => e == (g.core, block, off)
    let poll := !held && decide (32 ≤ mine.length)
    let s1 := if held || poll then s
      else s.modCluster g.cluster fun c => { c with barFile := c.barFile ++ [(g.core, block, off)] }
    s1.setGroup (g.modPath slot fun q =>
      { q with wait := .barrier block off phase poll, chain := Chain.none, readyAt := s.ticks })

/-- What a barrier word has as its acquire, or its release (R201): the path's loads from before it are dropped (log 3). -/
def Group.acquire (g : Group) (slot : Bool) : Group := g.modPath slot Path.forget

/-- A word that traps after an access to a barrier word: the access is charged (R263, R302). -/
def State.barrierTrap (s : State) (g : Group) (slot : Bool) (p : Path) (c : Cause) (addr : Nat) : State :=
  (s.charge g.ctx 8 1).trapPath g.id slot c p.lanes addr

/-- BARA and BARS: the release, the arrival as one access, and for BARS the wait (R322). -/
def barrierArrive (o : UniAB) (waits : Bool) (s : State) : Out :=
  s.word fun g slot p => do
    let r ← (formCtl .absent (.us o.a) (.us o.b) regOnly).operands g p
    let x := (g.greg r.a.num).toNat
    let b ← s.barrierAt g p x
    releaseFirst s g p 2
    let off := offsetOf x
    let w := leNat (b.scratch.bytes off 8)
    let c := (g.greg r.b.num).toNat
    if barMalformed w || c == 0 || decide (65536 ≤ c) || decide (barExpect w < barArrived w + c) then
      .ok (s.barrierTrap g slot p .barrier 0)
    else if (firstPoison b.psn off 8).isSome then .ok (s.barrierTrap g slot p .poison x)
    else
      let w1 := barArrive w c
      let s1 := ((s.modBlock b.id fun b => b.put off (leBytes 8 w1)).charge g.ctx 8 1).raiseHorizons
        g.id s.now true
      let flipped := barPhase w != barPhase w1
      let s2 := if flipped then s1.phaseChanged b.id off (barPhase w1) else s1
      match s2.group? g.id with
      | none => .ok s2
      | some g2 =>
        .ok (if !waits || flipped then s2.finish (g2.acquire slot) slot 12
          else s2.waitBarrier (g2.acquire slot) slot b.id off (barPhase w))

/-- BARA (R322). -/
def execBara (o : UniAB) : State → Out := barrierArrive o false

/-- BARS (R322). -/
def execBars (o : UniAB) : State → Out := barrierArrive o true

/-- BARW (R322). -/
def execBarw (o : UniAB) (s : State) : Out :=
  s.word fun g slot p => do
    let r ← (formCtl .absent (.us o.a) (.us o.b) regOnly).operands g p
    let x := (g.greg r.a.num).toNat
    let b ← s.barrierAt g p x
    let off := offsetOf x
    let w := leNat (b.scratch.bytes off 8)
    if barMalformed w then .ok (s.barrierTrap g slot p .barrier 0)
    else if (firstPoison b.psn off 8).isSome then .ok (s.barrierTrap g slot p .poison x)
    else
      let s1 := s.charge g.ctx 8 1
      let awaited := (g.greg r.b.num).getLsbD 0
      match s1.group? g.id with
      | none => .ok s1
      | some g1 =>
        .ok (if barPhase w != awaited then s1.finish (g1.acquire slot) slot 12 else s1.waitBarrier g1 slot b.id off awaited)

/-- BARRIER_POLL: every 64 cluster cycles a polling waiter reads the word, and wakes where PHASE differs (R323). -/
def onBarrierPoll (gid : Nat) (slot : Bool) (s : State) : Option State :=
  s.pathEvent gid slot
    (fun g p =>
      match p.wait with
      | .barrier _ _ _ true => decide (p.readyAt + 64 * s.cycle g.cluster ≤ s.ticks)
      | _ => false)
    fun g p =>
      match p.wait with
      | .barrier block off phase _ =>
        let s1 := s.charge g.ctx 8 1
        let now := (s.block? block).map fun b => barPhase (leNat (b.scratch.bytes off 8))
        if now == some phase then s1.modGroup gid fun g => g.modPath slot fun q => { q with readyAt := s.ticks }
        else s1.wakeWaiter gid slot
      | _ => s

/-- BARRIER_POLL; nothing happens where it cannot occur (log 48). -/
def execBarrierPoll (gid : Nat) (slot : Bool) (s : State) : Out := s.occurs (onBarrierPoll gid slot s)

end Sys2Proof.Machine
end

