-- ==== Sys2Proof/Machine/LaneInt.lean ====
section
/-!
DEFINITION. The lane-set integer words: arithmetic, logic, shifts, compares, SEL, the integer unary functions, MIX, BPERM and
QMUL (R303, R307, R327, R331, R336, R360 to R364, R372, R378, R381, R386, R391, R406, R409, R410, R462).
-/
namespace Sys2Proof.Machine

/-- IADD (R360). -/
def execIadd (o : LaneR) : State → Out := lane2 o 1 (fun a b => a + b)

/-- ISUB (R360). -/
def execIsub (o : LaneR) : State → Out := lane2 o 1 (fun a b => a - b)

/-- IMUL (R364). -/
def execImul (o : LaneR) : State → Out := lane2 o 1 (fun a b => a * b)

/-- IMULHS (R364). -/
def execImulhs (o : LaneR) : State → Out := lane2 o 1 mulHighS

/-- IMULHN (R364). -/
def execImulhn (o : LaneR) : State → Out := lane2 o 1 mulHighN

/-- IMAD (R362). -/
def execImad (o : LaneR) : State → Out := lane3 o 1 (fun a b d => a * b + d)

/-- AND (R307). -/
def execAnd (o : LaneR) : State → Out := lane2 o 1 (fun a b => a &&& b)

/-- OR (R386). -/
def execOr (o : LaneR) : State → Out := lane2 o 1 (fun a b => a ||| b)

/-- XOR (R462). -/
def execXor (o : LaneR) : State → Out := lane2 o 1 (fun a b => a ^^^ b)

/-- ANDN (R307). -/
def execAndn (o : LaneR) : State → Out := lane2 o 1 (fun a b => a &&& ~~~b)

/-- SHL (R410). -/
def execShl (o : LaneR) : State → Out := lane2 o 1 shlWord

/-- SHR (R410). -/
def execShr (o : LaneR) : State → Out := lane2 o 1 shrWord

/-- SRA (R410). -/
def execSra (o : LaneR) : State → Out := lane2 o 1 sraWord

/-- IMINS (R363). -/
def execImins (o : LaneR) : State → Out := lane2 o 1 minS

/-- IMAXS (R363). -/
def execImaxs (o : LaneR) : State → Out := lane2 o 1 maxS

/-- IMINN (R363). -/
def execIminn (o : LaneR) : State → Out := lane2 o 1 minN

/-- IMAXN (R363). -/
def execImaxn (o : LaneR) : State → Out := lane2 o 1 maxN

/-- ICMPEQ (R361). -/
def execIcmpeq (o : LaneR) : State → Out := lane2 o 1 (fun a b => boolWord (a == b))

/-- ICMPNE (R361). -/
def execIcmpne (o : LaneR) : State → Out := lane2 o 1 (fun a b => boolWord (a != b))

/-- ICMPLT (R361). -/
def execIcmplt (o : LaneR) : State → Out := lane2 o 1 (fun a b => boolWord (a.slt b))

/-- ICMPLE (R361). -/
def execIcmple (o : LaneR) : State → Out := lane2 o 1 (fun a b => boolWord (a.sle b))

/-- ICMPLTN (R361). -/
def execIcmpltn (o : LaneR) : State → Out := lane2 o 1 (fun a b => boolWord (a.ult b))

/-- ICMPLEN (R361). -/
def execIcmplen (o : LaneR) : State → Out := lane2 o 1 (fun a b => boolWord (a.ule b))

/-- SEL (R406). -/
def execSel (o : LaneR) : State → Out := lane3 o 1 (fun a b d => selWord d a b)

/-- MOV (R381). -/
def execMov (o : LaneU) : State → Out := lane1 o 1 (fun a => a)

/-- NEG (R381). -/
def execNeg (o : LaneU) : State → Out := lane1 o 1 (fun a => -a)

/-- NOT (R381). -/
def execNot (o : LaneU) : State → Out := lane1 o 1 (fun a => ~~~a)

/-- ABS (R303). -/
def execAbs (o : LaneU) : State → Out := lane1 o 1 absWord

/-- CLZ (R336). -/
def execClz (o : LaneU) : State → Out := lane1 o 1 clzWord

/-- POPC (R381). -/
def execPopc (o : LaneU) : State → Out := lane1 o 1 popcWord

/-- BREV (R331). -/
def execBrev (o : LaneU) : State → Out := lane1 o 1 brevWord

/-- MIX (R378). -/
def execMix (o : LaneR) : State → Out := lane2 o 1 mixWord

/-- IADDI: the immediate is the word's, extended by an IMM prefix (R360). -/
def execIaddi (o : LaneI) : State → Out :=
  lanePlain (formA o.u o.nw o.d o.a regImm) false 1 anyImm fun ps a _ _ => a + wordOf (signedImm ps o.imm.toNat 7)

/-- The shift count of QMUL: 16, or bits 4:0 of an IMM prefix (R67). -/
def qmulCount (ps : Prefixes) : Nat := (ps.imm.map fun v => v.toNat % 32).getD 16

/-- A count of 31, or bits above bit 4, is ILLEGAL (R67). -/
def qmulOk (ps : Prefixes) : Bool := (ps.imm.map fun v => decide (v.toNat < 31)).getD true

/-- QMUL (R391). -/
def execQmul (o : LaneR) : State → Out :=
  lanePlain (formR o regImm) false 1 qmulOk fun ps a b _ => qmulWord (qmulCount ps) a b

/-- The selector of BPERM (R67, R327). -/
def bpermSel (ps : Prefixes) : Nat := (ps.imm.map fun v => v.toNat).getD 0x3210
def bpermOk (ps : Prefixes) : Bool := (ps.imm.map fun v => decide (v.toNat < 65536)).getD true

/-- BPERM (R327). -/
def execBperm (o : LaneR) : State → Out :=
  lanePlain (formR o regImm) false 1 bpermOk fun ps a b _ => bpermWord (bpermSel ps) a b

/-- SHLI (R409). -/
def execShli (o : LaneS) : State → Out := laneShift o fun a n => a <<< n

/-- SHRI (R409). -/
def execShri (o : LaneS) : State → Out := laneShift o fun a n => a >>> n

/-- SRAI (R409). -/
def execSrai (o : LaneS) : State → Out := laneShift o fun a n => a.sshiftRight n

/-- ROTLI (R409). -/
def execRotli (o : LaneS) : State → Out := laneShift o rotlWord

/-- LID: each lane receives its own index; A holds no register (R372). -/
def execLid (o : LaneD) (s : State) : Out :=
  s.word fun g slot p => do
    let f : Form := { d := .vd o.d 1, a := .absent, b := .absent, accepts := regOnly, chain := true, uniSet := false,
                      u := false, nw := o.nw }
    let r ← f.operands g p
    let _ ← queueCheck s g p.lanes none r.d.queue?
    .ok (s.laneResult g slot p r o.nw 1 fun i => BitVec.ofNat 32 i)

end Sys2Proof.Machine
end

