-- ==== Sys2Proof/Machine/Uniform.lean ====
section
/-!
DEFINITION. The uniform arithmetic words, OP7 0x00 to 0x21 (R435 to R438, R441 to R444, R447 to R453).
-/
namespace Sys2Proof.Machine

/-- The form of a uniform arithmetic word. -/
def formUni (d a b : Fld) (acc : Accepts) : Form :=
  { d := d, a := a, b := b, accepts := acc, chain := true, uniSet := true, u := false, nw := false }

/-- A uniform arithmetic word: `body ps a b d` is g[D] (R435). -/
def uniPlain (f : Form) (ok : Prefixes → Bool) (body : Prefixes → Word → Word → Word → Word) (s : State) : Out :=
  s.word fun g slot p => do
    let o ← f.operands g p ok
    let x := body o.ps (o.uniSrc g o.a) (o.uniSrc g o.b) (g.greg o.d.num)
    .ok (s.finishAt (g.setG o.d.num x) slot p.nextPc (chainUni o.chain o.readsLatch x) 0)

/-- UR words of two sources. -/
def uni2 (o : UniR) (f : Word → Word → Word) : State → Out :=
  uniPlain (formUni (.ud o.d 1) (.us o.a) (.us o.b) regOnly) anyImm fun _ a b _ => f a b

/-- UR words that read g[D]. -/
def uni3 (o : UniR) (f : Word → Word → Word → Word) : State → Out :=
  uniPlain (formUni (.ud o.d 1) (.us o.a) (.us o.b) regOnly) anyImm fun _ a b d => f a b d

/-- The uniform unary group. -/
def uni1 (o : UniU) (f : Word → Word) : State → Out :=
  uniPlain (formUni (.ud o.d 1) (.us o.a) .absent regOnly) anyImm fun _ a _ _ => f a

/-- The immediate uniform shifts. -/
def uniShift (o : UniS) (f : Word → Nat → Word) : State → Out :=
  uniPlain (formUni (.ud o.d 1) (.us o.a) .absent regOnly) anyImm fun _ a _ _ => f a o.s.toNat

/-- A 64-bit value from a pair of group registers (R3). -/
def pairOf (g : Group) (n : Nat) : DWord := g.greg (n + 1) ++ g.greg n

/-- UADD64 and USUB64: pairs; k0 takes the low word (R435, R437). -/
def uniPair (o : UniR) (f : DWord → DWord → DWord) (s : State) : Out :=
  s.word fun g slot p => do
    let r ← (formUni (.ud o.d 2) (.ud o.a 2) (.ud o.b 2) regOnly).operands g p
    let x := f (pairOf g r.a.num) (pairOf g r.b.num)
    let lo := x.extractLsb' 0 32
    .ok (s.finishAt (g.setGs r.d.num [lo, x.extractLsb' 32 32]) slot p.nextPc (chainUni r.chain r.readsLatch lo) 0)

/-- UADD (R436). -/
def execUadd (o : UniR) : State → Out := uni2 o (fun a b => a + b)

/-- USUB (R436). -/
def execUsub (o : UniR) : State → Out := uni2 o (fun a b => a - b)

/-- UMUL (R449). -/
def execUmul (o : UniR) : State → Out := uni2 o (fun a b => a * b)

/-- UMULHS (R449). -/
def execUmulhs (o : UniR) : State → Out := uni2 o mulHighS

/-- UMULHN (R449). -/
def execUmulhn (o : UniR) : State → Out := uni2 o mulHighN

/-- UAND (R438). -/
def execUand (o : UniR) : State → Out := uni2 o (fun a b => a &&& b)

/-- UOR (R438). -/
def execUor (o : UniR) : State → Out := uni2 o (fun a b => a ||| b)

/-- UXOR (R438). -/
def execUxor (o : UniR) : State → Out := uni2 o (fun a b => a ^^^ b)

/-- UANDN (R438). -/
def execUandn (o : UniR) : State → Out := uni2 o (fun a b => a &&& ~~~b)

/-- USHL (R453). -/
def execUshl (o : UniR) : State → Out := uni2 o shlWord

/-- USHR (R453). -/
def execUshr (o : UniR) : State → Out := uni2 o shrWord

/-- USRA (R453). -/
def execUsra (o : UniR) : State → Out := uni2 o sraWord

/-- UMINS (R448). -/
def execUmins (o : UniR) : State → Out := uni2 o minS

/-- UMAXS (R448). -/
def execUmaxs (o : UniR) : State → Out := uni2 o maxS

/-- UMINN (R448). -/
def execUminn (o : UniR) : State → Out := uni2 o minN

/-- UMAXN (R448). -/
def execUmaxn (o : UniR) : State → Out := uni2 o maxN

/-- UCMPEQ (R442). -/
def execUcmpeq (o : UniR) : State → Out := uni2 o (fun a b => boolWord (a == b))

/-- UCMPNE (R442). -/
def execUcmpne (o : UniR) : State → Out := uni2 o (fun a b => boolWord (a != b))

/-- UCMPLT (R442). -/
def execUcmplt (o : UniR) : State → Out := uni2 o (fun a b => boolWord (a.slt b))

/-- UCMPLE (R442). -/
def execUcmple (o : UniR) : State → Out := uni2 o (fun a b => boolWord (a.sle b))

/-- UCMPLTN (R442). -/
def execUcmpltn (o : UniR) : State → Out := uni2 o (fun a b => boolWord (a.ult b))

/-- UCMPLEN (R442). -/
def execUcmplen (o : UniR) : State → Out := uni2 o (fun a b => boolWord (a.ule b))

/-- USEL (R451). -/
def execUsel (o : UniR) : State → Out := uni3 o (fun a b d => selWord d a b)

/-- UMOV (R441). -/
def execUmov (o : UniU) : State → Out := uni1 o (fun a => a)

/-- UNEG (R441). -/
def execUneg (o : UniU) : State → Out := uni1 o (fun a => -a)

/-- UNOT (R441). -/
def execUnot (o : UniU) : State → Out := uni1 o (fun a => ~~~a)

/-- UCLZ (R441). -/
def execUclz (o : UniU) : State → Out := uni1 o clzWord

/-- UPOPC (R441). -/
def execUpopc (o : UniU) : State → Out := uni1 o popcWord

/-- UBREV (R441). -/
def execUbrev (o : UniU) : State → Out := uni1 o brevWord

/-- UFFS (R441). -/
def execUffs (o : UniU) : State → Out := uni1 o ffsWord

/-- UF2I (R443). -/
def execUf2i (o : UniU) : State → Out := uni1 o (f2i .nearest)

/-- UI2F (R443). -/
def execUi2f (o : UniU) : State → Out := uni1 o i2f

/-- UFADD (R444). -/
def execUfadd (o : UniR) : State → Out := uni2 o fadd

/-- UFMUL (R444). -/
def execUfmul (o : UniR) : State → Out := uni2 o fmul

/-- UFFMA (R444). -/
def execUffma (o : UniR) : State → Out := uni3 o ffma

/-- USHLI (R452). -/
def execUshli (o : UniS) : State → Out := uniShift o (fun a n => a <<< n)

/-- USHRI (R452). -/
def execUshri (o : UniS) : State → Out := uniShift o (fun a n => a >>> n)

/-- USRAI (R452). -/
def execUsrai (o : UniS) : State → Out := uniShift o (fun a n => a.sshiftRight n)

/-- UROTLI (R452). -/
def execUrotli (o : UniS) : State → Out := uniShift o rotlWord

/-- UADDI (R436). -/
def execUaddi (o : UniI) : State → Out :=
  uniPlain (formUni (.ud o.d 1) (.us o.a) .absent regImm) anyImm fun ps a _ _ => a + wordOf (signedImm ps o.imm.toNat 8)

/-- ULI: the upper half comes from an IMM prefix whose bits 21:16 are zero (R67, R447). -/
def uliOk (ps : Prefixes) : Bool := (ps.imm.map fun v => decide (v.toNat < 65536)).getD true
def execUli (o : UniL) : State → Out :=
  uniPlain (formUni (.ud o.d 1) .absent .absent regImm) uliOk fun ps _ _ _ =>
    BitVec.ofNat 32 (((ps.imm.map fun v => v.toNat).getD 0) * 65536 + o.imm.toNat)

/-- ULIH: bits 31:16 (R447). -/
def execUlih (o : UniL) : State → Out :=
  uniPlain (formUni (.ud o.d 1) .absent .absent regOnly) anyImm fun _ _ _ d => o.imm ++ d.extractLsb' 0 16

/-- UQMUL (R450). -/
def execUqmul (o : UniR) : State → Out :=
  uniPlain (formUni (.ud o.d 1) (.us o.a) (.us o.b) regImm) qmulOk fun ps a b _ => qmulWord (qmulCount ps) a b

/-- UADD64 (R437). -/
def execUadd64 (o : UniR) : State → Out := uniPair o fun a b => a + b

/-- USUB64 (R437). -/
def execUsub64 (o : UniR) : State → Out := uniPair o fun a b => a - b

end Sys2Proof.Machine
end

