-- ==== Sys2Proof/Machine/Queue.lean ====
section
/-!
DEFINITION. Address registers, queue bindings and bank modes: ADDR and AQRY (R304 to R308), QBIND and QSTAT (R155 to R157, R389,
R390, R393), BANKCFG (R152, R153); the events BANKCFG_DONE and BANK_ALLOCATE (R150).
-/
namespace Sys2Proof.Machine

/-! ## ADDR and AQRY -/

/-- LIMIT, FRAME and the leaf of a base (R211, R305). LIMIT is 0 where the span meets the range of a shootdown that has not completed (R306). -/
def State.frameOf (s : State) (vf cid : Nat) (base : Nat) (ext : Nat) (charged : Bool := true) : State × Nat × Nat × LeafInfo :=
  let none_ := (s, 0, 0, AddrReg.reset.leaf)
  if !canonical base then none_
  else
    match s.mature.walk cid base charged with
    | (s1, .leaf e) =>
      if (e.leaf.cls == 0 || e.leaf.cls == 1) && e.res == 0 then
        match s1.place e base with
        | .mem key =>
          let lim := min ext (e.page + e.size - base % 2 ^ 57)
          let shot := s.shootdowns.any fun d => d.vf == vf && (d.ctx.isNone || d.ctx == some cid) && overlaps (base % 2 ^ 57) lim (d.lo % 2 ^ 57) (d.hi - d.lo)
          (s1, if shot then 0 else lim, key, e.leaf)
        | _ => (s1, 0, 0, AddrReg.reset.leaf)
      else (s1, 0, 0, AddrReg.reset.leaf)
    | (s1, _) => (s1, 0, 0, AddrReg.reset.leaf)

/-- The register that ADDR sets (R305). -/
def addrReg (base : DWord) (ext : Word) (lim frm : Nat) (leaf : LeafInfo) : AddrReg :=
  { base := base, extent := ext, limit := BitVec.ofNat 32 lim, frame := BitVec.ofNat 40 frm, leaf := leaf, valid := true }

/-- ADDR (R305). -/
def execAddr (o : UniN) (s : State) : Out :=
  s.word fun g slot p => do
    let r ← (formCtl .absent (.ud o.a 2) (.us o.b) regOnly).operands g p
    let base := pairOf g r.a.num
    let ext := g.greg r.b.num
    let (s1, lim, frm, leaf) := s.frameOf g.vf g.ctx base.toNat ext.toNat
    .ok (s1.finish { g with areg := modifyAt g.areg o.n.toNat fun _ => addrReg base ext lim frm leaf } slot 12)

/-- AQRY (R308). -/
def execAqry (o : UniQ) (s : State) : Out :=
  s.word fun g slot p => do
    let r ← (formCtl (.ud o.d 1) .absent .absent regOnly).operands g p
    let a := g.addr o.n.toNat
    .ok (s.finish (g.setG r.d.num (if a.valid then a.limit else 0)) slot 0)

/-! ## QBIND and QSTAT -/

/-- The mode word of QBIND (R155). -/
structure BindMode where
  role : Nat
  mc : Bool
  subs : Nat
  wlog : Nat
deriving DecidableEq, Repr

def bindMode (w : Word) : BindMode := { role := field w 0 2, mc := bitAt w 2, subs := field w 3 4, wlog := field w 7 2 }

/-- The FIFO's banks overlap a span. -/
def Fifo.meets (f : Fifo) (first w : Nat) : Bool := decide (f.first < first + w) && decide (first < f.first + f.width)

/-- The span is in FIFO mode and allocated to the context (R156). -/
def Cluster.spanOk (c : Cluster) (first w ctx : Nat) : Bool :=
  (List.range w).all fun i =>
    match c.banks[first + i]? with
    | some b => b.mode == .fifo && b.owner == some ctx
    | none => false

/-- QBIND with a role raises QUEUE (R156). -/
def bindRefused (c : Cluster) (ctx first : Nat) (m : BindMode) : Bool :=
  let w := 2 ^ m.wlog
  (!m.mc && m.subs != 0) || first % w != 0 || !c.spanOk first w ctx ||
    (c.fifos.any fun f => f.meets first w && (f.first != first || f.wlog != m.wlog || f.mc != m.mc || (f.mc && f.subs != m.subs + 1))) ||
    (m.mc && decide (2 ≤ m.role) && c.fifos.any fun f => f.first == first && decide (m.subs + 1 < f.readers.length + 1))

/-- qN bound to a FIFO, which the binding sets up where it keeps nothing (R155, R157). -/
def State.bind (s : State) (g : Group) (q first : Nat) (m : BindMode) : State :=
  let s1 := s.modCluster g.cluster fun c =>
    let fresh : Fifo := { first := first, wlog := m.wlog, mc := m.mc, subs := if m.mc then m.subs + 1 else 1, rows := [], base := 0,
                          readers := [], bound := [], rate := (0, 0, 0) }
    let c1 := if (c.fifo? first).isSome then c else { c with fifos := c.fifos ++ [fresh] }
    { c1 with fifos := c1.fifos.map fun f =>
        if f.first == first then
          { f with bound := f.bound ++ [(g.id, q)],
                   readers := if f.mc && decide (2 ≤ m.role) then
                       f.readers ++ [{ grp := g.id, q := q, pos := f.base, retired := false }] else f.readers }
        else f }
  s1.modGroup g.id fun g => { g with qreg := modifyAt g.qreg q fun _ => some { bank := first, role := BitVec.ofNat 2 m.role } }

/-- The sibling parked on qN executes its word again (R390). -/
def State.wakeSibling (s : State) (gid : Nat) (slot : Bool) (q : Nat) : State :=
  s.modGroup gid fun g => g.modPath (!slot) fun o =>
    match o.wait with
    | .queue a b => if a == some q || b == some q then o.wake s.ticks else o
    | _ => o

/-- QBIND (R156, R389). -/
def execQbind (o : UniN) (s : State) : Out :=
  s.word fun g slot p => do
    let r ← (formCtl .absent (.us o.a) (.us o.b) regOnly).operands g p
    let bank := g.greg r.a.num
    let mode := g.greg r.b.num
    let m := bindMode mode
    trapIf (decide (16 ≤ bank.toNat) || decide (512 ≤ mode.toNat)) .queue p.lanes
    let q := o.n.toNat
    match s.cluster? g.cluster with
    | none => .error (.trap .queue p.lanes 0)
    | some c => do
      trapIf (m.role != 0 && bindRefused c g.ctx bank.toNat m) .queue p.lanes
      let s1 := s.unbind g.id q
      let s2 := if m.role = 0 then s1 else s1.bind g q bank.toNat m
      let s3 := s2.wakeSibling g.id slot q
      match s3.group? g.id with
      | none => .ok s3
      | some g3 => .ok (s3.finish g3 slot 12)

/-- The word of QSTAT (R393). -/
def State.queueWord (s : State) (g : Group) (q : Nat) : Word :=
  match s.fifoOf g q with
  | some (f, role) => queueStatus role f.mc (f.avail g.id q) f.room
  | none => 0

/-- QSTAT (R393). -/
def execQstat (o : UniQ) (s : State) : Out :=
  s.word fun g slot p => do
    let r ← (formCtl (.ud o.d 1) .absent .absent regOnly).operands g p
    .ok (s.finish (g.setG r.d.num (s.queueWord g o.n.toNat)) slot 12)

/-! ## Bank modes -/

def bankModeOf (n : Nat) : BankMode := if n = 0 then .cache else if n = 1 then .scratch else .fifo

/-- Why a bank may not leave its mode; 0 when it may (R152, R153). -/
def Cluster.bankBusy (c : Cluster) (n : Nat) (b : Bank) : Nat :=
  let on := c.fifos.filter fun f => f.meets n 1
  match b.mode with
  | .cache => 0
  | .scratch => if b.granules = 0 then 0 else 1
  | .fifo => if on.any fun f => !f.rows.isEmpty then 2 else if on.any fun f => !f.bound.isEmpty then 3 else 0

/-- Every line of a bank leaves the cluster cache (R153). -/
def State.emptyBank (s : State) (cl n : Nat) : State :=
  let lines := ((s.cluster? cl).map fun c => c.lines.filter fun l => l.bank == n).getD []
  lines.foldl (fun s l => s.evict cl l) s

def State.modBank (s : State) (cl n : Nat) (f : Bank → Bank) : State :=
  s.modCluster cl fun c => { c with banks := modifyAt c.banks n f }

/-- BANKCFG (R152, R153). -/
def execBankcfg (o : UniR) (s : State) : Out :=
  s.word fun g slot p => do
    let r ← (formCtl (.ud o.d 1) (.us o.a) (.us o.b) regOnly).operands g p
    let n := (g.greg r.a.num).toNat
    let m := (g.greg r.b.num).toNat
    trapIf (decide (16 ≤ n) || decide (3 ≤ m)) .format p.lanes
    match (s.cluster? g.cluster).bind fun c => (c.banks[n]?).map fun b => (c, b) with
    | none => .error (.trap .priv p.lanes 0)
    | some (c, b) => do
      trapIf (b.owner != some g.ctx) .priv p.lanes
      let answer := fun (s : State) (why : Nat) =>
        match s.group? g.id with
        | none => s
        | some g => s.finish (g.setG r.d.num (bankStatus why)) slot 12
      if b.leaving then .ok (answer s 4)
      else if b.mode == bankModeOf m then .ok (answer s 0)
      else
        match c.bankBusy n b with
        | 0 =>
          if b.mode == .cache && c.lines.any fun l => l.bank == n && l.kind == .updateOnly then
            let s1 := (s.mature.modBank g.cluster n fun b => { b with leaving := true }).emptyBank g.cluster n
            .ok (s1.modGroup g.id fun g => g.modPath slot fun q =>
              { q with wait := .bankcfg n m r.d.num, chain := Chain.none })
          else
            let s1 := if b.mode == .cache then s.emptyBank g.cluster n else s
            .ok (answer (s1.modBank g.cluster n fun b => { b with mode := bankModeOf m, granules := 0 }) 0)
        | why => .ok (answer s why)

/-- Partials of a cluster are on their way to homes (R153, R163). -/
def State.partialsAway (s : State) (cl : Nat) : Bool := s.flights.any fun f => f.grp == noGroup && f.cluster == cl

/-- BANKCFG_DONE: every partial has been accepted at its home; the bank enters its mode and the word completes (R153). -/
def onBankcfgDone (gid : Nat) (slot : Bool) (s : State) : Option State :=
  match (s.group? gid).bind fun g => (g.path slot).map fun p => (g, p) with
  | none => none
  | some (g, p) =>
    match p.wait with
    | .bankcfg n mode dst =>
      if s.partialsAway g.cluster then none else
      let s1 := s.modBank g.cluster n fun b => { b with mode := bankModeOf mode, granules := 0, leaving := false }
      match s1.group? gid with
      | none => none
      | some g1 => some ((s1.finish (g1.setG dst (bankStatus 0)) slot 12).wakeMopf gid)
    | _ => none

/-- BANKCFG_DONE; nothing happens where it cannot occur (log 48). -/
def execBankcfgDone (gid : Nat) (slot : Bool) (s : State) : Out := s.occurs (onBankcfgDone gid slot s)

/-- BANK_ALLOCATE: a bank is given to a context, or to none, with its initial mode; a bank that is in use keeps its own (R150). -/
def execBankAllocate (cl bank ctx mode : Nat) (s : State) : Out :=
  s.command (.bankAllocate cl bank ctx mode) <|
    match (s.cluster? cl).bind fun c => (c.banks[bank]?).map fun b => (c, b) with
    | none => .next s
    | some (c, b) =>
      if b.leaving || c.bankBusy bank b != 0 || decide (3 ≤ mode) then .next s
      else
        let owner := (s.ctx? ctx).map fun _ => ctx
        let s1 := if b.mode == .cache then s.mature.emptyBank cl bank else s
        .next (s1.modBank cl bank fun _ =>
          { mode := if owner.isSome then bankModeOf mode else .cache, owner := owner, granules := 0, leaving := false })

end Sys2Proof.Machine
end

