-- ==== Sys2Proof/Machine/Tuple.lean ====
section
/-!
DEFINITION. Tuple regions (R175 to R187): the words TSDEP, TSCPY and TSTAK (R429 to R431), the events TUPLE_REGION_REGISTER,
TUPLE_DEPOSIT_AT_HOME, TUPLE_TAKE_AT_HOME and TUPLE_RESULT_DELIVERY, and the cancelling of parked requests (R185).
-/
namespace Sys2Proof.Machine

/-! ## Descriptors and matching -/

/-- The match form of field i: 0 ANY, 1 EQ, 2 MASKEQ (R178). -/
def formOf (mode : BitVec 8) (i : Nat) : Nat := mode.toNat / 2 ^ (2 * i) % 4

/-- A stored tuple matches a request (R179). -/
def TupleReq.accepts (r : TupleReq) (tag : Word) (fields : List DWord) : Bool :=
  tag == r.tag && fields.length == r.vals.length &&
    (List.range fields.length).all fun i =>
      let f := (fields[i]?).getD 0
      let v := (r.vals[i]?).getD 0
      let m := (r.masks[i]?).getD 0
      match formOf r.mode i with
      | 0 => true
      | 1 => f == v
      | _ => (f &&& m) == (v &&& m)

/-- A descriptor's second word obeys R178. -/
def modeOk (kind : TupleKind) (c : Nat) (w : Word) : Bool :=
  if kind == .dep then w == 0
  else decide (w.toNat < 256) &&
    (List.range 4).all fun i => formOf (w.extractLsb' 0 8) i != 3 && (decide (i < c) || formOf (w.extractLsb' 0 8) i == 0)

/-- Home slice of a tag in a region, among a partition's slices (R176). -/
def tagSlice (tag : Word) (base : Nat) (units : Nat) : Nat :=
  let x := tag.toNat ^^^ (base / 65536 % 2 ^ 32)
  (((x % 64) ^^^ (x / 64 % 64) ^^^ (x / 2 ^ 12 % 64) ^^^ (x / 2 ^ 18 % 64) ^^^ (x / 2 ^ 24 % 64) ^^^ (x / 2 ^ 30 % 4))) % (4 * units)

/-- Rank of a requester: PARTID, core, group slot, path slot (R184). -/
def requesterRank (part : Nat) (g : Group) (slot : Bool) : Nat :=
  ((part * 256 + 4 * g.cluster + g.core) * 96 + g.slot) * 2 + (if slot then 1 else 0)

/-! ## The words (R430) -/

/-- Registers of the result run: the status, and for a match form the tag and c fields (R429). -/
def resultRegs (kind : TupleKind) (c : Nat) : Nat := if kind == .dep then 1 else 2 + 2 * c

/-- Registers of the descriptor (R178). -/
def descRegs (kind : TupleKind) (c : Nat) : Nat := if kind == .dep then 2 + 2 * c else 2 + 4 * c

/-- A status alone: the word completes with g[D] written (R180), and a match form acquires (R187). -/
def State.tupleStatus (s : State) (g : Group) (slot : Bool) (d status : Nat) : State :=
  s.finish ((g.setG d (BitVec.ofNat 32 status)).modPath slot Path.forget) slot 11

/-- The region a register names, with its size (R175, R180). -/
def State.region? (s : State) (g : Group) (a : AddrReg) : Option (Nat × Nat) :=
  if a.valid then ((s.vf? g.vf).bind fun v => v.regions.find? fun r => r.1 == a.base.toNat) else none

/-- The partition whose slices home a region's tuples: the first of the function, so that a tag has one home whichever partition asks
(R176, log 33). -/
def State.tuplePart (s : State) (g : Group) : Nat := (((s.vf? g.vf).map fun v => v.parts).getD []).headD (s.partOf g.ctx)

/-- A request on its way to its home, its descriptor read now; a deposit whose release is not complete sets out when it is (R187, R430). -/
def State.sendTuple (s : State) (g : Group) (slot : Bool) (kind : TupleKind) (wait : Bool) (d a c base : Nat) : State :=
  let (i, s1) := s.newId
  let pid := s.tuplePart g
  let tag := g.greg a
  let stride := if kind == .dep then 2 else 4
  let slice := match s.part? pid with
    | some p => p.cfg.sliceNo (tagSlice tag base p.cfg.units.length)
    | none => 0
  let r : TupleReq :=
    { id := i, grp := g.id, slot := slot, kind := kind, wait := wait, d := d, tag := tag,
      mode := (g.greg (a + 1)).extractLsb' 0 8,
      vals := (List.range c).map fun i => pairOf g (a + 2 + stride * i),
      masks := if kind == .dep then [] else (List.range c).map fun i => pairOf g (a + 4 + 4 * i),
      vf := g.vf, base := base, part := pid, slice := slice, arrived := 0, rank := requesterRank (s.partOf g.ctx) g slot,
      stage := if kind == TupleKind.dep && !s.released g 5 then .releasing else .travelling }
  ({ s1 with tupleReqs := s1.tupleReqs ++ [r] }).modGroup g.id fun g => g.modPath slot fun p =>
    { (if kind == TupleKind.dep then p.forget else p) with wait := .tuple i, chain := Chain.none, upTo := i }

/-- A tuple word (R430). -/
def tupleWord (kind : TupleKind) (wait : Bool) (df af : BitVec 8) (c : Nat) (ar : BitVec 3) (s : State) : Out :=
  s.word fun g slot p => do
    let r ← (formCtl (.ud df (resultRegs kind c)) (.ud af (descRegs kind c)) .absent regOnly).operands g p
    trapIf (!modeOk kind c (g.greg (r.a.num + 1))) .format p.lanes
    trapIf (decide (s.scopeMax g < 5)) .scopeDenied p.lanes
    if p.lanes &&& ~~~g.helper = 0 then .ok (s.tupleStatus g slot r.d.num 1)
    else
      let a := g.addr ar.toNat
      match s.region? g a with
      | none => .ok (s.tupleStatus g slot r.d.num 5)
      | some (base, _) =>
        match s.mature.translate g.ctx g.secure .tuple base with
        | (s1, .fault _ c) => .ok (s1.trapPath g.id slot c p.lanes base)
        | (s1, .page l) => .ok (s1.parkPage g.id slot .tuple p.lanes base l [])
        | (s1, .tuple) => .ok (s1.sendTuple g slot kind wait r.d.num r.a.num c base)
        | (s1, _) => .ok (s1.tupleStatus g slot r.d.num 5)

/-- TSDEP (R430). -/
def execTsdep (o : UniTs) : State → Out := tupleWord .dep false o.d o.a o.c.toNat o.ar

/-- TSCPY (R430). -/
def execTscpy (o : UniTsw) : State → Out := tupleWord .cpy o.wait o.d o.a o.c.toNat o.ar

/-- TSTAK (R430). -/
def execTstak (o : UniTsw) : State → Out := tupleWord .tak o.wait o.d o.a o.c.toNat o.ar

/-! ## At the home (R181, R182, R184) -/

/-- Place of a request among those that reach one home in one cycle: deposits first, then by requester (R184). -/
def TupleReq.order (r : TupleReq) (cycle : Nat) : Nat × Nat × Nat := (cycle, if r.kind == .dep then 0 else 1, r.rank)

/-- A request may arrive at its home in this cycle of the uncore clock: none that goes after it has arrived there in the cycle already. -/
def State.inOrder (s : State) (r : TupleReq) : Bool :=
  match s.tupleOrder.get? r.slice with
  | none => true
  | some (cycle, kind, rank) =>
    let o := r.order (s.ticks / 12)
    cycle != o.1 || decide (kind < o.2.1) || (kind == o.2.1 && decide (rank ≤ o.2.2))

/-- The request is the latest to arrive at its home. -/
def State.arriveTuple (s : State) (r : TupleReq) : State :=
  { s with tupleOrder := s.tupleOrder.put r.slice (r.order (s.ticks / 12)) }

def State.setReq (s : State) (r : TupleReq) : State :=
  { s with tupleReqs := s.tupleReqs.map fun x => if x.id == r.id then r else x }

def TupleReq.answer (r : TupleReq) (status : Nat) (tag : Word) (fields : List DWord) (psn : Bool) : TupleReq :=
  { r with stage := .result status tag fields psn }

/-- Parked requests of a region at one home. -/
def State.parkedAt (s : State) (r : TupleReq) : List TupleReq :=
  s.tupleReqs.filter fun x => x.stage == .parked && x.slice == r.slice && x.vf == r.vf && x.base == r.base && x.part == r.part

/-- Stored tuples of a region at one home. -/
def State.storedAt (s : State) (r : TupleReq) : List Tuple :=
  s.tuples.filter fun t => t.slice == r.slice && t.vf == r.vf && t.base == r.base && t.part == r.part

/-- Tuples of a region that one home slice may hold: floor(E / 256U) (R175). -/
def State.share (s : State) (r : TupleReq) : Nat :=
  let e := (((s.vf? r.vf).bind fun v => v.regions.find? fun x => x.1 == r.base).map fun x => x.2).getD 0
  e / (256 * ((s.part? r.part).map fun p => p.cfg.units.length).getD 1)

/-- A deposit acts at its home: copies to parked TSCPYs, then the earliest parked TSTAK, else storage (R182). -/
def State.depositTuple (s : State) (r : TupleReq) : State :=
  let match_ := fun (k : TupleKind) => (s.parkedAt r).filter fun x => x.kind == k && x.accepts r.tag r.vals
  let s1 := (match_ .cpy).foldl (fun s x => s.setReq (x.answer 0 r.tag r.vals false)) s
  let s2 := s1.raiseHorizons r.grp s.now true
  match leastKey (fun x => [x.arrived, x.rank]) (match_ .tak) with
  | some x => (s2.setReq (x.answer 0 r.tag r.vals false)).setReq (r.answer 0 0 [] false)
  | none =>
    if (s.storedAt r).length < s.share r then
      let n := (s.depositSeq.get? r.slice).getD 0
      let t : Tuple := { vf := r.vf, base := r.base, part := r.part, slice := r.slice, tag := r.tag, fields := r.vals, seq := n,
                         psn := false }
      { s2 with tuples := s2.tuples ++ [t], depositSeq := s2.depositSeq.put r.slice (n + 1) }.setReq (r.answer 0 0 [] false)
    else s2.setReq (r.answer 3 0 [] false)

/-- TUPLE_DEPOSIT_AT_HOME (R182, R184). -/
def onTupleDepositAtHome (id : Nat) (s : State) : Option State :=
  match s.tupleReqs.find? fun r => r.id == id && r.kind == .dep && r.stage == .travelling with
  | none => none
  | some r => if s.inOrder r then some ((s.depositTuple r).arriveTuple r) else none

/-- TUPLE_DEPOSIT_AT_HOME; nothing happens where it cannot occur (log 48). -/
def execTupleDepositAtHome (id : Nat) (s : State) : Out := s.occurs (onTupleDepositAtHome id s)

/-- A match form acts at its home: the matching tuple of lowest deposit sequence, or NOMATCH, a park, or PARK_FULL (R181, R183). The cycle
of arrival is one of the uncore clock. -/
def State.takeTuple (s : State) (r : TupleReq) : State :=
  match leastBy (fun t => t.seq) ((s.storedAt r).filter fun t => r.accepts t.tag t.fields) with
  | some t =>
    let s1 := if r.kind == .tak then
        { s with tuples := s.tuples.filter fun x => !(x.slice == t.slice && x.seq == t.seq) } else s
    s1.setReq (r.answer 0 t.tag t.fields t.psn)
  | none =>
    if !r.wait then s.setReq (r.answer 1 0 [] false)
    else if 512 ≤ (s.tupleReqs.filter fun x => x.stage == .parked && x.slice == r.slice).length then
      s.setReq (r.answer 2 0 [] false)
    else s.setReq { r with stage := .parked, arrived := s.ticks / 12 }

/-- TUPLE_TAKE_AT_HOME (R181, R183, R184). -/
def onTupleTakeAtHome (id : Nat) (s : State) : Option State :=
  match s.tupleReqs.find? fun r => r.id == id && r.kind != .dep && r.stage == .travelling with
  | none => none
  | some r => if s.inOrder r then some ((s.takeTuple r).arriveTuple r) else none

/-- TUPLE_TAKE_AT_HOME; nothing happens where it cannot occur (log 48). -/
def execTupleTakeAtHome (id : Nat) (s : State) : Out := s.occurs (onTupleTakeAtHome id s)

/-- A result written into its run: the status, and on MATCHED of a match form the tag and the fields (R180). -/
def Group.putTuple (g : Group) (r : TupleReq) (status : Nat) (tag : Word) (fields : List DWord) : Group :=
  let g1 := g.setG r.d (BitVec.ofNat 32 status)
  if status = 0 && r.kind != .dep then
    (g1.setG (r.d + 1) tag).setGs (r.d + 2)
      (fields.map fun f => [f.extractLsb' 0 32, f.extractLsb' 32 32]).flatten
  else g1

/-- A result delivered: the word completes, and a match form acquires (R187), or it raises POISON with nothing written (R183, R186). TRAP.ADDR
is 0: a tuple has no byte address and no register as its source (R175, R268; log 33). -/
def State.deliver (s : State) (r : TupleReq) : State :=
  let s1 := { s with tupleReqs := s.tupleReqs.filter fun x => x.id != r.id }
  match s1.group? r.grp, r.stage with
  | some g, .result status tag fields psn =>
    if psn then s1.trapPath r.grp r.slot .poison (((g.path r.slot).map fun p => p.lanes).getD 0) 0
    else s1.finish ((g.putTuple r status tag fields).modPath r.slot fun p => if r.kind == .dep then p else p.forget) r.slot 11
  | _, _ => s1

/-- TUPLE_RESULT_DELIVERY (R183). A poisoned result waits while the sibling is in a chain (R46). -/
def onTupleResultDelivery (id : Nat) (s : State) : Option State :=
  match s.tupleReqs.find? fun r => r.id == id with
  | none => none
  | some r =>
    match r.stage with
    | .result _ _ _ psn =>
      if psn && ((s.group? r.grp).map fun g => s.chainHolds g r.slot).getD false then none else some ((s.deliver r).wakeMopf r.grp)
    | _ => none

/-- TUPLE_RESULT_DELIVERY; nothing happens where it cannot occur (log 48). -/
def execTupleResultDelivery (id : Nat) (s : State) : Out := s.occurs (onTupleResultDelivery id s)

/-- TUPLE_REGION_REGISTER: a base and a size that are multiples of 64 KiB (R175). -/
def execTupleRegionRegister (vf base size : Nat) (s : State) : Out :=
  s.command (.tupleRegionRegister vf base size) <|
    if base % 65536 = 0 ∧ size % 65536 = 0 ∧ 0 < size then
      .next (s.modVf vf fun v => { v with regions := v.regions.filter (fun r => r.1 != base) ++ [(base, size)] })
    else .next s

/-- The parked requests of groups that stop are cancelled: a path goes back to its word; a result already formed is delivered
(R185). -/
def State.cancelTuples (s : State) (stops : Group → Bool) : State :=
  s.tupleReqs.foldl (fun s r =>
    match s.group? r.grp with
    | none => s
    | some g =>
      if !stops g then s
      else
        match r.stage with
        | .parked | .releasing =>
          ({ s with tupleReqs := s.tupleReqs.filter fun x => x.id != r.id }).modGroup r.grp fun g =>
            g.modPath r.slot fun p => p.park .ready
        | .result .. => s.deliver r
        | .travelling => s) s

end Sys2Proof.Machine
end

