-- ==== Sys2Proof/Machine/Copy.lean ====
section
/-!
DEFINITION. The cluster copy engine (R202, R339 to R345): CPY with its descriptor and checks, the posted copy as runs of bytes, its
execution, batches, CBATCH and CWAIT; the events COPY_COMPLETE and CWAIT_RELEASE.
-/
namespace Sys2Proof.Machine

/-! ## Runs of bytes -/

/-- A place `n` bytes on. -/
def Place.skip (p : Place) (n : Nat) : Place :=
  match p with
  | .mem k => .mem (k + n)
  | .tile e va => .tile e (va + n)
  | .scratch x => .scratch (x + n)
  | .fill w k => .fill w (k + n)
  | .queue f w u m => .queue f w u m

/-- Two lists of runs cut at each other's ends, from a byte of the row on. -/
def cutRuns (ofs : Nat) : Nat → List (Place × Nat) → List (Place × Nat) → List Seg
  | 0, _, _ => []
  | fuel + 1, (a, n) :: as, (b, m) :: bs =>
    let k := min n m
    let as' := if n = k then as else (a.skip k, n - k) :: as
    let bs' := if m = k then bs else (b.skip k, m - k) :: bs
    { src := a, dst := b, len := k, ofs := ofs } :: cutRuns (ofs + k) fuel as' bs'
  | _ + 1, _, _ => []

/-- Pieces of a range of virtual addresses, cut at 64 KiB. -/
def pieces (va n : Nat) : List (Nat × Nat) :=
  if n = 0 then []
  else
    (List.range ((va + n - 1) / 65536 - va / 65536 + 1)).map fun i =>
      let lo := max va ((va / 65536 + i) * 65536)
      let hi := min (va + n) ((va / 65536 + i + 1) * 65536)
      (lo, hi - lo)

/-! ## The descriptor (R340) -/

structure CopyDesc where
  sk : Nat
  dk : Nat
  sar : Nat
  dar : Nat
  prio : Bool
  sofs : Word
  dofs : Word
  rowb : Nat
  nrows : Nat
  sstr : Int
  dstr : Int
deriving DecidableEq, Repr

def copyDesc (w : List Word) : CopyDesc :=
  let c := (w[0]?).getD 0
  { sk := field c 0 2, dk := field c 2 2, sar := field c 4 3, dar := field c 7 3, prio := bitAt c 10,
    sofs := (w[1]?).getD 0, dofs := (w[2]?).getD 0, rowb := ((w[3]?).getD 0).toNat, nrows := ((w[4]?).getD 0).toNat,
    sstr := ((w[5]?).getD 0).toInt, dstr := ((w[6]?).getD 0).toInt }

/-- The descriptor obeys R340. -/
def copyDescOk (w : List Word) : Bool :=
  let d := copyDesc w
  d.sk != 3 && d.dk != 3 && (d.sk == 0 || d.sar == 0) && (d.dk != 1 || d.dar == 0) && decide (((w[0]?).getD 0).toNat < 2048) &&
    (d.dk != 2 || d.dofs == 0) && decide (1 ≤ d.rowb) && decide (d.rowb ≤ 65536) && (d.dk != 2 || d.rowb % 128 == 0) &&
    decide (1 ≤ d.nrows) && decide (d.nrows ≤ 65536) && decide (d.rowb * d.nrows ≤ 2 ^ 24) &&
    (d.sk != 2 || d.sstr == 0) && (d.dk != 2 || d.dstr == 0) && (w[7]?).getD 0 == 0

/-- First byte of a row at its source and at its destination (R341). -/
def CopyDesc.srcAt (d : CopyDesc) (g : Group) (r : Nat) : Int :=
  (if d.sk = 0 then ((g.addr d.sar).base.toNat : Int) else 0) + d.sofs.toNat + r * d.sstr
def CopyDesc.dstAt (d : CopyDesc) (g : Group) (r : Nat) : Int :=
  (if d.dk = 0 then ((g.addr d.dar).base.toNat : Int) else 0) + d.dofs.toNat + r * d.dstr

/-! ## Checks in address order (R342) -/

/-- First failing byte of a global range under step 1 of R144. -/
def badGlobal (x : Int) (n : Nat) : Option Nat :=
  if canonicalRange x n then none
  else if x < 0 ∨ !canonical x.toNat then some (x % 2 ^ 64).toNat
  else some ((x.toNat / 2 ^ 56 + 1) * 2 ^ 56 % 2 ^ 64)

/-- First failing byte of a scratchpad range under step 1 of R147. -/
def State.badScratch (s : State) (g : Group) (x : Int) (n : Nat) : Option Nat :=
  match s.scratchFault g x n 1 with
  | none => none
  | some _ =>
    match s.scratchFault g x 1 1 with
    | some _ => some (x % 2 ^ 64).toNat
    | none => some (x.toNat - offsetOf x.toNat + s.scratchSize g)

/-- The first failing byte over rows, source before destination. -/
def firstBad (d : CopyDesc) (src dst : Nat → Option Nat) : Option Nat :=
  (List.range d.nrows).findSome? fun r => (src r).or (dst r)

/-- A translated piece of a row: source or destination, address, length, outcome. -/
structure Piece where
  isSrc : Bool
  row : Nat
  va : Nat
  len : Nat
  x : Xlat
deriving DecidableEq, Repr

/-- Pieces translated in address order. -/
def State.xlatPieces (s : State) (g : Group) : List (Bool × Nat × Nat × Nat) → State × List Piece
  | [] => (s, [])
  | (b, r, va, n) :: ps =>
    let (s1, x) := s.translate g.ctx g.secure (if b then .copySrc else .copyDst) va
    let (s2, l) := s1.xlatPieces g ps
    (s2, { isSrc := b, row := r, va := va, len := n, x := x } :: l)

/-- Global pieces of a copy in the order of R342. -/
def CopyDesc.pieces (d : CopyDesc) (g : Group) : List (Bool × Nat × Nat × Nat) :=
  ((List.range d.nrows).map fun r =>
    (if d.sk = 0 then (Sys2Proof.Machine.pieces (d.srcAt g r).toNat d.rowb).map fun p => (true, r, p.1, p.2) else []) ++
    (if d.dk = 0 then (Sys2Proof.Machine.pieces (d.dstAt g r).toNat d.rowb).map fun p => (false, r, p.1, p.2) else [])).flatten

/-- The first piece that faults: the cause and its address. -/
def pieceFault (ps : List Piece) : Option (Cause × Nat) :=
  ps.findSome? fun p => match p.x with
    | .fault _ c => some (c, p.va)
    | _ => none

/-- The page fault of lowest address. -/
def pageOf (ps : List Piece) : Option (Piece × Nat) :=
  leastBy (fun p => p.1.va) (ps.filterMap fun p => match p.x with
    | .page l => some (p, l)
    | _ => none)

/-- The page that a piece forces a fetch of (R163). -/
def Piece.fetchOf (p : Piece) : Option TlbEntry :=
  match p.x with
  | .tile e _ => if !p.isSrc || e.rp then some e else none
  | _ => none

def Piece.place (p : Piece) : Place :=
  match p.x with
  | .tile e _ => .tile e p.va
  | .mem k => .mem k
  | _ => .mem 0

/-- The runs of one side of a row. -/
def sideRuns (ps : List Piece) (isSrc : Bool) (r : Nat) : List (Place × Nat) :=
  (ps.filter fun p => p.isSrc == isSrc && p.row == r).map fun p => (p.place, p.len)

/-- The runs of bytes of a copy (R341). -/
def copySegs (d : CopyDesc) (g : Group) (q : Place) (ps : List Piece) : List Seg :=
  ((List.range d.nrows).map fun r =>
    let src := if d.sk = 0 then sideRuns ps true r
      else if d.sk = 1 then [(Place.scratch (d.srcAt g r).toNat, d.rowb)] else [(Place.fill d.sofs 0, d.rowb)]
    let dst := if d.dk = 0 then sideRuns ps false r
      else if d.dk = 1 then [(Place.scratch (d.dstAt g r).toNat, d.rowb)] else [(q, d.rowb)]
    cutRuns 0 (src.length + dst.length) src dst).flatten

/-- The engine of a cluster has an entry free (R343). -/
def copyCapacity : Nat := 256

/-- Every fetch a copy forces is begun, and the group parks at the word (R163, R342). -/
def State.copyFetch (s : State) (g : Group) (slot : Bool) (p : Path) (es : List (TlbEntry × Nat)) : State :=
  let (s1, is) := s.startFetches g.ctx (es.map fun x => x.1)
  (s1.noteFetches g.id slot es).parkFetch g.id slot p.lanes is

/-- CPY (R342, R343). -/
def execCpy (a : BitVec 8) (s : State) : Out :=
  s.word fun g slot p => do
    let r ← (formCtl .absent (.ud a 8) .absent regOnly).operands g p
    let w := g.gregs r.a.num 8
    let d := copyDesc w
    let m := p.lanes
    trapIf (!copyDescOk w) .format m
    trapIf ((d.sk == 0 && !(g.addr d.sar).valid) || (d.dk == 0 && !(g.addr d.dar).valid)) .address m
    match firstBad d (fun r => if d.sk = 0 then badGlobal (d.srcAt g r) d.rowb else none)
        (fun r => if d.dk = 0 then badGlobal (d.dstAt g r) d.rowb else none) with
    | some x => .error (.trap .address m x)
    | none =>
      match firstBad d (fun r => if d.sk = 1 then s.badScratch g (d.srcAt g r) d.rowb else none)
          (fun r => if d.dk = 1 then s.badScratch g (d.dstAt g r) d.rowb else none) with
      | some x => .error (.trap .scratchBounds m x)
      | none => do
        let fifo := if d.dk = 2 then (s.fifoOf g d.dar).bind fun f => if f.2.getLsbD 0 then some f.1 else none else none
        trapIf (d.dk == 2 && fifo.isNone) .queue m
        let (s1, ps) := s.mature.xlatPieces g (d.pieces g)
        match pieceFault ps, pageOf ps with
        | some (c, va), _ => .ok (s1.trapPath g.id slot c m va)
        | none, some (pc, l) => .ok (s1.parkPage g.id slot (if pc.isSrc then .copySrc else .copyDst) m pc.va l [])
        | none, none =>
          let es := ps.filterMap fun p => p.fetchOf.map fun e => (e, p.va)
          if !es.isEmpty then .ok (s1.copyFetch g slot p es)
          else if copyCapacity ≤ ((s1.cluster? g.cluster).map fun c => c.copies.length).getD 0 then
            .error (.park .copyEntry)
          else
            let q : Place := match fifo with
              | some f => .queue f.first f.wlog f.subs f.mc
              | none => .mem 0
            let (i, s2) := s1.newId
            let k : Copy :=
              { id := i, grp := g.id, ctx := g.ctx, batch := g.batchNext, prio := d.prio, segs := copySegs d g q ps,
                all := copySegs d g q ps, carry := [], carryPsn := [] }
            let s3 := s2.modCluster g.cluster fun c => { c with copies := c.copies ++ [k] }
            .ok (s3.finish g slot 12)

/-! ## Execution (R202, R279, R341, R343) -/

/-- Bytes and poison of a run at its source. -/
def State.readPlace (s : State) (g : Group) (p : Place) (n : Nat) : List Byte × Bool :=
  match p with
  | .mem k => (s.mem.bytes k n, (firstPoison s.poison k n).isSome)
  | .tile e va => s.consult noGroup false e va n
  | .scratch x => (s.scratchBytes g x n, (s.scratchPoison g x n).isSome)
  | .fill w k => ((List.range n).map fun i => BitVec.ofNat 8 (w.toNat / 2 ^ (8 * ((k + i) % 4))), false)
  | .queue .. => ([], false)

/-- Byte number of a place, for granules and lines. -/
def Place.at (p : Place) : Nat :=
  match p with
  | .mem k => k
  | .tile _ va => va
  | .scratch x => x
  | .fill _ _ => 0
  | .queue .. => 0

/-- Length of a first piece that crosses no granule at either side. -/
def Seg.head (g : Seg) : Nat := min g.len (min (64 - g.src.at % 64) (64 - g.dst.at % 64))

/-- A run cut where either side enters a new granule. -/
def Seg.split : Nat → Seg → List Seg
  | 0, _ => []
  | f + 1, g =>
    if g.len = 0 then []
    else
      let k := g.head
      { g with len := k } :: Seg.split f { src := g.src.skip k, dst := g.dst.skip k, len := g.len - k, ofs := g.ofs + k }

/-- Two places of one space that name a common byte. -/
def Place.meets (a : Place) (n : Nat) (b : Place) (m : Nat) : Bool :=
  match a, b with
  | .mem x, .mem y => runsMeet x n y m
  | .scratch x, .scratch y => runsMeet x n y m
  | _, _ => false

/-- Bytes of a run that the copy's other side touches are UNSPECIFIED (R343, log 7). -/
def blur (t : Take) (segs : List Seg) (g : Seg) (bs : List Byte) : List Byte :=
  ((List.range bs.length).zip bs).map fun (i, b) =>
    if segs.any fun x => (g.src.skip i).meets 1 x.dst x.len || (g.dst.skip i).meets 1 x.src x.len then t.byte i else b

/-- The latest visibility times of a batch, and its mark (R202, R344). -/
def noteBatch (l : List (Word × Nat × Nat × Bool)) (n : Word) (a b : Nat) (mark : Bool := false) : List (Word × Nat × Nat × Bool) :=
  if l.any fun x => x.1 == n then l.map fun x => if x.1 == n then (n, max x.2.1 a, max x.2.2.1 b, x.2.2.2 || mark) else x
  else l ++ [(n, a, b, mark)]

/-- The lines of a run of bytes, each with the bytes of the run that it holds. -/
def linesOf (key n : Nat) : List (Nat × Nat × Nat) :=
  if n = 0 then []
  else (List.range ((key + n - 1) / 128 - key / 128 + 1)).map fun i =>
    let lo := max key (128 * (key / 128 + i))
    (key / 128 + i, lo, min (key + n) (128 * (key / 128 + i + 1)) - lo)

/-- The L2 sectors of a run at its home slices, line by line, and the HBM transfers that they cause (R263 classes 6 and 7). -/
def State.chargeLines (s : State) (ctx key n : Nat) (write : Bool) : State :=
  (linesOf key n).foldl (fun s l => s.l2Access ctx l.1 ((l.2.1 + l.2.2 - 1) / 32 - l.2.1 / 32 + 1) write) s

/-- The bank spans of a run that begins in a row or goes on in it (R149, R263 class 8). -/
def runSpans (ofs x n : Nat) : Nat := spansOf [(x, n)] - (if ofs ≠ 0 ∧ x % 256 ≠ 0 then 1 else 0)

/-- Energy of one side of a run: L2 sectors and HBM, of a frame that is still being copied out too (R172); bank spans; or a request flit for each
line of a peer's memory, which is sent (R263, R290). -/
def State.chargeSide (s : State) (ctx : Nat) (p : Place) (ofs n : Nat) (write : Bool) : State :=
  match p with
  | .mem key => s.chargeLines ctx key n write
  | .scratch x => s.charge ctx 8 (runSpans ofs x n)
  | .tile e va =>
    let base := s.tileBase e va
    if inModule base then s.chargeLines ctx (base + va % 65536) n write
    else if isPeer base && s.reaches base then
      ({ s with outbox := s.outbox ++ [.peerLoad (peerOf base) (peerAddr (base + va % 65536)) n] } : State).charge ctx 13 (linesOf va n).length
    else s
  | _ => s

/-- Energy of a run of a copy: its two sides, and each 64 bytes of its row that it begins to write (R263, R339). -/
def State.chargeRun (s : State) (ctx : Nat) (g : Seg) : State :=
  ((s.chargeSide ctx g.src g.ofs g.len false).chargeSide ctx g.dst g.ofs g.len true).charge ctx 10
    (ceilDiv (g.ofs + g.len) 64 - ceilDiv g.ofs 64)

/-- A copy's write of a run (R202): at home with a GWCT, at the bank, or gathered for a queue. -/
def State.writePlace (s : State) (k : Copy) (g : Group) (p : Place) (bs : List Byte) (psn : Bool) : State × Copy :=
  let t : Taint := if psn then .poisoned else .clean
  match p with
  | .mem key =>
    let line := key / 128
    let s1 := s.atHome line
    let gw := s1.gwctOf line
    ((s1.accept key bs gw k.id false t k.ctx).modGroup k.grp fun g =>
      { g with batches := noteBatch g.batches k.batch (if inModule key then gw else 0) (if inModule key then 0 else gw) }, k)
  | .scratch x =>
    let s1 := if psn then
        (match s.memberBlock g (memberOf x) with
         | some b => s.modBlock b.id fun b => b.store (offsetOf x) bs .poisoned
         | none => s)
      else s.scratchStore g x bs
    (s1.modGroup k.grp fun g => { g with batches := noteBatch g.batches k.batch s.now 0 }, k)
  | .queue .. => (s, { k with carry := k.carry ++ bs, carryPsn := k.carryPsn ++ bs.map fun _ => psn })
  | _ => (s, k)

/-- The home of a run's first byte before it is read: due writes are visible, and copies of its line are recalled. -/
def State.readyPlace (s : State) (p : Place) : State :=
  match p with
  | .mem key => s.atHome (key / 128)
  | .tile e va => s.mature.settleLine ((e.key + (va - e.page)) / 128)
  | _ => s

/-- The homes of a run's lines before they are read. -/
def State.readyRun (s : State) (g : Seg) : State := (linesOf g.src.at g.len).foldl (fun s l => s.readyPlace (g.src.skip (l.2.1 - g.src.at))) s

/-- One piece moved. -/
def State.movePiece (s : State) (k : Copy) (g : Group) (p : Seg) : State × Copy :=
  let s1 := s.readyPlace p.src
  let (bs, psn) := s1.readPlace g p.src p.len
  (s1.took k.ctx).writePlace k g p.dst (blur (s1.taking k.ctx) k.all p bs) psn

def State.movePieces (s : State) (k : Copy) (g : Group) : List Seg → State × Copy
  | [] => (s, k)
  | p :: ps =>
    let (s1, k1) := s.movePiece k g p
    s1.movePieces k1 g ps

/-- The FIFO a copy pushes into. Where it has become empty and unbound meanwhile, and so is no more (R157), the spec does not say where the rows go
on to: the copy makes it again with the width, MC and SUBS of its posting, whatever BANKCFG has made of the bank since (DESIGN CHOICE, log 90). -/
def State.copyFifo (s : State) (cl first wlog subs : Nat) (mc : Bool) : Fifo :=
  (((s.cluster? cl).bind fun c => c.fifo? first)).getD
    { first := first, wlog := wlog, mc := mc, subs := subs, rows := [], base := 0, readers := [], bound := [],
      rate := (0, 0, 0) }

/-- Room in the queue for a row of a run (R344). -/
def State.hasRoom (s : State) (cl : Nat) (p : Place) : Bool :=
  match p with
  | .queue f w u m => decide (0 < (s.copyFifo cl f w u m).room)
  | _ => true

/-- Room in the queue, in a cycle in which it still accepts rows (R154, R343). -/
def State.roomFor (s : State) (cl : Nat) (p : Place) : Bool :=
  s.hasRoom cl p && (match p with
    | .queue f w u m => (s.copyFifo cl f w u m).accepts (s.cycleNo cl)
    | _ => true)

/-- The gathered bytes pushed as a row once there are 128 (R341). -/
def State.pushCarry (s : State) (cl : Nat) (k : Copy) (p : Place) : State × Copy :=
  match p with
  | .queue f w u m =>
    if 128 ≤ k.carry.length then
      let bad := ((k.carryPsn.take 64).any id, ((k.carryPsn.drop 64).take 64).any id)
      let row : Row := { data := leWords (k.carry.take 128) 32, psn := bad, copy := some k.id }
      let fifo := ((s.copyFifo cl f w u m).push row).countIn (s.cycleNo cl)
      let s1 := s.modCluster cl fun c =>
        if (c.fifo? f).isSome then c.setFifo fifo else { c with fifos := c.fifos ++ [fifo] }
      (s1, { k with carry := k.carry.drop 128, carryPsn := k.carryPsn.drop 128 })
    else (s, k)
  | _ => (s, k)

/-- The member of the gang that a place lies in has started (R148). -/
def State.memberHere (s : State) (g : Group) (p : Place) : Bool :=
  match p with
  | .scratch x => (s.memberBlock g (memberOf x)).isSome
  | _ => true

/-- The copy's runs cut so that a queue destination takes at most one row at a time. -/
def rowCut : Nat → Seg → List Seg
  | 0, _ => []
  | f + 1, g =>
    match g.dst with
    | .queue .. =>
      if g.len ≤ 128 then [g]
      else { g with len := 128 } :: rowCut f { g with src := g.src.skip 128, len := g.len - 128, ofs := g.ofs + 128 }
    | _ => [g]

/-- Runs moved while their members have started and their queue has room; what is left of the copy (R148, R343). A run into a queue
ends at a row. -/
def State.runCopy (s : State) (cl : Nat) (g : Group) (k : Copy) : List Seg → State × Copy
  | [] => (s, { k with segs := [] })
  | p :: ps =>
    if !s.memberHere g p.src || !s.memberHere g p.dst || !s.roomFor cl p.dst then (s, { k with segs := p :: ps })
    else
      let (s1, k1) := (s.chargeRun k.ctx p).movePieces k g (p.split p.len)
      let (s2, k2) := s1.pushCarry cl k1 p.dst
      s2.runCopy cl g k2 ps

/-- A run that a lost time master keeps from its peer (R291). -/
def State.peerWaits (s : State) (p : Place) : Bool :=
  match p with
  | .tile e va => s.masterHolds (s.tileBase e va)
  | _ => false

/-- A run of a copy's source holds bytes of a key; a tile's bytes are those of its page's place. -/
def State.readsAt (s : State) (g : Seg) (key n : Nat) : Bool :=
  match g.src with
  | .tile e va => runsMeet (s.tileBase e va + va % 65536) g.len key n
  | p => p.meets g.len (.mem key) n

/-- A run of a copy's source is one of a tile that an access reaches as a tile too. -/
def Seg.readsTile (g : Seg) (a : Acc) (n : Nat) : Bool :=
  match g.src, a.tile with
  | .tile e va, some t => t.vf == e.vf && t.page == e.page && runsMeet va g.len a.va n
  | _, _ => false

/-- Every store the group issued before the copy to a byte it reads is visible (R202), and its sources may be read. A store that the group has
issued since may be waited for too: the byte is read with its old or its new value. -/
def State.sourcesReady (s : State) (k : Copy) : Bool :=
  !(k.segs.any fun g => s.peerWaits g.src) &&
  !(s.pending.any fun w => w.grp == k.grp && decide (s.now < w.gwct) && k.segs.any fun g => s.readsAt g w.key w.data.length) &&
    !(s.flights.any fun f => f.grp == k.grp && decide (f.id < k.id) && f.kind != .load &&
      f.accs.any fun a => !a.done && k.segs.any fun g => if a.tile.isSome then g.readsTile a f.size else s.readsAt g a.key f.size)

/-- A page of a peer that the copy reads and whose translation is not cached (R214). -/
def State.copyMiss (s : State) (k : Copy) : Option TlbEntry :=
  k.segs.findSome? fun g => match g.src with
    | .tile e va => if isPeer (s.tileBase e va) && s.reaches (s.tileBase e va) && !s.peerCached e.peerPage then some e else none
    | _ => none

def State.setCopy (s : State) (cl : Nat) (k : Copy) : State :=
  s.modCluster cl fun c => { c with copies := c.copies.map fun x => if x.id == k.id then k else x }

/-- COPY_COMPLETE: a posted copy moves its bytes; when the last is written its entry is free, and paths that wait for an entry
execute CPY again (R343). A copy that a full queue or a member not started holds back does what it can, and one that lacks a peer's
translation asks for it (R214). The spec leaves the order and the times of a copy's reads and writes open (R202, R205); here every run that
can move does so in ascending order at this one event (log 65). -/
def onCopyComplete (cl id : Nat) (s : State) : Option State :=
  match (s.cluster? cl).bind fun c => c.copies.find? fun k => k.id == id with
  | none => none
  | some k =>
    match s.group? k.grp with
    | none => none
    | some g =>
      match s.copyMiss k with
      | some e => s.seekPeer k.ctx e.peerPage
      | none =>
      if !s.sourcesReady k then none
      else
        let segs := (k.segs.map fun p => rowCut (p.len + 1) p).flatten
        let (s1, k1) := (s.mature.renew k.ctx).runCopy cl g k segs
        if k1.segs.isEmpty then
          let s2 := s1.modCluster cl fun c => { c with copies := c.copies.filter fun x => x.id != id }
          some (s2.wakeWhere fun g w => (g.cluster == cl && w == .copyEntry) || (g.id == k.grp && w == .exitDrain))
        else if k1.segs.length < segs.length then some (s1.setCopy cl k1)
        else none

/-- COPY_COMPLETE; nothing happens where it cannot occur (log 48). -/
def execCopyComplete (cl id : Nat) (s : State) : Out := s.occurs (onCopyComplete cl id s)

/-! ## Batches (R334, R345) -/

/-- The next batch number: 1 to 2^32 − 1, then 1 again. -/
def nextBatch (n : Word) : Word := if n + 1 = 0 then 1 else n + 1

/-- CBATCH (R334). -/
def execCbatch (d : BitVec 8) (s : State) : Out :=
  s.word fun g slot p => do
    let r ← (formCtl (.ud d 1) .absent .absent regOnly).operands g p
    .ok (s.finish ({ g with batchNext := nextBatch g.batchNext }.setG r.d.num g.batchNext) slot 12)

/-- A closed batch that CWAIT n covers (R345). -/
def covers (open_ n b : Word) : Bool := b != open_ && decide ((n - b).toNat < 2 ^ 31)

/-- A casting command of a batch is posted somewhere (R455). -/
def State.castsOf (s : State) (gid : Nat) (ok : Word → Bool) : Bool :=
  s.castQueues.any fun q => q.2.any fun k => k.grp == gid && ok k.batch

/-- A copy of a covered batch is not complete. -/
def State.copiesOut (s : State) (g : Group) (ok : Word → Bool) : Bool :=
  (((s.cluster? g.cluster).map fun c => c.copies.any fun k => k.grp == g.id && ok k.batch).getD false) || s.castsOf g.id ok

/-- The latest visibility times of covered batches. -/
def Group.batchTimes (g : Group) (n : Word) : Nat × Nat :=
  (g.batches.filter fun b => covers g.batchNext n b.1).foldl (fun t b => (max t.1 b.2.1, max t.2 b.2.2.1)) (0, 0)

/-- A batch that CWAIT n covers, of those that were closed when batch `upTo` was the open one (R345). -/
def coversTo (upTo n b : Word) : Bool := covers upTo n b && decide ((upTo - b).toNat < 2 ^ 31)

/-- CWAIT ends: it acts as FENCE.acq, and the batches it covers are done with (R202, R345); one that the sibling has closed while it waited is
not. -/
def State.cwaitEnd (s : State) (g : Group) (slot : Bool) (n upTo : Word) : State :=
  s.finish ({ g with batches := g.batches.filter fun b => !coversTo upTo n b.1 }.modPath slot Path.forget) slot 12

/-- CWAIT once its copies are complete: ENGINE for a marked batch, else the horizons and the wait for visibility (R202, R345). -/
def State.cwaitTail (s : State) (g : Group) (slot : Bool) (n : Word) : State :=
  let mine := fun (b : Word × Nat × Nat × Bool) => covers g.batchNext n b.1
  if g.batches.any fun b => mine b && b.2.2.2 then
    s.tellPath g.id slot .engine (((g.path slot).map fun p => p.lanes).getD 0) 0
      { marks := (g.batches.filter fun b => mine b && b.2.2.2).map fun b => b.1 }
  else
    let (a, b) := g.batchTimes n
    let g1 := { g with horizons := raise (raise g.horizons a true) b false }
    let t := max a b + 2
    if max a b = 0 ∨ t ≤ s.now then s.cwaitEnd g1 slot n g.batchNext
    else s.setGroup (g1.modPath slot fun q => { q with wait := .cwaitTime n g.batchNext t, chain := Chain.none })

/-- CWAIT (R345). -/
def execCwait (a : BitVec 8) (s : State) : Out :=
  s.word fun g slot p => do
    let r ← (formCtl .absent (.us a) .absent regOnly).operands g p
    let n := g.greg r.a.num
    if s.copiesOut g (covers g.batchNext n) then .error (.park (.cwait n))
    else .ok (s.cwaitTail g slot n)

/-- CWAIT_RELEASE: the covered copies are complete, and the path executes CWAIT again; or the copied data are visible, and CWAIT
completes (R202, R345). -/
def onCwaitRelease (gid : Nat) (slot : Bool) (s : State) : Option State :=
  match (s.group? gid).bind fun g => (g.path slot).map fun p => (g, p) with
  | none => none
  | some (g, p) =>
    match p.wait with
    | .cwait n => if s.copiesOut g (covers g.batchNext n) then none else some (s.wakePath gid slot)
    | .cwaitTime n upTo t => if t ≤ s.now then some (s.cwaitEnd g slot n upTo) else none
    | _ => none

/-- CWAIT_RELEASE; nothing happens where it cannot occur (log 48). -/
def execCwaitRelease (gid : Nat) (slot : Bool) (s : State) : Out := s.occurs (onCwaitRelease gid slot s)

end Sys2Proof.Machine
end

