-- ==== Sys2Proof/Machine/Matrix.lean ====
section
/-!
DEFINITION. The cluster matrix engine (R106 to R128, R379 to R383): MMA with its format record and checks, quarter sets, streams,
the arbiter, passes and the sum order; MOPF and MWAIT; the events BITMAP_READ, PASS_GRANT, FUSION_WAIT_EXPIRY,
ARBITER_AGE_PROMOTION, PASS_COMPLETE and MATRIX_RESIDUE_ERROR. An entry of a set stands for one of its quarters; the quarters of
a set are ready together and run in one pass.
-/
namespace Sys2Proof.Machine

/-! ## Registers read without a scoreboard (R120) -/

/-- Register keys that a flight of the group is still to write: group registers, or vector registers as 32 × register + lane. -/
def Flight.writes (f : Flight) (vec : Bool) : List Nat :=
  let n := if f.kind == .load then accessRegs (BitVec.ofNat 4 f.mf) else if f.kind == .atom then atomSize (BitVec.ofNat 4 f.mf) / 4 else 0
  match f.dst, vec with
  | .lanes d, true => (f.accs.map fun a => (List.range n).map fun i => 32 * (d + i) + a.lane).flatten
  | .bcast d m, true => ((lanesOf m).map fun l => (List.range n).map fun i => 32 * (d + i) + l).flatten
  | .uni d, false => (List.range n).map fun i => d + i
  | _, _ => []

/-- Group registers that a tuple request is still to write: its status, and a match's tag and fields (R178, R180). -/
def TupleReq.writes (r : TupleReq) : List Nat :=
  if r.kind == .dep then [r.d] else (List.range (2 + 2 * r.vals.length)).map fun i => r.d + i

/-- The status register of a BANKCFG that is not complete. -/
def Group.bankStatus (g : Group) : List Nat :=
  [false, true].filterMap fun b => match (g.path b).map (fun (p : Path) => p.wait) with
    | some (.bankcfg _ _ d) => some d
    | _ => none

/-- Registers of a load that had not returned when the path's present word issued behind it (log 3). -/
def State.passedBy (s : State) (g : Group) (vec : Bool) : List Nat :=
  match s.here with
  | none => []
  | some (h, _, p) =>
    if h.id != g.id then []
    else ((p.ahead.filter fun a => a.pc == p.pc).map fun a => if vec then a.vreg else a.greg).flatten

/-- Registers that earlier words of a group are still to write, or were as the present word issued. -/
def State.unwritten (s : State) (g : Group) (vec : Bool) : List Nat :=
  s.passedBy g vec ++
  ((s.flights.filter fun f => f.grp == g.id).map fun f => f.writes vec).flatten ++
    (if vec then [] else ((s.tupleReqs.filter fun r => r.grp == g.id).map TupleReq.writes).flatten ++ g.bankStatus)

/-- Group registers read at issue: one that an earlier word is still to write reads UNSPECIFIED (R120, R131). -/
def State.gregsNow (s : State) (g : Group) (r n : Nat) : List Word :=
  let out := s.unwritten g false
  (List.range n).map fun i => if out.contains (r + i) then (s.taking g.ctx).word (2 ^ 20 + i) else g.greg (r + i)

/-! ## The format record (R112, R113, R115) -/

structure FmtRec where
  afmt : Nat
  bfmt : Nat
  asg : Nat
  bsg : Nat
  sparse : Bool
  win : Nat
  fwait : Nat
  k : Nat
deriving DecidableEq, Repr

def fmtRec (w k : Word) : FmtRec :=
  { afmt := field w 0 4, bfmt := field w 4 4, asg := field w 8 8, bsg := field w 16 8, sparse := bitAt w 24, win := field w 25 2,
    fwait := field w 27 5, k := k.toNat }

/-- B is in a cast format (R112). -/
def FmtRec.cast (f : FmtRec) : Bool := decide (2 ≤ f.bfmt) && decide (f.bfmt ≤ 4)

/-- The combinations of R113. -/
def FmtRec.combined (f : FmtRec) : Bool :=
  let scaled := fun c : Nat => c == 16 || c == 32
  (if f.afmt = 0 then f.asg == 0 else f.afmt == 1 && scaled f.asg) &&
    (if f.bfmt = 1 then scaled f.bsg else f.bsg == 0 && decide (f.bfmt ≤ 4)) && (!f.cast || !f.sparse)

/-- R112: K, the must-be-zero fields, and the offsets that are read. -/
def FmtRec.fieldsOk (f : FmtRec) (w : List Word) : Bool :=
  let at_ := fun i : Nat => (w[i]?).getD 0
  let top := fun i : Nat => field (at_ i) 28 4 == 0
  f.k % 32 == 0 && decide (32 ≤ f.k) && decide (f.k ≤ 4096) && at_ 5 == 0 && at_ 6 == 0 && at_ 7 == 0 && (f.asg == 0 || top 2) &&
    (f.bfmt != 1 || top 3) && (!f.sparse || top 4) && (f.cast || f.win == 0)

/-- R115: the window of a cast operand. -/
def FmtRec.windowOk (f : FmtRec) (w : WinReg) (bsofs : Nat) : Bool :=
  !f.cast || (w.valid && w.rate.toNat == f.bfmt && decide (bsofs + 16 * f.k ≤ 256 * w.count.toNat))

def FmtRec.ok (f : FmtRec) (w : List Word) (win : WinReg) : Bool :=
  f.combined && f.fieldsOk w && f.windowOk win ((w[3]?).getD 0).toNat

/-- Scratchpad runs that an operation names: bitmap, A scales, B scales (R111, R114). Blocks of a window lie in the allocation since
TWSET (R434). -/
def FmtRec.runs (f : FmtRec) (d : MmaDesc) : List (Nat × Nat) :=
  (if f.sparse then [(d.bmofs, f.k / 32)] else []) ++ (if f.asg ≠ 0 then [(d.asofs, 64 * (f.k / f.asg))] else []) ++
    (if f.bsg ≠ 0 then [(d.bsofs, 16 * (f.k / f.bsg))] else [])

def MmaDesc.form (d : MmaDesc) : FmtRec := fmtRec d.fmt (BitVec.ofNat 32 d.k)

/-- Every place in scratchpad that an operation reads, for its gang members (R121). -/
def MmaDesc.places (d : MmaDesc) : List Nat :=
  (d.form.runs d).map (fun r => r.1) ++ (match d.win with
    | some w => [w.addr.toNat]
    | none => [])

/-- First byte outside the allocation among the runs an operation names (R107, R147). -/
def State.badRun (s : State) (g : Group) (runs : List (Nat × Nat)) : Option Nat :=
  runs.findSome? fun r => if (s.scratchFault g r.1 r.2 1).isNone then none
    else match s.scratchFault g r.1 1 1 with
      | some _ => some r.1
      | none => some (r.1 - offsetOf r.1 + s.scratchSize g)

/-! ## Posting (R108, R120) -/

/-- The passes in an engine, the one that drains first. -/
def Cluster.passes (c : Cluster) : List Pass := c.draining.toList ++ c.pass.toList
def Cluster.passSets (c : Cluster) : List MSet := (c.passes.map fun p => p.sets).flatten

/-- Capacity of the reservation table (R11, R108). -/
def tableSize : Nat := 64

/-- Entries that quarter operations hold (R108). -/
def Cluster.quartersHeld (c : Cluster) : Nat :=
  sumNat (c.sets.map fun x => x.quarters.length) + sumNat (c.passSets.map fun x => x.quarters.length)

/-- The factor commands that hold an entry, in posting order. A stopped one holds none, and one that a restore has placed takes an entry again
(R136): in posting order, as soon as one of the 64 is free, until when it stands in its place without one (log 80). -/
def State.factorHolders (s : State) (c : Cluster) : List FactorCmd :=
  let asks := c.factor.filter fun k => k.started || ((s.ctx? k.ctx).map fun x => x.state == .live).getD false
  let firm := asks.filter fun k => k.started || !k.restored
  let taken := (asks.filter fun k => !k.started && k.restored).take (tableSize - (c.quartersHeld + firm.length))
  asks.filter fun k => k.started || !k.restored || taken.contains k

/-- Entries of the reservation table of a cluster in use (R108, R134). -/
def State.entriesUsed (s : State) (c : Cluster) : Nat := c.quartersHeld + (s.factorHolders c).length

def State.entriesFree (s : State) (cl : Nat) : Nat := tableSize - ((s.cluster? cl).map fun c => s.entriesUsed c).getD tableSize

/-- Quarters with an active lane (R108). -/
def quartersOf (m : Mask) : List Nat := (List.range 4).filter fun q => m.extractLsb' (8 * q) 8 != 0#8

/-- Registers and lanes of the accumulators of quarters. -/
def accKeys (first : Nat) (quarters : List Nat) : List (Nat × Nat) :=
  (quarters.map fun q => ((List.range 32).map fun r => (List.range 8).map fun j => (first + r, 8 * q + j)).flatten).flatten

/-- The accumulators of a posted set: the initial value of a register that no earlier operation holds is its value now, and until
an MWAIT covers the set the register reads UNSPECIFIED (R120). -/
def State.claimAcc (s : State) (g : Group) (set first : Nat) (quarters : List Nat) : State × Group :=
  let out := s.unwritten g true
  let keys := accKeys first quarters
  let fresh := keys.filter fun k => !g.accBusy k.1 k.2
  let acc := fresh.foldl (fun m k =>
    m.put (32 * k.1 + k.2) (if out.contains (32 * k.1 + k.2) then (s.taking g.ctx).word (32 * k.1 + k.2) else g.vreg k.1 k.2)) g.acc
  let v := fresh.foldl (fun m k => m.setWord (32 * k.1 + k.2) (((s.took g.ctx).taking g.ctx).word (32 * k.1 + k.2))) g.v
  ((s.took g.ctx).took g.ctx,
   { g with v := v, acc := acc,
            accRuns := g.accRuns ++ quarters.map fun q => { set := set, first := first, quarter := q, done := false } })

/-- Fields of the launch that rank an operation (R122). -/
def State.prioOf (s : State) (g : Group) : Nat := ((s.launch? g.launch).map (·.lpb.prio)).getD 0

/-- CLUSTER × 4 + CORE, then group slot: the order of postings of one cycle (R109, R122, R134). -/
def Group.postRank (g : Group) : Nat := (g.cluster * 4 + g.core) * 96 + g.slot

/-- The form of MMA (R106). A latch code in A, without a REG prefix, raises ILLEGAL: R106, the entry of the word, says so of a latch code in D or A;
the table of R56 has a latch code in a group field of A raise ILLEGAL_LATCH (DESIGN CHOICE between the two, log 66). -/
def formMma (o : LaneMma) : Form :=
  { d := .vd o.d 32, a := .gd o.a 8, b := .absent, accepts := regOnly, chain := false, uniSet := false, u := false, nw := false }

/-- The queue a stream comes from, with a pop role (R107, R390). -/
def State.streamOf (s : State) (g : Group) (q : Nat) : Option Nat :=
  (s.fifoOf g q).bind fun f => if f.2.getLsbD 1 then some f.1.first else none

/-- MMA (R106 to R108). -/
def execMma (o : LaneMma) (s : State) : Out :=
  s.word fun g slot p => do
    let r ← (formMma o).operands g p
    let m := p.lanes
    let w := s.gregsNow g r.a.num 8
    let f := fmtRec ((w[0]?).getD 0) ((w[1]?).getD 0)
    let fa := s.streamOf g o.qa.toNat
    let fb := s.streamOf g o.qb.toNat
    trapIf (fa.isNone || (!f.cast && fb.isNone)) .queue m
    let win := g.window f.win
    trapIf (!f.ok w win) .format m
    let ofs := fun i : Nat => ((w[i]?).getD 0).toNat
    let d : MmaDesc :=
      { fmt := (w[0]?).getD 0, k := f.k, asofs := ofs 2, bsofs := ofs 3, bmofs := ofs 4, win := if f.cast then some win else none,
        accz := o.accz, dreg := r.d.num, qa := o.qa.toNat, qb := o.qb.toNat, fifoA := fa.getD 0, fifoB := if f.cast then none else fb }
    match s.badRun g (f.runs d) with
    | some x => .error (.trap .scratchBounds m x)
    | none =>
      let qs := quartersOf p.mask
      if s.entriesFree g.cluster < qs.length then .error (.park .entries)
      else
        let (i, s1) := s.newId
        let (s2, g1) := s1.claimAcc g i r.d.num qs
        let set : MSet :=
          { id := i, grp := g.id, block := g.block, ctx := g.ctx, cls := ((s.ctx? g.ctx).map (·.cls)).getD 0, prio := s.prioOf g,
            rank := g.postRank, posted := s.ticks, cycle := s.cycleNo g.cluster, quarters := qs, desc := d, bitmap := none, psn := false,
            waited := false, promoted := false }
        let s3 := s2.modCluster g.cluster fun c => { c with sets := c.sets ++ [set] }
        .ok (s3.finish { g1 with outstanding := g1.outstanding + qs.length } slot 15)

/-! ## Streams (R110, R111) -/

/-- The bitmap marks cell (kc, cc) absent (R111). -/
def cellAbsent (bitmap : List Byte) (kc cc : Nat) : Bool :=
  let b := kc * 2 + cc
  ((bitmap[b / 8]?).getD 0).getLsbD (b % 8)

/-- The bitmap of a set as the engine has it, or as it would read it now. -/
def State.bitmapNow (s : State) (g : Group) (x : MSet) : List Byte :=
  if x.desc.form.sparse then x.bitmap.getD (s.scratchBytes g x.desc.bmofs (x.desc.k / 32)) else []

/-- Cells of B present up to cell number n in stream order (R110, R111). -/
def cellsBefore (bitmap : List Byte) (n : Nat) : Nat :=
  ((List.range n).filter fun c => !cellAbsent bitmap (c / 2) (c % 2)).length

/-- Rows of an A chunk and of a B chunk (R110). -/
def MmaDesc.rowsA (d : MmaDesc) : Nat := if d.form.afmt = 0 then d.k else d.k / 2
def MmaDesc.rowsB (d : MmaDesc) (bitmap : List Byte) : Nat :=
  let cells := cellsBefore bitmap (d.k / 4)
  if d.form.cast then 0 else if d.form.bfmt = 0 then cells else ceilDiv cells 2

/-! ## The arbiter (R109, R121, R122) -/

/-- What a pop of a set's stream would find in its FIFO, after the rows of chunks cut short. -/
def State.rowsThere (s : State) (cl : Nat) (first grp q : Nat) : Nat :=
  (((s.cluster? cl).bind fun c => c.fifo? first).map fun f => f.avail grp q - f.owedTo grp q).getD 0

def State.isMulticast (s : State) (cl first : Nat) : Bool := (((s.cluster? cl).bind fun c => c.fifo? first).map (·.mc)).getD false

/-- Streams of a set: FIFO and queue register. -/
def MSet.queues (x : MSet) : List (Nat × Nat) :=
  (x.desc.fifoA, x.desc.qa) :: (match x.desc.fifoB with
    | some f => [(f, x.desc.qb)]
    | none => [])

/-- An earlier set takes chunks from the same FIFO, as the same subscriber where it is multicast (R109), or holds accumulators of
this one (R120). -/
def State.blockedBy (s : State) (cl : Nat) (x y : MSet) : Bool :=
  (x.queues.any fun a => y.queues.any fun b =>
    a.1 == b.1 && (!s.isMulticast cl a.1 || (x.grp == y.grp && a.2 == b.2))) ||
  (x.grp == y.grp && (x.quarters.any fun q => y.quarters.contains q) && decide (x.desc.dreg < y.desc.dreg + 32) &&
    decide (y.desc.dreg < x.desc.dreg + 32))

/-- Posting order across the cluster: the cycle, then the rank of R109. Two sets that the two paths of one group post in one cycle have the same rank,
and the spec does not say which comes first: the one whose word came first in the model does (DESIGN CHOICE, log 81). -/
def MSet.postKey (x : MSet) : List Nat := [x.cycle, x.rank, x.id]

/-- Everything a set needs to be ready but its bitmap (R122). The queue that both streams share gives the A chunk first (R107). -/
def State.readyButBitmap (s : State) (c : Cluster) (x : MSet) : Bool :=
  match s.group? x.grp with
  | none => false
  | some g =>
    decide (0 < s.rowsThere c.id x.desc.fifoA x.grp x.desc.qa) &&
      (match x.desc.fifoB with
       | some f => (f == x.desc.fifoA && x.desc.qa == x.desc.qb) || x.desc.rowsB (s.bitmapNow g x) == 0 ||
                   decide (0 < s.rowsThere c.id f x.grp x.desc.qb)
       | none => true) &&
      !(c.sets.any fun y => y.id != x.id && keyLe y.postKey x.postKey && s.blockedBy c.id x y) &&
      x.desc.places.all fun a => (s.memberBlock g (memberOf a)).isSome

def State.ready (s : State) (c : Cluster) (x : MSet) : Bool :=
  s.readyButBitmap c x && (!x.desc.form.sparse || x.bitmap.isSome)

/-- An entry is older than 4,096 cycles of its cluster (R122). -/
def State.aged (s : State) (cl : Nat) (x : MSet) : Bool := x.promoted || decide (x.cycle + 4096 < s.cycleNo cl)

/-- Rank of an entry (R122). -/
def State.rankKey (s : State) (cl : Nat) (x : MSet) : List Nat :=
  if s.aged cl x then [0, x.cycle, x.rank, x.id] else [1, x.cls, 255 - x.prio, x.cycle, x.rank, x.id]

/-- Where the next A chunk of a set starts in a multicast FIFO. -/
def State.chunkAt (s : State) (cl : Nat) (x : MSet) : Nat :=
  ((((s.cluster? cl).bind fun c => c.fifo? x.desc.fifoA).bind fun f => f.reader? x.grp x.desc.qa).map (·.pos)).getD 0

/-- Two sets may share a pass: the same chunk of the same multicast FIFO, gA word, K and context, distinct groups (R122). -/
def State.fuses (s : State) (cl : Nat) (a x : MSet) : Bool :=
  s.isMulticast cl a.desc.fifoA && x.desc.fifoA == a.desc.fifoA && s.chunkAt cl x == s.chunkAt cl a && x.desc.fmt == a.desc.fmt &&
    x.desc.k == a.desc.k && x.ctx == a.ctx && x.grp != a.grp

/-- Sets of distinct groups, at most n, from a list. -/
def distinctGroups : Nat → List MSet → List MSet
  | 0, _ => []
  | _, [] => []
  | n + 1, x :: xs => x :: distinctGroups n (xs.filter fun y => y.grp != x.grp)

/-- The pass around an anchor: at most four column blocks (R122). Where more than three sets of other groups could join the anchor, those of
the highest rank do: the spec says only that the others take later passes (log 67). -/
def State.passOf (s : State) (c : Cluster) (a : MSet) : List MSet :=
  a :: distinctGroups 3 (sortBy (fun x => s.rankKey c.id x) (c.sets.filter fun x => s.ready c x && s.fuses c.id a x))

/-- The anchor waits for partners (R122). -/
def State.holdsBack (s : State) (c : Cluster) (a : MSet) : Bool :=
  s.isMulticast c.id a.desc.fifoA && !a.waited && !s.aged c.id a && decide (s.cycleNo c.id < a.cycle + 16 * a.desc.form.fwait) &&
    decide ((s.passOf c a).length < min (((c.fifo? a.desc.fifoA).map (·.subs)).getD 1) 4)

/-- The set that anchors the next pass. The sets posted in a cycle are first ranked in the next. -/
def State.anchor (s : State) (c : Cluster) : Option MSet :=
  leastKey (fun x => s.rankKey c.id x)
    (c.sets.filter fun x => decide (x.cycle < s.cycleNo c.id) && s.ready c x && !s.holdsBack c x)

def State.modSet (s : State) (cl id : Nat) (f : MSet → MSet) : State :=
  s.modCluster cl fun c => { c with sets := mapIf (fun x => x.id == id) f c.sets }

/-- An event on a set that waits in the table of a cluster. -/
def State.setEvent (s : State) (cl id : Nat) (ok : Cluster → MSet → Bool) (f : MSet → MSet) : Option State :=
  match (s.cluster? cl).bind fun c => (c.sets.find? fun x => x.id == id).map fun x => (c, x) with
  | none => none
  | some (c, x) => if ok c x then some (s.modSet cl id f) else none

/-- FUSION_WAIT_EXPIRY: 16 × FWAIT cycles from posting (R122). -/
def onFusionWaitExpiry (cl id : Nat) (s : State) : Option State :=
  s.setEvent cl id (fun _ x => !x.waited && decide (x.cycle + 16 * x.desc.form.fwait ≤ s.cycleNo cl))
    fun x => { x with waited := true }

/-- FUSION_WAIT_EXPIRY; nothing happens where it cannot occur (log 48). -/
def execFusionWaitExpiry (cl id : Nat) (s : State) : Out := s.occurs (onFusionWaitExpiry cl id s)

/-- ARBITER_AGE_PROMOTION: older than 4,096 cycles (R122). -/
def onArbiterAgePromotion (cl id : Nat) (s : State) : Option State :=
  s.setEvent cl id (fun _ x => !x.promoted && decide (x.cycle + 4096 < s.cycleNo cl)) fun x => { x with promoted := true }

/-- ARBITER_AGE_PROMOTION; nothing happens where it cannot occur (log 48). -/
def execArbiterAgePromotion (cl id : Nat) (s : State) : Out := s.occurs (onArbiterAgePromotion cl id s)

/-- BITMAP_READ: the engine reads the bitmap of an entry whose other conditions hold (R111, R122). -/
def onBitmapRead (cl id : Nat) (s : State) : Option State :=
  match (s.cluster? cl).bind fun c => (c.sets.find? fun x => x.id == id).map fun x => (c, x) with
  | none => none
  | some (c, x) =>
    match s.group? x.grp with
    | none => none
    | some g =>
      if x.desc.form.sparse && x.bitmap.isNone && s.readyButBitmap c x then
        let n := x.desc.k / 32
        some (s.modSet cl id fun x =>
          { x with bitmap := some (s.scratchBytes g x.desc.bmofs n), psn := (s.scratchPoison g x.desc.bmofs n).isSome })
      else none

/-- BITMAP_READ; nothing happens where it cannot occur (log 48). -/
def execBitmapRead (cl id : Nat) (s : State) : Out := s.occurs (onBitmapRead cl id s)

/-! ## Passes (R123, R124) -/

/-- Slices of a set with a B cell present. -/
def MSet.slices (x : MSet) : List Nat :=
  (List.range (x.desc.k / 8)).filter fun kc =>
    !x.desc.form.sparse || !cellAbsent (x.bitmap.getD []) kc 0 || !cellAbsent (x.bitmap.getD []) kc 1

/-- Slices that some column block of a pass has, ascending, and how many the engine takes in a cycle (R113, R123). -/
def keptSlices (xs : List MSet) : List Nat :=
  match xs with
  | [] => []
  | x :: _ => (List.range (x.desc.k / 8)).filter fun kc => xs.any fun y => y.slices.contains kc
def slicesPerCycle (xs : List MSet) : Nat :=
  match xs with
  | [] => 2
  | x :: _ => if x.desc.form.afmt = 1 && x.desc.form.bfmt != 0 then 4 else 2

/-- Compute cycles of a pass without a stall (R123). -/
def computeCycles (xs : List MSet) : Nat := ceilDiv (keptSlices xs).length (slicesPerCycle xs)

/-- The slice that row r of a stream belongs to (R110). -/
def MSet.sliceOfRow (x : MSet) (isA : Bool) (r : Nat) : Nat :=
  if isA then (if x.desc.form.afmt = 0 then r / 8 else r / 4)
  else
    let present := (List.range (x.desc.k / 4)).filter fun c => !cellAbsent (x.bitmap.getD []) (c / 2) (c % 2)
    (present[if x.desc.form.bfmt = 0 then r else 2 * r]?).getD 0 / 2

/-- The compute cycle of a pass that needs the rows of a slice. -/
def Pass.cycleOf (p : Pass) (kc : Nat) : Nat :=
  let i := (p.kept.filter fun k => decide (k < kc)).length
  if i < p.kept.length then i / slicesPerCycle p.sets else p.compute

/-- Rows popped from a stream's FIFO while it has any that it may deliver in this cycle (R109, R154). A row that the pass takes for another
subscriber too has been counted with that one's, and the rows of a slice removed from the pass take none of its time (R123, R124). -/
def State.pumpOne (s : State) (cl : Nat) (counted : Nat) (removed : Nat → Bool) : Nat → Stream → State × Stream
  | 0, t => (s, t)
  | n + 1, t =>
    match (s.cluster? cl).bind fun c => c.fifo? t.fifo with
    | none => (s, t)
    | some f =>
      let again := decide (t.got.length < counted) || removed t.got.length
      if f.avail t.grp t.q = 0 || !(again || f.delivers (s.cycleNo cl)) then (s, t)
      else
        match f.peek t.grp t.q with
        | none => (s, t)
        | some row =>
          let f1 := f.pop t.grp t.q
          (s.setFifo cl (if again then f1 else f1.countOut (s.cycleNo cl))).pumpOne cl counted removed n
            { t with need := t.need - 1, got := t.got ++ [row] }

/-- A cluster with rows of chunks cut short. -/
def Cluster.owes (c : Cluster) : Bool := c.fifos.any fun f => !f.owed.isEmpty

/-- Rows of chunks cut short leave their FIFOs (R109, R127). -/
def State.discardOwed (s : State) (cl : Nat) : State :=
  if ((s.cluster? cl).map Cluster.owes).getD false then
    s.modCluster cl fun c => ({ c with fifos := c.fifos.map fun f => f.discard (s.cycleNo cl) } : Cluster).dropEmptyFifos
  else s

/-- The rows of a stream that a reset has cut short are still to leave its FIFO. -/
def State.owe (s : State) (cl : Nat) (t : Stream) : State :=
  if t.need = 0 then s
  else s.modCluster cl fun c =>
    { c with fifos := mapIf (fun f => f.first == t.fifo) (fun f => { f with owed := f.owed ++ [(t.grp, t.q, t.need)] }) c.fifos }

/-- The streams of the running pass take what their FIFOs hold; one that shares its queue with an earlier one takes after it. -/
def State.pump (s : State) (cl : Nat) (removed : Stream → Nat → Bool) : List Stream → List Stream → State × List Stream
  | done, [] => (s, done)
  | done, t :: ts =>
    let owing := (((s.cluster? cl).bind fun c => c.fifo? t.fifo).map fun f => f.owedTo t.grp t.q).getD 0
    if owing != 0 || done.any fun u => u.fifo == t.fifo && u.grp == t.grp && u.q == t.q && u.need != 0 then
      s.pump cl removed (done ++ [t]) ts
    else
      let counted := (done.filter fun u => u.isA == t.isA && u.fifo == t.fifo && s.isMulticast cl t.fifo).foldl (fun n u => max n u.got.length) 0
      let (s1, t1) := s.pumpOne cl counted (removed t) t.need t
      s1.pump cl removed (done ++ [t1]) ts

/-- The rows that a set takes, its B chunk as a bitmap has it. -/
def MSet.streamsBy (x : MSet) (bitmap : List Byte) : List Stream :=
  { setId := x.id, isA := true, fifo := x.desc.fifoA, grp := x.grp, q := x.desc.qa, need := x.desc.rowsA, got := [] } ::
    (match x.desc.fifoB with
     | some f => [{ setId := x.id, isA := false, fifo := f, grp := x.grp, q := x.desc.qb, need := x.desc.rowsB bitmap, got := [] }]
     | none => [])
def MSet.streams (x : MSet) : List Stream := x.streamsBy (x.bitmap.getD [])

/-- Row i of a stream belongs to a slice that is removed from the pass (R123). -/
def Pass.removed (p : Pass) (t : Stream) (i : Nat) : Bool :=
  match p.sets.find? fun y => y.id == t.setId with
  | none => false
  | some y => !p.kept.contains (y.sliceOfRow t.isA i)

/-- The running pass with the rows that have come. -/
def State.stream (s : State) (cl : Nat) (p : Pass) : State :=
  let s0 := s.discardOwed cl
  let (s1, ts) := s0.pump cl p.removed [] p.streams
  let cyc := s.cycle cl
  let x := (s.ticks - p.start) / cyc
  let ends := ((p.streams.zip ts).map fun (a, b) =>
    match p.sets.find? fun y => y.id == b.setId with
    | none => []
    | some y => (List.range (b.got.length - a.got.length)).map fun i =>
        p.start + (x + (p.compute - p.cycleOf (y.sliceOfRow b.isA (a.got.length + i)))) * cyc).flatten
  s1.modCluster cl fun c => { c with pass := some { p with streams := ts, rowEnd := ends.foldl max p.rowEnd } }

/-- The tick after the last compute cycle of a pass with all its rows: grant, fill and compute (R123). Compute cycle j is not before the
cycle in which its last row is delivered, and each cycle that it waits moves the end one cycle on (R124). -/
def State.computeEnd (s : State) (cl : Nat) (p : Pass) : Nat := max (p.start + (5 + p.compute) * s.cycle cl) p.rowEnd

/-- A pass may be granted: the engine is empty, or the one pass in it is within the cycles of a grant and a fill of its last compute
cycle, and the one before is complete (R123). -/
def State.mayGrant (s : State) (c : Cluster) : Bool :=
  match c.pass with
  | none => true
  | some p => c.draining.isNone && !(p.streams.any fun t => t.need != 0) && decide (s.computeEnd c.id p ≤ s.ticks + 5 * s.cycle c.id)

/-- PASS_GRANT (R122, R123): an entry may run. -/
def onPassGrant (cl : Nat) (s : State) : Option State :=
  match s.cluster? cl with
  | none => none
  | some c =>
    match if s.mayGrant c && s.dutyOpen cl then s.anchor c else none with
    | some a =>
      let xs := s.passOf c a
      let p : Pass := { sets := xs, streams := (xs.map MSet.streams).flatten, start := s.ticks, compute := computeCycles xs,
                        kept := keptSlices xs, rowEnd := 0 }
      some ((s.modCluster cl fun c =>
        { c with sets := c.sets.filter (fun x => !(xs.any fun y => y.id == x.id)), draining := c.draining.or c.pass }).stream cl p)
    | none => none

/-- PASS_GRANT; nothing happens where it cannot occur (log 48). -/
def execPassGrant (cl : Nat) (s : State) : Out := s.occurs (onPassGrant cl s)

/-! ## The sum (R114, R116, R117) -/

/-- An element value: a subnormal is a zero of its sign (R117). -/
def elemOf (w : Word) : Fp :=
  match fpOf w with
  | .fin s n => .fin s (if n < 2 ^ 23 then 0 else n)
  | x => x

/-- ftz of a word (R117). -/
def ftz (w : Word) : Word := if field w 23 8 = 0 then w &&& 0x80000000 else w

def rowByte (r : Option Row) (i : Nat) : Nat := (r.bind fun r => (r.data[i / 4]?).map fun w => field w (8 * (i % 4)) 8).getD 0

/-- Element e of cell number c of a stream in a format (R110). -/
def cellElem (rows : List Row) (fmt c e : Nat) : Fp :=
  if fmt = 0 then
    elemOf (BitVec.ofNat 32 ((rowByte rows[c]? (2 * e) + 256 * rowByte rows[c]? (2 * e + 1)) * 65536))
  else elemOf (kdDecode (rowByte rows[c / 2]? (64 * (c % 2) + e)))

/-- Scale of a row or column n of an operand: the int8 at n × Q + group of its scale bytes, 0 under code 0 (R114). -/
def scaleOf (bytes : List Byte) (code n k kc : Nat) : Int :=
  if code = 0 then 0 else sextNat ((bytes[n * (k / code) + 8 * kc / code]?).getD 0).toNat 8

/-- Weight of an index among the cast blocks from that of index `first` on (R427). -/
def castAt (bytes : List Byte) (rate first idx : Nat) : Word :=
  castWeight rate (fun k => ((bytes[(idx / 256 - first / 256) * castBytes rate + k]?).getD 0).toNat) (idx % 256)

/-- What an operand gives one output: element and scale by k, and whether the slice's cell is present. -/
structure Operand where
  elem : Nat → Fp
  scale : Nat → Int
  present : Nat → Bool

/-- Row m of the A chunk. -/
def rowOf (d : MmaDesc) (side : Side) (rows : List Row) (m : Nat) : Operand :=
  { elem := fun k => cellElem rows d.form.afmt (k / 8 * 8 + m / 8) (8 * (m % 8) + k % 8)
    scale := fun kc => scaleOf side.asc d.form.asg m d.k kc
    present := fun _ => true }

/-- Column n of the B chunk. -/
def columnOf (d : MmaDesc) (side : Side) (bitmap : List Byte) (rows : List Row) (n : Nat) : Operand :=
  { elem := fun k =>
      match d.win with
      | some w => elemOf (castAt side.cast w.rate.toNat d.bsofs (d.bsofs + n * d.k + k))
      | none => cellElem rows d.form.bfmt (cellsBefore bitmap (k / 8 * 2 + n / 8)) (8 * (k % 8) + n % 8)
    scale := fun kc => scaleOf side.bsc d.form.bsg n d.k kc
    present := fun kc => !cellAbsent bitmap kc (n / 8) }

/-- Products of a slice, in units of 2^-298, without those that have a zero factor (R117). -/
def sliceProducts (a b : Operand) (kc : Nat) : List Fp :=
  if b.present kc then
    ((List.range 8).map fun j => (a.elem (8 * kc + j), b.elem (8 * kc + j))).filterMap fun (x, y) =>
      if x == .fin false 0 || x == .fin true 0 || y == .fin false 0 || y == .fin true 0 then none else some (fpMul x y)
  else []

/-- The magnitude of a product truncated to 64 places below the largest, top being that one's exponent. -/
def truncTo (top n : Nat) : Nat := if top < 64 then n else n / 2 ^ (top - 64) * 2 ^ (top - 64)

/-- t of a slice (R117). -/
def sliceSum (ps : List Fp) : Word :=
  if ps.contains .nan || (ps.contains (.inf true) && ps.contains (.inf false)) then qNaN
  else if ps.contains (.inf true) then signed true 0x7F800000
  else if ps.contains (.inf false) then signed false 0x7F800000
  else
    let top := ps.foldl (fun t p => match p with
      | .fin _ n => max t n.log2
      | _ => t) 0
    let sum : Int := ps.foldl (fun t p => match p with
      | .fin s n => if s then t - truncTo top n else t + truncTo top n
      | _ => t) 0
    ftz (rneF32 u2 (.fin (decide (sum < 0)) sum.natAbs))

def isZero (w : Word) : Bool := field w 0 31 == 0

/-- One slice added to an accumulator (R117). -/
def sliceStep (scaled : Bool) (a b : Operand) (acc : Word) (kc : Nat) : Word :=
  let ps := sliceProducts a b kc
  if ps.isEmpty then acc
  else
    let t := sliceSum ps
    if isZero t then acc
    else
      let u := if scaled then ftz (fmul t (tenPow (a.scale kc + b.scale kc))) else t
      if isZero u then acc else ftz (fadd acc u)

/-- An output (R117); a NaN is canonical. -/
def outputOf (scaled : Bool) (slices : Nat) (a b : Operand) (init : Word) : Word :=
  let w := (List.range slices).foldl (sliceStep scaled a b) (ftz init)
  if isNaN w then qNaN else w

/-! ## Completion (R116, R120, R127) -/

/-- The cast blocks that a set reads: where they begin, and their bytes. -/
def MmaDesc.castRun (d : MmaDesc) (w : WinReg) : Nat × Nat :=
  let lo := d.bsofs / 256
  let hi := (d.bsofs + 16 * d.k - 1) / 256
  (w.addr.toNat + lo * castBytes w.rate.toNat, (hi - lo + 1) * castBytes w.rate.toNat)

/-- Bytes of scratchpad whose poison marks quarter q: scales of its rows, of the columns, cast blocks. -/
def State.scratchTaint (s : State) (g : Group) (d : MmaDesc) (q : Nat) : Bool :=
  let f := d.form
  (f.asg != 0 && (s.scratchPoison g (d.asofs + 16 * q * (f.k / f.asg)) (16 * (f.k / f.asg))).isSome) ||
  (f.bsg != 0 && (s.scratchPoison g d.bsofs (16 * (f.k / f.bsg))).isSome) ||
  (match d.win with
   | some w => (s.scratchPoison g (d.castRun w).1 (d.castRun w).2).isSome
   | none => false)

/-- What a set would read now of its scale bytes and cast blocks. -/
def State.sideOf (s : State) (g : Group) (x : MSet) : Side :=
  let d := x.desc
  let scales := fun (code base n : Nat) => if code = 0 then [] else s.scratchBytes g base (n * (d.k / code))
  { asc := scales d.form.asg d.asofs 64
    bsc := scales d.form.bsg d.bsofs 16
    cast := match d.win with
      | some w => s.scratchBytes g (d.castRun w).1 (d.castRun w).2
      | none => []
    taint := x.quarters.filter fun q => s.scratchTaint g d q }

/-- A granule of a row is poisoned (R279). -/
def Row.poisoned (r : Row) : Bool := r.psn.1 || r.psn.2

/-- Rows of A of quarter q that are poisoned: row blocks 2q and 2q + 1 of every slice (R110, R116). -/
def taintA (d : MmaDesc) (rows : List Row) (q : Nat) : Bool :=
  ((List.range rows.length).zip rows).any fun (i, r) =>
    r.poisoned && (if d.form.afmt = 0 then i % 8 / 2 == q else i % 4 == q)

/-- A set reads scale bytes or cast blocks while its pass computes, and has not read them. -/
def MSet.unread (x : MSet) : Bool :=
  x.side.isNone && (x.desc.form.asg != 0 || x.desc.form.bsg != 0 || x.desc.win.isSome)

/-- A pass is in its last compute cycle, or past it, and has not read its scale bytes and cast blocks. R121 has them read while the pass computes,
in no stated cycle: here in the last one (DESIGN CHOICE, log 29). -/
def State.sideDue (s : State) (cl : Nat) (p : Pass) : Bool :=
  !(p.streams.any fun t => t.need != 0) && p.sets.any MSet.unread && decide (s.computeEnd cl p ≤ s.ticks + s.cycle cl)

/-- The sets of a pass with their scale bytes and cast blocks. -/
def State.withSides (s : State) (p : Pass) : Pass :=
  { p with sets := p.sets.map fun x =>
      match s.group? x.grp with
      | some g => if x.unread then { x with side := some (s.sideOf g x) } else x
      | none => x }

/-- The passes of a cluster that compute their last slices read their scale bytes and cast blocks (R121). -/
def State.readSides (cl : Nat) (s : State) : Option State :=
  match s.cluster? cl with
  | none => none
  | some c =>
    if c.passes.any fun p => s.sideDue cl p then
      let f := fun (p : Pass) => if s.sideDue cl p then s.withSides p else p
      some (s.modCluster cl fun c => { c with pass := c.pass.map f, draining := c.draining.map f })
    else none

/-- Everything about a set that its completion needs. -/
def Pass.rowsFor (p : Pass) (id : Nat) (isA : Bool) : List Row :=
  ((p.streams.find? fun t => t.setId == id && t.isA == isA).map (·.got)).getD []

/-- A quarter operation completes in its group from what its pass has read: accumulators, or UNSPECIFIED ones where its inputs are poisoned
(R116, R121, R127). -/
def State.finishQuarter (s : State) (p : Pass) (x : MSet) (bad : Bool) (q : Nat) : State :=
  match s.group? x.grp with
  | none => s
  | some g =>
    let d := x.desc
    let ra := p.rowsFor x.id true
    let rb := p.rowsFor x.id false
    let bm := x.bitmap.getD []
    let side := x.side.getD (s.sideOf g x)
    let psn := bad || x.psn || taintA d ra q || (rb.any Row.poisoned) || side.taint.contains q
    let value := fun (j c half : Nat) =>
      let key := 32 * (d.dreg + c + 16 * half) + 8 * q + j
      let init := if d.accz then 0 else (g.acc.get? key).getD 0
      outputOf (d.form.asg != 0 || d.form.bsg != 0) (d.k / 8) (rowOf d side ra (16 * q + 2 * j + half)) (columnOf d side bm rb c) init
    let acc := (List.range 256).foldl (fun m i =>
      let j := i % 8
      let c := i / 8 % 16
      let half := i / 128
      m.put (32 * (d.dreg + c + 16 * half) + 8 * q + j) (if psn then (s.taking g.ctx).word i else value j c half)) g.acc
    let g1 := { g with
      acc := acc
      accRuns := mapIf (fun a => a.set == x.id && a.quarter == q) (fun a => { a with done := true }) g.accRuns
      outstanding := g.outstanding - 1
      psnOps := g.psnOps + (if psn then 1 else 0) }
    if psn then (s.setGroup g1).took g.ctx else s.setGroup g1

/-- Paths that an operation's end lets go on: MWAIT, EXIT, and those before MMA or a factor command (R108, R126, R128). -/
def State.wakeOps (s : State) (cl : Nat) : State :=
  s.wakeWhere fun g w =>
    match w with
    | .mwait n => g.cluster == cl && decide (g.outstanding ≤ n)
    | .exitDrain => g.cluster == cl && g.outstanding == 0
    | .entries => g.cluster == cl
    | _ => false

/-- Every operation of a pass completes. Class 9 counts the slices of each quarter operation (R123). -/
def State.endPass (s : State) (cl : Nat) (p : Pass) (bad : Bool) : State :=
  let s1 := p.sets.foldl (fun s x =>
    (x.quarters.foldl (fun s q => s.finishQuarter p x bad q) s).charge x.ctx 9 (x.quarters.length * x.slices.length)) s
  (s1.modCluster cl fun c => if c.draining.isSome then { c with draining := none } else { c with pass := none }).wakeOps cl

/-- The tick at which a pass has drained and written back (R123). -/
def State.passEnd (s : State) (cl : Nat) (p : Pass) : Nat := s.computeEnd cl p + (6 + 2 * p.sets.length) * s.cycle cl

/-- The pass that drains completes, where it is due. -/
def State.endDraining (s : State) (cl : Nat) : Option State :=
  match (s.cluster? cl).bind fun c => c.draining with
  | some p => if s.passEnd cl p ≤ s.ticks then some (s.endPass cl p false) else none
  | none => none

/-- PASS_COMPLETE (R123, R124). While a row is missing the pass takes what has come; rows of a chunk cut short are taken too (R127). -/
def onPassComplete (cl : Nat) (s : State) : Option State :=
  match s.endDraining cl, (s.cluster? cl).bind fun c => c.pass with
  | some t, _ => some t
  | none, none =>
    let t := s.discardOwed cl
    if ((t.cluster? cl).map fun c => c.fifos) == (s.cluster? cl).map fun c => c.fifos then none else some t
  | none, some p =>
    if p.streams.any fun t => t.need != 0 then
      let s1 := s.stream cl p
      if (((s1.cluster? cl).bind fun c => c.pass).map fun q => q.streams) == some p.streams then none else some s1
    else if (((s.cluster? cl).bind fun c => c.draining).isNone) && decide (s.passEnd cl p ≤ s.ticks) then some (s.endPass cl p false)
    else none

/-- PASS_COMPLETE; nothing happens where it cannot occur (log 48). -/
def execPassComplete (cl : Nat) (s : State) : Out := s.occurs (onPassComplete cl s)

/-! ## MOPF and MWAIT (R125, R126) -/

/-- A register write by an earlier word of the group has not completed (R125). -/
def State.writesPending (s : State) (g : Group) : Bool :=
  (s.flights.any fun f => f.grp == g.id && (f.kind == .load || f.kind == .atom)) ||
  (s.tupleReqs.any fun r => r.grp == g.id) ||
  [false, true].any fun b =>
    match (g.path b).map (fun (q : Path) => q.wait) with
    | some (.bankcfg ..) => true
    | _ => false

/-- MOPF (R125). -/
def execMopf (s : State) : Out :=
  s.word fun g slot p => do
    let _ ← (formCtl .absent .absent .absent noPfx).operands g p
    if s.writesPending g then .error (.park .mopf) else .ok (s.finish g slot 12)

/-- The accumulators of completed operations hold their final values, but where a later operation holds them too or a word wrote
them meanwhile (R120, R126). -/
def State.commitAcc (s : State) (g : Group) : State × Group :=
  let keep := g.accRuns.filter fun a => !a.done
  let g1 := { g with accRuns := keep }
  let keys := dedup (((g.accRuns.filter fun a => a.done).map fun a => accKeys a.first [a.quarter]).flatten)
  let mine := keys.filter fun k => !g1.accBusy k.1 k.2
  let g2 := mine.foldl (fun g k =>
    let n := 32 * k.1 + k.2
    { g with v := g.v.setWord n (if g.accHit.contains n then (s.taking g.ctx).word n else (g.acc.get? n).getD 0), acc := g.acc.del n }) g1
  (s.took g.ctx, { g2 with accHit := g.accHit.filter fun n => !(mine.any fun k => 32 * k.1 + k.2 == n) })

/-- A byte lies in an array of a command. -/
def Claim.covers (c : Claim) (o : Nat) : Bool := decide (c.off ≤ o) && decide (o < c.off + c.len)

/-- A byte that no command claims any more holds what the sequencer left, but where something wrote it meanwhile (R135). -/
def Block.uncoverByte (free : Take) (b : Block) (o : Nat) : Block :=
  if b.claimed o then b
  else
    { b with scratch := b.scratch.setByte o (if b.hits.contains o then free.byte o else b.shadow.byte o),
             shadow := b.shadow.clear o, hits := b.hits.filter fun h => h != o }

/-- The bytes of arrays that are given up, each once. -/
def Block.uncoverRuns (free : Take) : List Claim → Block → Block
  | [], b => b
  | c :: cs, b =>
    Block.uncoverRuns free cs ((((List.range c.len).map fun i => c.off + i).filter fun o => !(cs.any fun x => x.covers o)).foldl
      (Block.uncoverByte free) b)

/-- Arrays of a block given up (R135). -/
def Block.uncover (b : Block) (free : Take) (gone : Claim → Bool) : Block :=
  Block.uncoverRuns free (b.claims.filter gone) { b with claims := b.claims.filter fun c => !gone c }

/-- The arrays of a group's complete commands (R135). -/
def State.uncover (s : State) (gid : Nat) : State :=
  ((s.blocks.filter fun b => b.claims.any fun c => c.grp == gid && c.done).map fun b => (b.id, b.ctx)).foldl
    (fun (s : State) b => (s.modBlock b.1 fun x => x.uncover (s.taking b.2) fun c => c.grp == gid && c.done).took b.2) s

/-- MWAIT (R126, R127, R135). -/
def execMwait (n : BitVec 8) (s : State) : Out :=
  s.word fun g slot p => do
    let _ ← (formCtl .absent .absent .absent noPfx).operands g p
    if n.toNat < g.outstanding then .error (.park (.mwait n.toNat))
    else if g.psnOps ≠ 0 then .ok (s.tellPath g.id slot .poison p.lanes 0 { ops := g.psnOps })
    else if g.accRuns.isEmpty then .ok ((s.uncover g.id).finish g slot 12)
    else
      let (s1, g1) := s.commitAcc g
      .ok ((s1.uncover g.id).finish g1 slot 12)

end Sys2Proof.Machine
end

