-- ==== Sys2Proof/Machine/Factor.lean ====
section
/-!
DEFINITION. The factor sequencer (R101, R129 to R141, R376, R382): MFAC and MTRS with their descriptor and checks, the fixed-point
algorithms CHOL, LU and the triangular solve, status words, and the events FACTOR_COMMAND_START and FACTOR_MATRIX_COMPLETE.
-/
namespace Sys2Proof.Machine

/-! ## The descriptor (R131, R132) -/

structure FacDesc where
  solve : Bool
  op : Nat
  nrhs : Nat
  f : Nat
  n : Nat
  batch : Nat
  mofs : Nat
  rofs : Nat
  sofs : Nat
  theta : Word
  pofs : Nat
deriving DecidableEq, Repr

def facDesc (solve : Bool) (w : List Word) : FacDesc :=
  let at_ := fun i : Nat => (w[i]?).getD 0
  { solve := solve, op := field (at_ 0) 0 4, nrhs := field (at_ 0) 8 8, f := field (at_ 0) 16 5, n := (at_ 1).toNat,
    batch := (at_ 2).toNat, mofs := (at_ 3).toNat, rofs := (at_ 4).toNat, sofs := (at_ 5).toNat, theta := at_ 6,
    pofs := (at_ 7).toNat }

/-- UPPER, UNIT, TRANS and PERM of MTRS (R131). -/
def FacDesc.upper (d : FacDesc) : Bool := d.op % 2 == 1
def FacDesc.unit (d : FacDesc) : Bool := d.op / 2 % 2 == 1
def FacDesc.trans (d : FacDesc) : Bool := d.op / 4 % 2 == 1
def FacDesc.perm (d : FacDesc) : Bool := d.op / 8 % 2 == 1
def FacDesc.lu (d : FacDesc) : Bool := !d.solve && d.op == 1
/-- The command reads or writes pivot bytes. -/
def FacDesc.pivots (d : FacDesc) : Bool := if d.solve then d.perm else d.op == 1

/-- The descriptor obeys R131. -/
def FacDesc.ok (d : FacDesc) (w0 : Word) : Bool :=
  field w0 4 4 == 0 && field w0 21 11 == 0 && decide (d.f ≤ 30) && decide (1 ≤ d.n) && decide (d.n ≤ 32) && decide (1 ≤ d.batch) &&
    decide (d.batch ≤ 4096) && d.mofs % 4 == 0 && d.sofs % 4 == 0 &&
    (if d.solve then decide (1 ≤ d.nrhs) && decide (d.nrhs ≤ 32) && d.rofs % 4 == 0
     else decide (d.op ≤ 1) && d.nrhs == 0 && !d.theta.msb)

/-- The arrays of the whole batch: offset and length (R132). -/
def FacDesc.arrays (d : FacDesc) : List (Nat × Nat) :=
  [(d.mofs, 4 * d.n * d.n * d.batch)] ++ (if d.solve then [(d.rofs, 4 * d.n * d.nrhs * d.batch)] else []) ++
    [(d.sofs, 4 * d.batch)] ++ (if d.pivots then [(d.pofs, d.n * d.batch)] else [])

/-- The parts of the arrays that matrix m has, in the same order. -/
def FacDesc.parts (d : FacDesc) (m : Nat) : List (Nat × Nat) :=
  [(d.mofs + 4 * d.n * d.n * m, 4 * d.n * d.n)] ++ (if d.solve then [(d.rofs + 4 * d.n * d.nrhs * m, 4 * d.n * d.nrhs)] else []) ++
    [(d.sofs + 4 * m, 4)] ++ (if d.pivots then [(d.pofs + d.n * m, d.n)] else [])

/-! ## Issue (R133 to R135) -/

/-- A byte offset outside the block's own allocation, which is at most 2^21 bytes. The spec does not say which one TRAP.ADDR names (R133): it is
the first outside byte of the first bad array, in the order matrix, right-hand sides, status, pivots, as an offset without a member index
(log 68). -/
def State.badArray (s : State) (g : Group) (d : FacDesc) : Option Nat :=
  d.arrays.findSome? fun r => if r.1 + r.2 ≤ s.scratchSize g then none else some (max r.1 (s.scratchSize g))

/-- The arrays of a posted command: the sequencer sees their bytes, and everyone else UNSPECIFIED ones until an MWAIT (R135). -/
def Block.claim (b : Block) (free : Take) (cmd grp : Nat) (runs : List (Nat × Nat)) : Block :=
  runs.foldl (fun b r =>
    let os := ((List.range r.2).map fun i => r.1 + i).filter fun o => !b.claimed o
    let b1 := os.foldl (fun b o =>
      { b with shadow := b.shadow.setByte o (b.scratch.byte o), scratch := b.scratch.setByte o (free.byte o) }) b
    { b1 with claims := b1.claims ++ [{ cmd := cmd, grp := grp, off := r.1, len := r.2, done := false }] }) b

/-- Posting order: the cycle, then CLUSTER × 4 + CORE and group slot (R134). -/
def FactorCmd.postKey (k : FactorCmd) : List Nat := [k.cycle, k.rank, k.id]

/-- MFAC and MTRS at issue (R133, R134). -/
def factorPost (solve : Bool) (a : BitVec 8) (s : State) : Out :=
  s.word fun g slot p => do
    let r ← (formCtl .absent (.ud a 8) .absent regOnly).operands g p
    let w := s.gregsNow g r.a.num 8
    let d := facDesc solve w
    trapIf (!d.ok ((w[0]?).getD 0)) .format p.lanes
    match s.badArray g d with
    | some x => .error (.trap .scratchBounds p.lanes x)
    | none =>
      if s.entriesFree g.cluster = 0 then .error (.park .entries)
      else
        let (i, s1) := s.newId
        let k : FactorCmd := { id := i, grp := g.id, block := g.block, ctx := g.ctx, solve := solve, desc := w,
                               cycle := s.cycleNo g.cluster, rank := g.postRank, next := 0, started := false, due := 0, psn := false }
        let s2 := (s1.took g.ctx).modCluster g.cluster fun c => { c with factor := insertBy FactorCmd.postKey k c.factor }
        let s3 := s2.modBlock g.block fun b => b.claim (s1.taking g.ctx) i g.id d.arrays
        .ok (s3.finish { g with outstanding := g.outstanding + 1 } slot 12)

/-- MFAC (R376). -/
def execMfac (a : BitVec 8) : State → Out := factorPost false a

/-- MTRS (R382). -/
def execMtrs (a : BitVec 8) : State → Out := factorPost true a

/-! ## Arithmetic (R101) -/

/-- What a matrix has computed so far: the matrix, its right-hand sides, its pivots, and the status (R140). -/
structure Fac where
  /-- column-major: element (i, j) at i + n × j -/
  a : List Int
  /-- element (i, c) at i + n × c -/
  b : List Int
  piv : List Nat
  firstReg : Option Nat
  count : Nat
  ovf : Bool
  firstSat : Option Nat
  /-- a pivot byte of n or more (R139) -/
  wild : Bool
deriving DecidableEq, Repr

/-- A clamp or a saturation in a step (R140). -/
def Fac.sat (x : Fac) (j : Nat) (b : Bool) : Fac :=
  if b then { x with ovf := true, firstSat := some (x.firstSat.getD j) } else x

/-- regularise(j) (R140). -/
def Fac.regularise (x : Fac) (j : Nat) : Fac := { x with count := x.count + 1, firstReg := some (x.firstReg.getD j) }

def Fac.setA (x : Fac) (i : Nat) (v : Int) : Fac := { x with a := x.a.set i v }
def Fac.setB (x : Fac) (i : Nat) (v : Int) : Fac := { x with b := x.b.set i v }

/-- One term taken from a 64-bit sum, with its clamp (R101). -/
def subTerm (t : Int × Bool) (p : Int) : Int × Bool :=
  let x := t.1 - p
  (clampInt x (-9223372036854775808) 9223372036854775807, t.2 || decide (x < -9223372036854775808) || decide (9223372036854775807 < x))

/-- x × 2^f less the products, term by term (R101, R137 to R139). -/
def lessProducts (f : Nat) (x : Int) (ps : List Int) : Int × Bool := ps.foldl subTerm (x * 2 ^ f, false)

/-- A value written to the scratchpad, and whether it saturated (R101). -/
def stored (x : Int) : Int × Bool := (satS32 x, satS32Clamps x)

/-! ## CHOL (R137) -/

def Fac.at (x : Fac) (n i j : Nat) : Int := (x.a[i + n * j]?).getD 0

def cholColumn (f n : Nat) (theta : Int) (x : Fac) (j : Nat) : Fac :=
  let (d0, c0) := lessProducts f (x.at n j j) ((List.range j).map fun k => x.at n j k * x.at n j k)
  let low := decide (d0 < theta * 2 ^ f)
  let d := if low then theta * 2 ^ f else d0
  let x1 := if low then (x.sat j c0).regularise j else x.sat j c0
  let (l, c1) := stored (isqrt d)
  let x2 := (x1.sat j c1).setA (j + n * j) l
  (List.range (n - (j + 1))).foldl (fun x r =>
    let i := j + 1 + r
    let (t, c2) := lessProducts f (x.at n i j) ((List.range j).map fun k => x.at n i k * x.at n j k)
    let (q, c3) := stored (rdiv t l)
    (x.sat j (c2 || c3)).setA (i + n * j) q) x2

def cholAll (f n : Nat) (theta : Int) (x : Fac) : Fac := (List.range n).foldl (cholColumn f n theta) x

/-! ## LU (R138) -/

/-- Two rows of the matrix swapped in every column. -/
def Fac.swapRows (x : Fac) (n i j : Nat) : Fac :=
  (List.range n).foldl (fun x c => (x.setA (i + n * c) (x.at n j c)).setA (j + n * c) (x.at n i c)) x

/-- The first of the largest magnitudes (R138). -/
def largest (vs : List Int) : Nat :=
  ((List.range vs.length).foldl (fun (b : Nat × Int) i =>
    let v := (((vs[i]?).getD 0).natAbs : Int)
    if b.2 < v then (i, v) else b) (0, -1)).1

def luColumn (f n : Nat) (theta : Int) (x : Fac) (j : Nat) : Fac :=
  let x1 := (List.range j).foldl (fun x i =>
    let (t, c) := lessProducts f (x.at n i j) ((List.range i).map fun k => x.at n i k * x.at n k j)
    let (u, c') := stored (qround t f)
    (x.sat j (c || c')).setA (i + n * j) u) x
  let sums := (List.range (n - j)).map fun r =>
    lessProducts f (x1.at n (j + r) j) ((List.range j).map fun k => x1.at n (j + r) k * x1.at n k j)
  let vs := sums.map fun t => stored (qround t.1 f)
  let p := largest (vs.map fun v => v.1)
  let x2 := x1.sat j ((sums.any fun t => t.2) || ((vs[p]?).map fun v => v.2).getD false)
  let cs := (sums.map fun t => t.1)
  let cs1 := (cs.set p ((cs[0]?).getD 0))
  let x3 := { x2.swapRows n j (j + p) with piv := x2.piv.set j (j + p) }
  let v := ((vs[p]?).getD (0, false)).1
  let low := decide ((v.natAbs : Int) < theta)
  let u := if low then (if v < 0 then -theta else theta) else v
  let x4 := (if low then x3.regularise j else x3).setA (j + n * j) u
  (List.range (n - (j + 1))).foldl (fun x r =>
    let (q, c) := stored (rdiv ((cs1[r + 1]?).getD 0) u)
    (x.sat j c).setA (j + 1 + r + n * j) q) x4

def luAll (f n : Nat) (theta : Int) (x : Fac) : Fac := (List.range n).foldl (luColumn f n theta) x

/-! ## The triangular solve (R139) -/

def Fac.rhs (x : Fac) (n i c : Nat) : Int := (x.b[i + n * c]?).getD 0

/-- Rows of B swapped by the pivot bytes, in ascending order. -/
def permute (n nrhs : Nat) (x : Fac) : Fac :=
  (List.range n).foldl (fun x j =>
    let p := (x.piv[j]?).getD 0
    if n ≤ p then { x with wild := true, ovf := true }
    else
      (List.range nrhs).foldl (fun x c => (x.setB (j + n * c) (x.rhs n p c)).setB (p + n * c) (x.rhs n j c)) x) x

/-- T(i, k) of a solve. -/
def FacDesc.elem (d : FacDesc) (x : Fac) (i k : Nat) : Int := if d.trans then x.at d.n k i else x.at d.n i k

def solveRow (d : FacDesc) (x : Fac) (i : Nat) : Fac :=
  let ks := if d.upper then (List.range (d.n - (i + 1))).map fun r => i + 1 + r else List.range i
  let t := d.elem x i i
  let x1 := if !d.unit && t == 0 then x.regularise i else x
  (List.range d.nrhs).foldl (fun x c =>
    let (s, c1) := lessProducts d.f (x.rhs d.n i c) (ks.map fun k => d.elem x i k * x.rhs d.n k c)
    let (v, c2) := stored (if d.unit then qround s d.f else rdiv s t)
    (x.sat i (c1 || c2)).setB (i + d.n * c) v) x1

def solveAll (d : FacDesc) (x : Fac) : Fac :=
  let x1 := if d.perm then permute d.n d.nrhs x else x
  (if d.upper then (List.range d.n).reverse else List.range d.n).foldl (solveRow d) x1

/-- The work of one matrix. -/
def FacDesc.run (d : FacDesc) (x : Fac) : Fac :=
  if d.solve then solveAll d x
  else if d.op = 0 then cholAll d.f d.n d.theta.toInt x
  else luAll d.f d.n d.theta.toInt x

/-- The status word (R140). Where a pivot byte is wild, FIRSTSAT follows outputs that are UNSPECIFIED. -/
def Fac.status (x : Fac) (free : Take) : Word :=
  let sat := if x.wild then (free.byte (2 ^ 30)).toNat else x.firstSat.getD 255
  BitVec.ofNat 32 ((if x.count = 0 then 0 else 1) + (if x.ovf then 2 else 0) + 256 * x.firstReg.getD 255 + 65536 * x.count +
    16777216 * sat)

/-! ## The scratchpad (R132) -/

def intsAt (m : Memory) (off n : Nat) : List Int :=
  (List.range n).map fun i => (BitVec.ofNat 32 (leNat (m.bytes (off + 4 * i) 4))).toInt

def intBytes (xs : List Int) : List Byte := (xs.map fun x => leBytes 4 (wordOf x).toNat).flatten

def FacDesc.load (d : FacDesc) (mem : Memory) (m : Nat) : Fac :=
  { a := intsAt mem (d.mofs + 4 * d.n * d.n * m) (d.n * d.n)
    b := if d.solve then intsAt mem (d.rofs + 4 * d.n * d.nrhs * m) (d.n * d.nrhs) else []
    piv := if d.pivots then (mem.bytes (d.pofs + d.n * m) d.n).map fun b => b.toNat else []
    firstReg := none, count := 0, ovf := false, firstSat := none, wild := false }

/-- Offsets of the bytes that the work on matrix m reads, by element (R137 to R139). -/
def FacDesc.reads (d : FacDesc) (m : Nat) : List (Nat × Nat) :=
  let cell := fun (i j : Nat) => (d.mofs + 4 * (d.n * d.n * m + i + d.n * j), 4)
  let used := fun (i j : Nat) =>
    if d.solve then
      let (r, c) := if d.trans then (j, i) else (i, j)
      if r = c then !d.unit else if d.upper then decide (r < c) else decide (c < r)
    else d.op == 1 || decide (j ≤ i)
  (((List.range d.n).map fun j => ((List.range d.n).filter fun i => used i j).map fun i => cell i j).flatten) ++
    (if d.solve then [(d.rofs + 4 * d.n * d.nrhs * m, 4 * d.n * d.nrhs)] else []) ++
    (if d.solve && d.perm then [(d.pofs + d.n * m, d.n)] else [])

/-- The bytes that the work writes: CHOL leaves the strictly upper triangle (R137). -/
def FacDesc.writes (d : FacDesc) (m : Nat) (x : Fac) (free : Take) : List (Nat × List Byte) :=
  let status := [(d.sofs + 4 * m, leBytes 4 (x.status free).toNat)]
  let pivs := [(d.pofs + d.n * m, x.piv.map fun p => BitVec.ofNat 8 p)]
  let column := fun (j i0 : Nat) =>
    (d.mofs + 4 * (d.n * d.n * m + i0 + d.n * j), intBytes ((List.range (d.n - i0)).map fun r => x.at d.n (i0 + r) j))
  if d.solve then [(d.rofs + 4 * d.n * d.nrhs * m, intBytes x.b)] ++ status
  else if d.op = 0 then (List.range d.n).map (fun j => column j j) ++ status
  else (List.range d.n).map (fun j => column j 0) ++ pivs ++ status

/-- Offset o lies in two or more arrays of the batch (R133). -/
def FacDesc.shared (d : FacDesc) (o : Nat) : Bool :=
  decide (1 < (d.arrays.filter fun r => decide (r.1 ≤ o) && decide (o < r.1 + r.2)).length)

/-- Offsets of matrix m that lie in two arrays. -/
def FacDesc.overlap (d : FacDesc) (m : Nat) : List Nat :=
  if (List.range d.arrays.length).any fun i => (d.arrays.drop (i + 1)).any fun b =>
      ((d.arrays[i]?).map fun a => runsMeet a.1 a.2 b.1 b.2).getD false then
    (((d.parts m).map fun r => (List.range r.2).map fun i => r.1 + i).flatten).filter d.shared
  else []

/-- What the sequencer reads: a byte that a group wrote in a claimed array is UNSPECIFIED to it from then on (R135). -/
def Block.seen (b : Block) (free : Take) : Memory := b.hits.foldl (fun m o => m.setByte o (free.byte (2 ^ 31 + o))) b.shadow

/-- One matrix done: its outputs and status in what the sequencer sees; UNSPECIFIED where its input is poisoned, where the arrays
overlap, or after a wild pivot (R133, R136, R139, R140). -/
def Block.matrix (b : Block) (d : FacDesc) (m : Nat) (free : Take) (bad : Bool) : Block × Bool :=
  let psn := bad || (d.reads m).any fun r => (firstPoison b.psn r.1 r.2).isSome
  let x := d.run (d.load (b.seen free) m)
  let out := d.writes m x free
  let m1 := out.foldl (fun m w => m.setBytes w.1 w.2) b.shadow
  let outs := fun ws : List (Nat × List Byte) => (ws.map fun w => (List.range w.2.length).map fun i => w.1 + i).flatten
  let meet := d.overlap m
  let open_ :=
    (if psn then outs out else []) ++ (if x.wild then (List.range (4 * d.n * d.nrhs)).map fun i => d.rofs + 4 * d.n * d.nrhs * m + i else []) ++
      (if meet.isEmpty then [] else meet ++ (List.range 4).map fun i => d.sofs + 4 * m + i)
  ({ b with shadow := scramble free m1 open_ }, psn)

/-! ## The sequencer (R134, R136, R141) -/

/-- Cycles of a matrix (R141). -/
def FacDesc.cycles (d : FacDesc) : Nat :=
  if d.solve then d.n * (d.n + 3) / 2 + (if d.perm then d.n else 0)
  else if d.op = 0 then d.n * (d.n + 5) / 2
  else d.n * (d.n + 7) / 2

def FactorCmd.form (k : FactorCmd) : FacDesc := facDesc k.solve k.desc

/-- The command whose turn it is: the one that runs, else the first that holds an entry; the commands of a context that stops leave the sequencer
between matrices (R134, R136). -/
def State.factorHead (s : State) (c : Cluster) : Option FactorCmd :=
  ((s.factorHolders c).find? fun k => k.started).or (s.factorHolders c).head?

def State.setFactor (s : State) (cl : Nat) (k : FactorCmd) : State :=
  s.modCluster cl fun c => { c with factor := mapIf (fun x => x.id == k.id) (fun _ => k) c.factor }

/-- FACTOR_COMMAND_START (R134): no other command runs; 16 cycles and the first matrix (R141). The commands posted in a cycle are first taken in
the next, so that those of one cycle keep their order. The spec does not say whether a command that a restore resumes takes the 16 cycles
again: here every start does (log 69). -/
def onFactorCommandStart (cl : Nat) (s : State) : Option State :=
  match s.cluster? cl with
  | none => none
  | some c =>
    match s.factorHead c with
    | none => none
    | some k =>
      if k.started || decide (s.cycleNo cl ≤ k.cycle) then none
      else some (s.setFactor cl { k with started := true, due := s.ticks + (16 + k.form.cycles) * s.cycle cl })

/-- FACTOR_COMMAND_START; nothing happens where it cannot occur (log 48). -/
def execFactorCommandStart (cl : Nat) (s : State) : Out := s.occurs (onFactorCommandStart cl s)

/-- The command is complete: one operation less is outstanding, its entry is free (R126, R127, R134). -/
def State.endFactor (s : State) (cl : Nat) (k : FactorCmd) (psn : Bool) : State :=
  let s1 := (s.modCluster cl fun c => { c with factor := c.factor.filter fun x => x.id != k.id }).modBlock k.block fun b =>
    { b with claims := mapIf (fun x => x.cmd == k.id) (fun x => { x with done := true }) b.claims }
  (s1.modGroup k.grp fun g =>
    { g with outstanding := g.outstanding - 1, psnOps := g.psnOps + (if psn then 1 else 0) }).wakeOps cl

/-- One matrix of a command: its outputs, its energy of n counts under class 9, and the next matrix or the end (R130, R134, R136). A
command with a poisoned matrix is marked, and reported once. -/
def State.factorMatrix (s : State) (cl : Nat) (k : FactorCmd) (bad : Bool) : State :=
  let d := k.form
  match s.block? k.block with
  | none => s.endFactor cl k false
  | some b =>
    let (b1, psn) := b.matrix d k.next (s.taking k.ctx) bad
    let s1 := ((s.took k.ctx).modBlock b.id fun _ => b1).charge k.ctx 9 d.n
    let s2 := if psn && !k.psn then s1.setFactor cl { k with psn := true } else s1
    let k1 := { k with psn := k.psn || psn, next := k.next + 1 }
    if d.batch ≤ k1.next then s2.endFactor cl k1 k1.psn
    else
      let live := ((s2.ctx? k.ctx).map fun x => x.state == .live).getD false
      let s3 := s2.setFactor cl { k1 with started := live, due := k.due + d.cycles * s.cycle cl }
      if live then s3 else s3.wakeOps cl

/-- FACTOR_MATRIX_COMPLETE (R140, R141). -/
def onFactorMatrixComplete (cl : Nat) (s : State) : Option State :=
  match (s.cluster? cl).bind fun c => s.factorHead c with
  | none => none
  | some k =>
    if k.started && decide (k.due ≤ s.ticks) then some (s.factorMatrix cl k false) else none

/-- FACTOR_MATRIX_COMPLETE; nothing happens where it cannot occur (log 48). -/
def execFactorMatrixComplete (cl : Nat) (s : State) : Out := s.occurs (onFactorMatrixComplete cl s)

/-! ## The residue check (R127, R281, R284) -/

/-- The rest of a command's matrices complete UNSPECIFIED. -/
def State.spoil (s : State) (cl : Nat) (k : FactorCmd) : State :=
  let d := k.form
  let s1 := s.modBlock k.block fun b =>
    let os := ((List.range (d.batch - k.next)).map fun i =>
      ((d.writes (k.next + i) (d.load b.shadow (k.next + i)) (s.taking k.ctx)).map fun w => (List.range w.2.length).map fun j => w.1 + j).flatten).flatten
    { b with shadow := scramble (s.taking k.ctx) b.shadow os }
  (s1.took k.ctx).endFactor cl k true

/-- Every operation in the matrix engine completes poisoned; operations still in the table are left, and find their chunks after the rest of
those that were cut short (R109, R127). -/
def State.resetMatrix (s : State) (cl : Nat) : State :=
  match s.cluster? cl with
  | none => s
  | some c =>
    let s0 := ((c.passes.map fun p => p.streams).flatten).foldl (fun s t => s.owe cl t) s
    let s1 := (c.passes.foldl (fun s p => s.endPass cl p true) s0).discardOwed cl
    match s1.factorHead c with
    | some k => if k.started then s1.spoil cl k else s1
    | none => s1

/-- MATRIX_RESIDUE_ERROR (R127). -/
def execMatrixResidueError (cl : Nat) (s : State) : Out := .next (s.resetMatrix cl)

end Sys2Proof.Machine
end

