-- ==== Sys2Proof/Machine/Cast.lean ====
section
/-!
DEFINITION. The casting engines (R96 to R100, R455 to R461): VTENC with its descriptor and checks, the scale and targets of a block, the
two-pass trellis search, the event CAST_BLOCK_COMPLETE; and what an engine reset does to copies and casting commands (R344, R461).
-/
namespace Sys2Proof.Machine

/-! ## The descriptor (R456, R457) -/

structure CastDesc where
  rate : Nat
  sar : Nat
  dar : Nat
  count : Nat
  sofs : Nat
  dofs : Nat
  cofs : Nat
deriving DecidableEq, Repr

def castDesc (w : List Word) : CastDesc :=
  let at_ := fun i : Nat => (w[i]?).getD 0
  { rate := field (at_ 0) 0 4, sar := field (at_ 0) 4 3, dar := field (at_ 0) 7 3, count := (at_ 1).toNat, sofs := (at_ 2).toNat,
    dofs := (at_ 3).toNat, cofs := (at_ 4).toNat }

def castDescOk (w : List Word) : Bool :=
  let at_ := fun i : Nat => (w[i]?).getD 0
  let d := castDesc w
  decide (2 ≤ d.rate) && decide (d.rate ≤ 4) && decide ((at_ 0).toNat < 1024) && decide (1 ≤ d.count) && decide (d.count ≤ 65536) &&
    at_ 5 == 0 && at_ 6 == 0 && at_ 7 == 0

/-- The three ranges: source or destination, start, length (R457). -/
def CastDesc.ranges (d : CastDesc) (g : Group) : List (Bool × Int × Nat) :=
  let src : Int := (g.addr d.sar).base.toNat
  let dst : Int := (g.addr d.dar).base.toNat
  [(true, src + d.sofs, 1024 * d.count), (false, dst + d.dofs, castBytes d.rate * d.count), (false, dst + d.cofs, 4 * d.count)]

/-- The pieces of the ranges, numbered 0 to 2, for translation in order. -/
def CastDesc.pieces (d : CastDesc) (g : Group) : List (Bool × Nat × Nat × Nat) :=
  let rs := d.ranges g
  (((List.range rs.length).zip rs).map fun (i, b, x, n) =>
    (Sys2Proof.Machine.pieces x.toNat n).map fun p => (b, i, p.1, p.2)).flatten

/-- Runs of one range, each with the same place on both sides. -/
def rangeSegs (ps : List Piece) (i : Nat) : List Seg :=
  (ps.filter fun p => p.row == i).map fun p => { src := p.place, dst := p.place, len := p.len }

/-- The casting engine of a cluster's compute die (R16, R455). -/
def castDie (cl : Nat) : Nat := cl / 16

/-- Ticks of one block: W × 128 + 64 cycles at 2.0 GHz (R461). -/
def castTicks (rate : Nat) : Nat := ((256 / castValues rate) * 128 + 64) * 12

/-- The head command of a die that its engine may serve begins its block: commands of a context that stops wait for its image (R461). -/
def State.castKick (s : State) (die : Nat) : State :=
  match s.castQueues.get? die with
  | none => s
  | some q =>
    match q.find? fun k => k.due != 0 || ((s.ctx? k.ctx).map fun x => x.state == .live).getD false with
    | none => s
    | some k =>
      if k.due ≠ 0 then s
      else { s with castQueues := s.castQueues.put die (mapIf (fun x => x.id == k.id) (fun x => { x with due := s.ticks + castTicks x.rate }) q) }

/-- VTENC (R455, R457). -/
def execVtenc (a : BitVec 8) (s : State) : Out :=
  s.word fun g slot p => do
    let r ← (formCtl .absent (.ud a 8) .absent regOnly).operands g p
    let w := g.gregs r.a.num 8
    let d := castDesc w
    let m := p.lanes
    trapIf (!castDescOk w) .format m
    trapIf (!(g.addr d.sar).valid || !(g.addr d.dar).valid) .address m
    let rs := d.ranges g
    match rs.findSome? fun r => badGlobal r.2.1 r.2.2 with
    | some x => .error (.trap .address m x)
    | none =>
      match rs.find? fun r => r.2.1 % 4 ≠ 0 with
      | some r => .error (.trap .misaligned m r.2.1.toNat)
      | none => do
        let (s1, ps) := s.mature.xlatPieces g (d.pieces g)
        match pieceFault ps, pageOf ps with
        | some (c, va), _ => .ok (s1.trapPath g.id slot c m va)
        | none, some (pc, l) => .ok (s1.parkPage g.id slot (if pc.isSrc then .copySrc else .copyDst) m pc.va l [])
        | none, none =>
          let es := ps.filterMap fun p => p.fetchOf.map fun e => (e, p.va)
          if !es.isEmpty then .ok (s1.copyFetch g slot p es)
          else
            let (i, s2) := s1.newId
            let die := castDie g.cluster
            let k : CastCmd :=
              { id := i, grp := g.id, ctx := g.ctx, cluster := g.cluster, batch := g.batchNext, rate := d.rate, count := d.count,
                next := 0, src := rangeSegs ps 0, blocks := rangeSegs ps 1, costs := rangeSegs ps 2, due := 0 }
            let s3 := { s2 with castQueues := s2.castQueues.put die ((s2.castQueues.get? die).getD [] ++ [k]) }.castKick die
            .ok (s3.finish g slot 12)

/-! ## Scale and targets (R458) -/

/-- Magnitude of a BF16 code in units of 2^-149. -/
def halfMag (h : Nat) : Nat :=
  match fpOfHalf h with
  | .fin _ n => n
  | _ => 0

/-- The smallest BF16 not below n × 256 / 255, where one is finite. -/
def castScale (n : Nat) : Option Nat := (List.range 0x7F80).find? fun h => decide (n * 256 ≤ halfMag h * 255)

/-- The target of a weight of n units under a scale of m units. -/
def castTarget (neg : Bool) (n m : Nat) : Int :=
  let t := min 255 ((2 * n * 256 + m) / (2 * m))
  if neg then -(t : Int) else t

/-- Scale and targets of a block; none where the block is written empty (R458). -/
def castTargets (ws : List Word) : Option (Nat × List Int) :=
  if ws.any fun w => field w 23 8 == 255 then none
  else
    let mags := ws.map fun w => match fpOf w with
      | .fin s n => (s, n)
      | _ => (false, 0)
    let top := mags.foldl (fun t x => max t x.2) 0
    if top = 0 then some (0, mags.map fun _ => 0)
    else (castScale top).map fun h => (h, mags.map fun x => castTarget x.1 x.2 (halfMag h))

/-! ## The search (R459) -/

/-- cost(i, w). -/
def windowCost (vals : Nat) (ts : List Int) (i w : Nat) : Nat :=
  (List.range vals).foldl (fun t p => t + ((castV w p - (ts[i * vals + p]?).getD 0) ^ 2).toNat) 0

/-- The lesser of two reached costs with their windows, the first of equals. -/
def lesserCost (a b : Option (Nat × Nat × Nat)) : Option (Nat × Nat × Nat) :=
  match a, b with
  | none, b => b
  | a, none => a
  | some x, some y => if x.1 < y.1 ∨ (x.1 = y.1 ∧ x.2.1 ≤ y.2.1) then some x else some y

/-- One window of the search: for each state the least cost that reaches it, with the state and the window that attain it. -/
def trellisStep (step states vals : Nat) (ts : List Int) (i : Nat) (cost : Array (Option Nat)) : Array (Option (Nat × Nat × Nat)) :=
  (Array.range states).map fun y =>
    (List.range (2 ^ step)).foldl (fun best k =>
      let w := y * 2 ^ step + k
      let z := w % states
      lesserCost best (((cost[z]?).getD none).map fun x => (x + windowCost vals ts i w, z, w))) none

/-- The states' costs after all windows. -/
def trellisCosts (step states vals : Nat) (ts : List Int) (n : Nat) (cost : Array (Option Nat)) : Array (Option Nat) :=
  (List.range n).foldl (fun c i => (trellisStep step states vals ts i c).map fun x => x.map fun y => y.1) cost

/-- The tables of pass 2, the last window's first. -/
def trellisTables (step states vals : Nat) (ts : List Int) (n : Nat) (cost : Array (Option Nat)) :
    List (Array (Option (Nat × Nat × Nat))) :=
  ((List.range n).foldl (fun (r : Array (Option Nat) × List (Array (Option (Nat × Nat × Nat)))) i =>
    let t := trellisStep step states vals ts i r.1
    (t.map (fun x => x.map fun y => y.1), t :: r.2)) (cost, [])).2

/-- The windows from the last to the first, from the state they end in. -/
def trellisWindows (states : Nat) : List (Array (Option (Nat × Nat × Nat))) → Nat → List Nat
  | [], _ => []
  | t :: ts, y =>
    let w := ((((t[y]?).getD none).map fun x => x.2.2).getD 0)
    w :: trellisWindows states ts (w % states)

/-- The least cost of an array, ties to the lowest state. -/
def leastState (cost : Array (Option Nat)) : Nat :=
  ((List.range cost.size).foldl (fun (b : Option (Nat × Nat)) z =>
    match b, (cost[z]?).getD none with
    | none, some x => some (x, z)
    | some (m, y), some x => if x < m then some (x, z) else some (m, y)
    | b, none => b) none |>.map fun x => x.2).getD 0

/-- Total cost and windows of a block's targets (R459). -/
def castSearch (rate : Nat) (ts : List Int) : Nat × List Nat :=
  let step := castStep rate
  let states := 2 ^ (16 - step)
  let vals := castValues rate
  let n := 256 / vals
  let e := leastState (trellisCosts step states vals ts n (Array.replicate states (some 0)))
  let tables := trellisTables step states vals ts n ((Array.range states).map fun z => if z = e then some 0 else none)
  let total := ((tables.head?.bind fun t => (t[e]?).getD none).map fun x => x.1).getD 0
  (total, (trellisWindows states tables e).reverse)

/-- Byte b of the stream of a list of windows: stream bit i × step + k is bit k of window i. -/
def streamByte (step : Nat) (ws : List Nat) (b : Nat) : Byte :=
  BitVec.ofNat 8 ((List.range 8).foldl (fun x j =>
    let n := 8 * b + j
    x + ((ws[n / step]?).getD 0) / 2 ^ (n % step) % 2 * 2 ^ j) 0)

/-- The bytes of a block and its cost word (R458 to R460). -/
def castBlock (rate : Nat) (ws : List Word) : List Byte × Word :=
  match castTargets ws with
  | none => (List.replicate (castBytes rate) 0, 0xFFFFFFFF)
  | some (h, ts) =>
    let (total, wins) := castSearch rate ts
    (leBytes 2 h ++ [0, 0] ++ (List.range (castBits rate / 8)).map (streamByte (castStep rate) wins), BitVec.ofNat 32 total)

/-! ## Execution (R460, R461) -/

/-- The part `[off, off + n)` of a list of runs. -/
def cutSegs : List Seg → Nat → Nat → List Seg
  | [], _, _ => []
  | g :: gs, off, n =>
    if n = 0 then []
    else if g.len ≤ off then cutSegs gs (off - g.len) n
    else
      let k := min n (g.len - off)
      { src := g.src.skip off, dst := g.dst.skip off, len := k, ofs := g.ofs + off } :: cutSegs gs 0 (n - k)

/-- A casting command as a copy: what it reads and what it writes with. -/
def CastCmd.copy (k : CastCmd) (segs : List Seg) : Copy :=
  { id := k.id, grp := k.grp, ctx := k.ctx, batch := k.batch, prio := false, segs := segs, all := segs, carry := [], carryPsn := [] }

/-- Bytes and poison of runs at their source. -/
def State.readSegs (s : State) (g : Group) (segs : List Seg) : List Byte × Bool :=
  segs.foldl (fun (r : List Byte × Bool) p =>
    let (bs, psn) := s.readPlace g p.src p.len
    (r.1 ++ bs, r.2 || psn)) ([], false)

/-- Bytes written over runs, with their sectors (R263); one that is also a source byte of the command is UNSPECIFIED (R457). -/
def State.writeSegs (s : State) (k : CastCmd) (g : Group) : List Seg → List Byte → Bool → State
  | [], _, _ => s
  | p :: ps, bs, psn =>
    let s1 := (p.split p.len).foldl (fun (r : State × List Byte) q =>
      let mine := r.2.take q.len
      let open_ := ((List.range mine.length).zip mine).map fun (i, b) =>
        if k.src.any fun t => t.src.meets t.len (q.dst.skip i) 1 then (r.1.taking k.ctx).byte i else b
      (((r.1.took k.ctx).writePlace (k.copy []) g q.dst open_ psn).1, r.2.drop q.len)) (s.chargeSide k.ctx p.dst p.ofs p.len true, bs.take p.len)
    s1.1.writeSegs k g ps (bs.drop p.len) psn

/-- One block: read at its homes, searched and written with its cost word (R263, R460). -/
def State.castOne (s0 : State) (k : CastCmd) (g : Group) : State :=
  let src := cutSegs k.src (1024 * k.next) 1024
  let s := src.foldl (fun s p => (s.readyRun p).chargeSide k.ctx p.src p.ofs p.len false) s0
  let (bs, psn) := s.readSegs g src
  let (block, cost) := castBlock k.rate (leWords bs 256)
  let n := castBytes k.rate
  let s1 := s.writeSegs k g (cutSegs k.blocks (n * k.next) n) block psn
  (s1.writeSegs k g (cutSegs k.costs (4 * k.next) 4) (leBytes 4 cost.toNat) psn).charge k.ctx 10 16

/-- The queue of a die without a command, or with it replaced. -/
def State.setCast (s : State) (die : Nat) (k : CastCmd) : State :=
  { s with castQueues := s.castQueues.modify die fun q => mapIf (fun x => x.id == k.id) (fun _ => k) q }
def State.dropCast (s : State) (die : Nat) (id : Nat) : State :=
  { s with castQueues := s.castQueues.modify die fun q => q.filter fun x => x.id != id }

/-- CAST_BLOCK_COMPLETE (R460, R461). -/
def onCastBlockComplete (die : Nat) (s : State) : Option State :=
  match (s.castQueues.get? die).bind fun q => q.find? fun k => k.due != 0 with
  | none => none
  | some k =>
    match s.group? k.grp with
    | none => none
    | some g =>
      match if k.due ≤ s.ticks then s.copyMiss (k.copy k.src) else none with
      | some e => s.seekPeer k.ctx e.peerPage
      | none =>
      if decide (k.due ≤ s.ticks) && s.sourcesReady (k.copy k.src) then
        let s1 := (s.mature.renew k.ctx).castOne k g
        if k.next + 1 < k.count then some ((s1.setCast die { k with next := k.next + 1, due := 0 }).castKick die)
        else some (((s1.dropCast die k.id).castKick die).wakeWhere fun g w => g.id == k.grp && w == .exitDrain)
      else none

/-- CAST_BLOCK_COMPLETE; nothing happens where it cannot occur (log 48). -/
def execCastBlockComplete (die : Nat) (s : State) : Out := s.occurs (onCastBlockComplete die s)

/-! ## Engine resets (R344, R461) -/

/-- The batch of a command is marked (R344). -/
def State.markBatch (s : State) (gid : Nat) (n : Word) : State :=
  s.modGroup gid fun g => { g with batches := noteBatch g.batches n 0 0 true }

/-- Destination bytes of runs become UNSPECIFIED. -/
def State.scrambleSegs (s : State) (k : Copy) (g : Group) (segs : List Seg) : State :=
  ((segs.map fun p => p.split p.len).flatten).foldl (fun s p =>
    match p.dst with
    | .queue .. => s
    | _ => ((s.took k.ctx).writePlace k g p.dst ((List.range p.len).map fun i => (s.taking k.ctx).byte i) false).1) s

/-- The rows that a copy has pushed and that are still in a FIFO of its cluster become UNSPECIFIED. -/
def State.scrambleRows (s : State) (cl : Nat) (k : Copy) : State :=
  let t := s.taking k.ctx
  let row := fun (f : Fifo) (i : Nat) (r : Row) =>
    if r.copy == some k.id then { r with data := (List.range 32).map fun j => t.word (32 * (2048 * 16 * f.first + f.base + i) + j) } else r
  (s.modCluster cl fun c => { c with fifos := c.fifos.map fun f =>
      { f with rows := ((List.range f.rows.length).zip f.rows).map fun x => row f x.1 x.2 } }).took k.ctx

/-- A copy engine is reset: its copies are cut short, every destination byte of theirs is UNSPECIFIED, moved before or not, and their batches
are marked (R344). -/
def State.resetCopy (s : State) (cl : Nat) : State :=
  let ks := ((s.cluster? cl).map fun c => c.copies).getD []
  let s1 := ks.foldl (fun s k =>
    match s.group? k.grp with
    | none => s
    | some g => ((s.scrambleSegs k g k.all).scrambleRows cl k).markBatch k.grp k.batch) s
  (s1.modCluster cl fun c => { c with copies := [] }).wakeWhere fun g w =>
    (g.cluster == cl && w == .copyEntry) || (w == .exitDrain && ks.any fun k => k.grp == g.id)

/-- A casting engine is reset: the blocks not yet written are UNSPECIFIED, and the batches marked. -/
def State.resetCast (s : State) (die : Nat) : State :=
  let ks := (s.castQueues.get? die).getD []
  let s1 := ks.foldl (fun s k =>
    match s.group? k.grp with
    | none => s
    | some g =>
      let n := castBytes k.rate
      let left := cutSegs k.blocks (n * k.next) (n * (k.count - k.next)) ++ cutSegs k.costs (4 * k.next) (4 * (k.count - k.next))
      (s.scrambleSegs (k.copy []) g left).markBatch k.grp k.batch) s
  ({ s1 with castQueues := s1.castQueues.del die }).wakeWhere fun g w => (w == Wait.exitDrain) && ks.any fun k => k.grp == g.id

end Sys2Proof.Machine
end

