-- ==== Sys2Proof/Machine/Launch.lean ====
section
/-!
DEFINITION. From launch to issue slot (R220 to R237): submission queues and their events, launch parameter blocks and their checks, the
dependencies of blocks, placement, group start; EXIT, the end of a group, a block and a launch (R229 to R231, R348, R349), and TRIG (R228).
-/
namespace Sys2Proof.Machine

/-! ## Submission queues (R220 to R222) -/

def Vf.queue? (v : Vf) (q : Nat) : Option SubQueue := v.queues[q]?
def State.modQueue (s : State) (vf q : Nat) (f : SubQueue → SubQueue) : State :=
  s.modVf vf fun v => { v with queues := modifyAt v.queues q f }

/-- Records free for the host (R221). -/
def SubQueue.freeRecords (q : SubQueue) : Int := (q.size.toNat : Int) - 1 - ((q.wr.toNat : Int) - q.rd.toNat) % q.size.toNat

def powerOfTwo (n : Nat) : Bool := decide (n ≠ 0) && 2 ^ n.log2 == n

/-- Checks 1 and 2 of R221: the cause, or 0. Bits 7:0 of SQ.BASE are zero, so its address is a multiple of 256. -/
def Vf.queueCause (v : Vf) (q : SubQueue) : Nat :=
  let bound := ((v.windows[q.part.toNat]?).map fun w => w.2).getD 0
  if v.parts.length ≤ q.part.toNat ∨ bound < q.addr.toNat * 256 + 256 * q.size.toNat then 1
  else if !powerOfTwo q.size.toNat || decide (q.size.toNat < 2) || decide (65536 < q.size.toNat) then 2
  else 0

/-- Checks 1 to 4 for a written WR. -/
def Vf.doorbellCause (v : Vf) (q : SubQueue) (wr : Nat) : Nat :=
  let c := v.queueCause q
  let size := q.size.toNat
  if c ≠ 0 then c
  else if size ≤ wr then 3
  else if q.freeRecords < ((wr : Int) - q.wr.toNat) % size then 4
  else 0

/-- ERROR with its cause, and the function's error interrupt (R221, R289). -/
def State.queueError (s : State) (vf q cause : Nat) : State :=
  let s1 := s.modQueue vf q fun x => { x with state := .error, cause := BitVec.ofNat 4 cause }
  { s1 with outbox := s1.outbox ++ [.msix vf 0] }

/-- SQ_ENABLE: ENABLE goes from 0 to 1, and the queue starts afresh (R221). -/
def execSqEnable (vf q : Nat) (s : State) : Out :=
  match (s.vf? vf).bind fun v => (v.queue? q).map fun x => (v, x) with
  | none => .next s
  | some (v, x) =>
    if x.enable then .next s
    else
      let s1 := s.modQueue vf q fun x => { x with enable := true, rd := 0, wr := 0, seq := 0, state := .running, cause := 0, rejected := [] }
      let s2 := { s1 with launches := mapIf (fun l => l.vf == vf && l.queue == q) (fun l => { l with seq := 0 }) s1.launches }
      let c := v.queueCause { x with rd := 0, wr := 0 }
      .next (if c = 0 then s2 else s2.queueError vf q c)

/-- SQ_DISABLE (R221). -/
def execSqDisable (vf q : Nat) (s : State) : Out :=
  .next (s.modQueue vf q fun x => { x with enable := false, state := .disabled, cause := 0 })

/-- SQ_DOORBELL (R5, R221): WR holds the value written, whatever the checks say of it. While ENABLE is 0 no check is made. -/
def execSqDoorbell (vf q : Nat) (wr : BitVec 16) (s : State) : Out :=
  match (s.vf? vf).bind fun v => (v.queue? q).map fun x => (v, x) with
  | none => .next s
  | some (v, x) =>
    let s1 := s.modQueue vf q fun x => { x with wr := wr }
    if !x.enable then .next s1
    else
      match v.doorbellCause x wr.toNat with
      | 0 => .next s1
      | c => .next (s1.queueError vf q c)

/-! ## The launch parameter block (R223, R226, R232) -/

def parseLpb (bs : List Byte) : Lpb :=
  let num := fun (o n : Nat) => leNat ((bs.drop o).take n)
  { codeBase := num 0 8, entry := num 8 4, gx := num 0xC 4, gy := num 0x10 4, gz := num 0x14 4, threads := num 0x18 2, gang := num 0x1A 1,
    flags := num 0x1B 1, vRegs := num 0x1C 1, gRegs := 64 * num 0x1D 1, cls := num 0x1E 1, floor := num 0x1F 1, scratch := num 0x20 4,
    ctx := num 0x24 2, prio := num 0x26 1, divstack := num 0x27 1, trapVec := num 0x28 4, tgt := num 0x2C 2, ivl := num 0x2E 1,
    tag := num 0x30 4, mapKind := num 0x34 1, mapP := num 0x35 1, mapQ := num 0x36 1, mapR := num 0x37 1, bitmap := num 0x38 8,
    args := leWords (bs.drop 0x80) 32, zero2F := num 0x2F 1 == 0, zeros := num 0x40 64 == 0 }

def Lpb.persistent (l : Lpb) : Bool := l.flags % 2 == 1
def Lpb.secure (l : Lpb) : Bool := l.flags / 2 % 2 == 1

/-- Groups of a block (R232). -/
def Lpb.groups (l : Lpb) : Nat := ceilDiv l.threads 32
/-- Granules of a block (R146, R232). -/
def Lpb.granules (l : Lpb) : Nat := ceilDiv l.scratch 4096

/-- Map parameters (R227). -/
def Lpb.mapOk (l : Lpb) : Bool :=
  decide (l.mapKind ≤ 5) &&
    (if l.mapKind = 5 then decide (1 ≤ l.mapP) && decide (1 ≤ l.mapQ) && l.mapR == 0 else l.mapP == 0 && l.mapQ == 0 && l.mapR == 0)

/-- The checks of R223 before the context id: offsets 0x00 to 0x20. -/
def Lpb.headReason (l : Lpb) (secureVf : Bool) : Nat :=
  if !canonical l.codeBase || l.codeBase % 4 != 0 || l.entry % 4 != 0 then 1
  else if l.gx = 0 ∨ l.gy = 0 ∨ l.gz = 0 ∨ 2 ^ 32 < l.total then 1
  else if l.threads = 0 ∨ 4096 < l.threads ∨ l.gang = 0 ∨ 8 < l.gang then 1
  else if 4 ≤ l.flags then 2
  else if l.secure && !secureVf then 6
  else if l.vRegs < 8 ∨ 244 < l.vRegs ∨ l.vRegs % 4 ≠ 0 ∨ l.gRegs = 0 ∨ 1024 < l.gRegs ∨ 4 ≤ l.cls then 1
  else if 2097152 < l.scratch then 1
  else 0

/-- The floor pool is allowed (R223, R246), by the entry of the performance state as it stood at the allocation (R261). -/
def Lpb.floorOk (l : Lpb) (c : Context) : Bool :=
  decide (l.floor ≤ 3) && decide (l.floor ≤ c.floor) && decide (c.vpsFloor ≤ l.floor)

/-- The checks of R223 after the floor pool: offsets 0x28 to 0x7F, the tag after the map. -/
def Lpb.tailReason (l : Lpb) (seq : Nat) (rejected : List Nat) : Nat :=
  if l.trapVec % 4 ≠ 0 ∨ l.ivl < 4 ∨ 16 < l.ivl then 1
  else if !l.zero2F then 2
  else if !l.mapOk then 1
  else if (if l.mapKind = 0 then l.tag != 0 else l.tag == 0 || decide (seq ≤ l.tag) || rejected.contains l.tag) then 5
  else if l.bitmap ≠ 0 ∧ !canonical l.bitmap then 1
  else if !l.zeros then 2
  else 0

/-- Cores of a partition in service, as 4 × cluster + core (R232). -/
def State.coresIn (s : State) (part : Nat) : List Nat :=
  (s.clusters.map fun (k, c) =>
    if s.clusterPart k == some part then
      (List.range 4).filterMap fun i => if (c.inService[i]?).getD false then some (4 * k + i) else none
    else []).flatten

/-- Clusters of a partition. -/
def State.clustersIn (s : State) (part : Nat) : List Nat :=
  s.clusters.filterMap fun (k, _) => if s.clusterPart k == some part then some k else none

/-- What a gang, or a persistent grid, needs could ever be held (R232). -/
def State.couldHold (s : State) (l : Lpb) (c : Context) : Bool :=
  let n := if l.persistent then l.total else min l.gang l.total
  let cores := min ((c.loop.hi[1]?).getD 0) (s.coresIn c.part).length
  let slots := min ((c.loop.hi[0]?).getD 0) 96
  decide (n * l.groups ≤ cores * slots) && decide (n * l.groups * l.vRegs ≤ cores * 4096) &&
    decide (n * l.groups * l.gRegs ≤ cores * 24576) && decide (n * l.granules ≤ 512 * (s.clustersIn c.part).length)

/-- Reason code of a record, 0 where it is accepted (R223). -/
def State.lpbReason (s : State) (vid : Nat) (v : Vf) (q : SubQueue) (seq : Nat) (l : Lpb) : Nat :=
  let h := l.headReason v.secure
  if h ≠ 0 then h
  else
    match s.ctx? l.ctx with
    | none => 3
    | some c =>
      if c.vf ≠ vid then 3
      else if !l.floorOk c then 7
      else
        let t := l.tailReason seq q.rejected
        if t ≠ 0 then t else if s.couldHold l c then 0 else 4

/-! ## Reading a record (R222, R223, R230) -/

/-- The queue whose turn it is: the next ready one after the one read last (R222). -/
def State.nextQueue (s : State) : Option Nat :=
  let ready := (s.vfs.map fun (i, v) =>
    ((List.range v.queues.length).zip v.queues).filterMap fun (k, q) =>
      if q.state == .running && q.rd != q.wr then some (16 * i + k) else none).flatten
  leastBy (fun k => (k + 8191 - s.lastRead) % 8192) ready

/-- Pages of a run of bytes of a context translated for the station; what stops it first. -/
inductive Stationed where
  | fault
  | wait (es : List TlbEntry)
  | keys (l : List (Nat × Nat))
deriving DecidableEq, Repr

def State.stationXlat (s : State) (cid : Nat) (secure : Bool) (acc : Access) : List (Nat × Nat) → State × Stationed
  | [] => (s, .keys [])
  | (va, n) :: ps =>
    match s.translate cid secure acc va with
    | (s1, .fault ..) => (s1, .fault)
    | (s1, .page _) => (s1, .fault)
    | (s1, x) =>
      match s1.stationXlat cid secure acc ps with
      | (s2, .fault) => (s2, .fault)
      | (s2, .wait es) =>
        match x with
        | .tile e _ => (s2, .wait (e :: es))
        | _ => (s2, .wait es)
      | (s2, .keys l) =>
        match x with
        | .mem k => (s2, .keys ((k, n) :: l))
        | .tile e _ => (s2, .wait [e])
        | _ => (s2, .fault)

/-- The pages of a run of a completion bitmap translated for the station; a byte that is not canonical is a fault of the write (R230). -/
def State.bitmapXlat (s : State) (l : Lpb) (acc : Access) (x n : Nat) : State × Stationed :=
  if canonicalRange x n then s.stationXlat l.ctx l.secure acc (pieces x n) else (s, .fault)

/-- A run of bytes cut at lines and 64 KiB pages, for writes at home. -/
def linePieces (key n : Nat) : List (Nat × Nat) :=
  if n = 0 then []
  else (List.range ((key + n - 1) / 128 - key / 128 + 1)).map fun i =>
    let lo := max key ((key / 128 + i) * 128)
    (lo, min (key + n) ((key / 128 + i + 1) * 128) - lo)

/-- The station's write of a run at its home (R191). -/
def State.stationWrite (s : State) (cid key : Nat) (bs : List Byte) : State :=
  (linePieces key bs.length).foldl (fun s p =>
    let s1 := s.atHome (p.1 / 128)
    s1.accept p.1 ((bs.drop (p.1 - key)).take p.2) (s1.gwctOf (p.1 / 128)) noGroup false .clean cid) s

/-- A rejected record (R223). -/
def SubQueue.reject (q : SubQueue) (seq : Word) (why : Nat) : SubQueue :=
  { q with rejSeq := seq, reason := BitVec.ofNat 4 why, done := q.done + 1, rejected := q.rejected ++ [seq.toNat] }

/-- The latest visibility time of the writes to a run. -/
def State.visAt (s : State) (key n : Nat) : Nat := maxOf (fun p => s.gwctOf (p.1 / 128)) (linePieces key n)

/-- A launch's writes are visible from a time on (R231). -/
def State.seen (s : State) (lid t : Nat) : State := s.modLaunch lid fun l => { l with visible := max l.visible t }

/-- The launch of the same queue that a tag names (R226). -/
def State.tagged (s : State) (vf q : Nat) (l : Lpb) : Option Launch :=
  if l.mapKind = 0 then none else s.launches.find? fun p => p.vf == vf && p.queue == q && p.seq == l.tag && p.seq != 0

/-- LAUNCH_RECORD_READ (R222, R223, R230): the record is read, judged, and RD advances. A completion bitmap in a tile that is not
resident is fetched first, since its zeros are written before any block starts. Where a byte of the bitmap faults, BMFAULT is set and no byte is
zeroed: the spec does not say whether the bytes of its other pages are (DESIGN CHOICE, log 82). -/
def onLaunchRecordRead (vf q : Nat) (s : State) : Option State :=
  match (s.vf? vf).bind fun v => (v.queue? q).map fun x => (v, x) with
  | none => none
  | some (v, x) =>
    if s.nextQueue != some (16 * vf + q) || s.station.mode != .running then none
    else
      let next := fun (s : State) (f : SubQueue → SubQueue) =>
        { (s.modQueue vf q fun x => f { x with seq := x.seq + 1, rd := BitVec.ofNat 16 ((x.rd.toNat + 1) % x.size.toNat) }) with
          lastRead := 16 * vf + q }
      let seq := x.seq + 1
      let done := fun (s : State) => { s with outbox := s.outbox ++ [.msix vf 1] }
      match s.confine v x.part.toNat (x.addr.toNat * 256 + 256 * x.rd.toNat) with
      | none => some (done (next s fun x => x.reject seq 8))
      | some key =>
        let s1 := (s.atHome (key / 128)).recall (key / 128 + 1)
        if (firstPoison s1.poison key 256).isSome then
          some { done (next s1 fun x => x.reject seq 8) with
            station := { s1.station with logged := s1.station.logged + 1 } }
        else
          let l := parseLpb (s1.mem.bytes key 256)
          match s1.lpbReason vf v x seq.toNat l with
          | 0 =>
            let (i, s2) := s1.newId
            let launch : Launch :=
              { id := i, vf := vf, queue := q, seq := seq.toNat, lpb := l, producer := (s.tagged vf q l).map (·.id), visible := 0, accepted := s.ticks, started := [], complete := [], exited := [],
                bitsSet := [], reserved := [], finished := false }
            let accept := fun (s : State) => next { s with launches := s.launches ++ [launch] } id
            if l.bitmap = 0 then some (accept s2)
            else
              match s2.bitmapXlat l .store l.bitmap (ceilDiv l.total 8) with
              | (s3, .fault) => some (accept (s3.modQueue vf q fun x => { x with bmFault := true }))
              | (s3, .wait es) =>
                if es.all fun e => s3.fetches.any fun f => f.isOf e.vf e.page then none
                else some (s3.startFetches l.ctx es).1
              | (s3, .keys ks) =>
                let s4 := accept (ks.foldl (fun s k => s.stationWrite l.ctx k.1 (List.replicate k.2 0)) s3)
                some (s4.seen i (maxOf (fun k => s4.visAt k.1 k.2) ks))
          | why => some (done (next s1 fun x => x.reject seq why))

/-- LAUNCH_RECORD_READ; nothing happens where it cannot occur (log 48). -/
def execLaunchRecordRead (vf q : Nat) (s : State) : Out := s.occurs (onLaunchRecordRead vf q s)

/-! ## Dependencies (R226, R227, R229) -/

def Launch.isComplete (l : Launch) (b : Nat) : Bool := l.complete.any fun c => c.1 == b

/-- The producer of a launch: the one its tag named at its acceptance (R226). -/
def State.producer (s : State) (l : Launch) : Option Launch := l.producer.bind fun i => s.launch? i

/-- Block (x, y, z) of a grid, where it lies inside. -/
def Lpb.blockAt (l : Lpb) (x y z : Nat) : Option Nat :=
  if x < l.gx ∧ y < l.gy ∧ z < l.gz then some (x + l.gx * (y + l.gy * z)) else none

/-- The coordinates of a block (R230). -/
def Lpb.coords (l : Lpb) (b : Nat) : Nat × Nat × Nat := (b % l.gx, b / l.gx % l.gy, b / (l.gx * l.gy))

/-- A test of every number below n, from the top down. -/
def allBelow (ok : Nat → Bool) : Nat → Bool
  | 0 => true
  | n + 1 => ok n && allBelow ok n

/-- Every producer block that a block needs satisfies a test; one outside the producer's grid counts (R227). -/
def needsAll (c p : Lpb) (b : Nat) (ok : Nat → Bool) : Bool :=
  let (x, y, z) := c.coords b
  let at_ := fun (x y z : Nat) => match p.blockAt x y z with
    | some k => ok k
    | none => true
  if c.mapKind = 0 then true
  else if c.mapKind = 1 then allBelow ok p.total
  else if c.mapKind = 2 then at_ x y z
  else if c.mapKind = 3 then allBelow (fun i => at_ i y z) p.gx
  else if c.mapKind = 4 then allBelow (fun i => at_ x i z) p.gy
  else allBelow (fun i => at_ (x * c.mapP + i) y z) c.mapQ

/-- A block is eligible: everything it needs is complete (R229). -/
def State.eligibleBlock (s : State) (l : Launch) (b : Nat) : Bool :=
  l.lpb.mapKind == 0 ||
    match s.producer l with
    | none => false
    | some p => needsAll l.lpb p.lpb b p.isComplete

/-- A block has been eligible since before a tick (R235). -/
def State.eligibleBefore (s : State) (l : Launch) (b t : Nat) : Bool :=
  decide (l.accepted ≤ t) &&
    (l.lpb.mapKind == 0 || match s.producer l with
     | none => false
     | some p => needsAll l.lpb p.lpb b fun k => p.complete.any fun c => c.1 == k && decide (c.2 ≤ t))

/-! ## Room and placement (R232 to R236) -/

/-- A granted position of a context (R234). -/
def Context.pos (c : Context) (j : Nat) : Nat := (c.loop.pos[j]?).getD 0

/-- Groups of a context on a core, and all groups on it. -/
def State.groupsOn (s : State) (core : Nat) : List Group := s.groups.filter fun g => 4 * g.cluster + g.core == core
/-- Slots of a core that a group has left in the present cycle, and holds to its end (R473). -/
def State.keptSlots (s : State) (core : Nat) : List Nat :=
  match s.cluster? (core / 4) with
  | some c => (c.left.filter fun x => x.core == core % 4 && decide (c.cycles s.ticks ≤ x.upTo)).map fun x => x.slot
  | none => []

def State.ctxGroupsOn (s : State) (cid core : Nat) : Nat := ((s.groupsOn core).filter fun g => g.ctx == cid).length

/-- Cores a context's groups use. -/
def State.coresUsed (s : State) (cid : Nat) : List Nat :=
  dedup ((s.groups.filter fun g => g.ctx == cid).map fun g => 4 * g.cluster + g.core)

/-- A pool is the floor's or one of the next POS4 faster ones (R234). -/
def Context.poolGranted (c : Context) (l : Lpb) (pool : Nat) : Bool := decide (pool ≤ l.floor) && decide (l.floor - c.pos 4 ≤ pool)

/-- A group stands in a pool that its launch has under the present grant of actuator 4. -/
def State.poolWithin (s : State) (c : Context) (g : Group) : Bool :=
  match s.launch? g.launch, s.cluster? g.cluster with
  | some l, some k => decide (l.lpb.floor - c.pos 4 ≤ k.pool)
  | _, _ => true

/-- The context's use is within its grants (R236, R251). -/
def State.withinGrants (s : State) (cid : Nat) (c : Context) : Bool :=
  decide ((s.coresUsed cid).length ≤ c.pos 1) && ((s.coresUsed cid).all fun k => decide (s.ctxGroupsOn cid k ≤ c.pos 0)) &&
    (s.groups.filter fun g => g.ctx == cid).all fun g => s.poolWithin c g

/-- The cores of a cluster that the context may use: those in service that it uses already, and as many more of the lowest number as
POS1 leaves (R234). -/
def State.grantedCores (s : State) (cid : Nat) (c : Context) (cl : Nat) (clr : Cluster) : List Nat :=
  let used := s.coresUsed cid
  let here := ((List.range 4).filter fun i => (clr.inService[i]?).getD false).map fun i => 4 * cl + i
  let more := (here.filter fun k => !used.contains k).take (c.pos 1 - used.length)
  here.filter fun k => used.contains k || more.contains k

/-- Room on a core during a deal: free slots ascending, registers left, groups the context may still add. -/
structure CoreRoom where
  core : Nat
  slots : List Nat
  v : Nat
  g : Nat
  more : Nat
deriving DecidableEq, Repr

def State.coreRoom (s : State) (cid : Nat) (c : Context) (core : Nat) : CoreRoom :=
  let gs := s.groupsOn core
  let kept := s.keptSlots core
  { core := core, slots := (List.range 96).filter fun i => !(gs.any fun g => g.slot == i) && !kept.contains i,
    v := 4096 - sumNat (gs.map fun g => g.vCount), g := 24576 - sumNat (gs.map fun g => g.gCount),
    more := c.pos 0 - s.ctxGroupsOn cid core }

/-- The core can take one group more. -/
def CoreRoom.fits (r : CoreRoom) (v g : Nat) : Bool :=
  !r.slots.isEmpty && decide (v ≤ r.v) && decide (g ≤ r.g) && decide (0 < r.more)

/-- The cores dealt to in turn, each group to the next core that can take it (R234): cores and slots in group order. -/
def deal (v g : Nat) : Nat → List CoreRoom → List (Nat × Nat)
  | 0, _ => []
  | n + 1, rs =>
    match rs.findIdx? fun r => r.fits v g with
    | none => []
    | some i =>
      match rs[i]? with
      | none => []
      | some r =>
        let r1 := { r with slots := r.slots.drop 1, v := r.v - v, g := r.g - g, more := r.more - 1 }
        (r.core, r.slots.headD 0) :: deal v g n (rs.drop (i + 1) ++ rs.take i ++ [r1])

/-- Granules of scratchpad in a cluster's banks for a context, ascending (R146): bank and free granules. -/
def Cluster.granuleRoom (c : Cluster) (cid : Nat) : List (Nat × Nat) :=
  ((List.range c.banks.length).zip c.banks).filterMap fun (i, b) =>
    if b.mode == .scratch && b.owner == some cid && !b.leaving then some (i, 32 - b.granules) else none

/-- The bank of each of n granules, in ascending bank order. -/
def takeGranules : Nat → List (Nat × Nat) → List Nat
  | _, [] => []
  | n, (b, k) :: rs => List.replicate (min n k) b ++ takeGranules (n - k) rs

/-- The cluster is one that a block may take: its pool is the floor's or one of the next POS4 faster ones, none faster than CEIL, and it
is not moving (R234, R259, R260). -/
def State.poolOk (s : State) (c : Context) (l : Lpb) (clr : Cluster) : Bool :=
  let ceil := ((s.part? c.part).map (·.ceil)).getD 0
  c.poolGranted l clr.pool && decide (ceil ≤ clr.pool) && clr.moving.isNone

/-- A launch's block holds the reservation of a cluster that is not this one's (R235). -/
def State.reservedFor (s : State) (cl : Nat) (l : Launch) (b : Nat) : Bool :=
  s.launches.any fun x => x.reserved.any fun r => r.2 == cl && !(x.id == l.id && r.1 == b)

/-- Where a block's groups and granules go on a cluster. -/
def State.fit (s : State) (c : Context) (l : Lpb) (cl : Nat) (clr : Cluster) : List (Nat × Nat) × List Nat :=
  (deal l.vRegs l.gRegs l.groups ((s.grantedCores l.ctx c cl clr).map fun k => s.coreRoom l.ctx c k),
   takeGranules l.granules (clr.granuleRoom l.ctx))

/-- Clusters of the context's partition in the order of R234: the fastest pool, then the lowest number. -/
def State.clusterOrder (s : State) (part : Nat) : List (Nat × Cluster) :=
  sortBy (fun k => [k.2.pool, k.1]) (s.clusters.filter fun k => s.clusterPart k.1 == some part)

/-- The cluster, cores, slots and granules that a block takes (R234). -/
def State.placement (s : State) (l : Launch) (b : Nat) : Option (Nat × List (Nat × Nat) × List Nat) :=
  match s.ctx? l.lpb.ctx with
  | none => none
  | some c =>
    if c.state != .live || !s.withinGrants l.lpb.ctx c then none
    else
      (s.clusterOrder c.part).findSome? fun (k, clr) =>
        if !s.poolOk c l.lpb clr || s.reservedFor k l b then none
        else
          let (cores, granules) := s.fit c l.lpb k clr
          if cores.length = l.lpb.groups ∧ granules.length = l.lpb.granules then some (k, cores, granules) else none

/-- The gang of a block under the start rules: the whole grid of a persistent launch (R233). -/
def Launch.gangStarted (l : Launch) (b : Nat) : Bool :=
  if l.lpb.persistent then !l.started.isEmpty else l.started.any fun k => k / l.lpb.gang == b / l.lpb.gang

/-- Placement order (R235). -/
def State.placeKey (s : State) (l : Launch) (b : Nat) : List Nat :=
  [if l.gangStarted b then 0 else 1, max l.lpb.cls (((s.ctx? l.lpb.ctx).map (·.cls)).getD 0), 255 - l.lpb.prio, l.accepted, l.id, b]

/-- The first number from k on, among n, that satisfies a test. -/
def findFrom (ok : Nat → Bool) : Nat → Nat → Option Nat
  | _, 0 => none
  | k, n + 1 => if ok k then some k else findFrom ok (k + 1) n

/-- A launch has blocks to place. -/
def Launch.waiting (l : Launch) : Bool := !l.finished && decide (l.started.length < l.lpb.total)

/-- The block of a launch that may be placed now and ranks first: of a started gang, else the lowest. -/
def State.candidateBlock (s : State) (l : Launch) : Option Nat :=
  let ok := fun b => !l.started.contains b && s.eligibleBlock l b && (s.placement l b).isSome
  match if l.started.isEmpty then none else findFrom (fun b => l.gangStarted b && ok b) 0 l.lpb.total with
  | some b => some b
  | none => findFrom ok 0 l.lpb.total

/-- The next block placed in a partition (R235). -/
def State.nextBlock (s : State) (part : Nat) : Option (Launch × Nat) :=
  leastKey (fun x => s.placeKey x.1 x.2)
    ((s.launches.filter fun l => l.waiting && s.partOf l.lpb.ctx == part).filterMap fun l => (s.candidateBlock l).map fun b => (l, b))

/-! ## Group start (R25, R29, R225) -/

/-- Real and helper lanes of group j of a block of N threads (R24). -/
def realLanes (n j : Nat) : Mask := maskOf ((List.range 32).filter fun i => decide (32 * j + i < n))
def helperLanes (n j : Nat) : Mask :=
  maskOf ((List.range 32).filter fun i => decide (n ≤ 32 * j + i) && decide (32 * j + i < 4 * ceilDiv n 4))

/-- g0 to g31 from the arguments. -/
def Group.withArgs (g : Group) (args : List Word) : Group := g.setGs 0 args

/-- Group j of a block on a core and slot. -/
def State.newGroup (s : State) (l : Launch) (bid cl core slot j id : Nat) : Group :=
  (Group.fresh id l.lpb.ctx l.vf l.id bid j l.lpb.secure cl (core % 4) slot l.lpb.vRegs l.lpb.gRegs l.lpb.divstack
    (realLanes l.lpb.threads j) (helperLanes l.lpb.threads j) (BitVec.ofNat 32 l.lpb.entry) s.ticks).withArgs l.lpb.args

/-- The next boundary after now for an interval code (R240). -/
def boundaryAfter (now code : Nat) : Nat := (now / 2 ^ (code + 10) + 1) * 2 ^ (code + 10)

/-- The latest write stands; among writes at one GTIME that of the lowest requester (R184, R421), over modules the lowest module's (R253). -/
def stands (old : Nat × Nat) (at_ rank : Nat) : Bool := decide (old.1 < at_) || (old.1 == at_ && decide (rank ≤ old.2))

/-- A write of the loop target that was issued at a GTIME by a requester of a rank, wherever it came from (R241, R253): a boundary takes the
latest write issued before it, whether it is still to be made or its merge is open; later writes wait. -/
def Context.writeTgt (c : Context) (t : BitVec 16) (at_ rank : Nat) : Context :=
  let l := c.loop
  let merge := c.merge.map fun m =>
    if m.started && !m.done && decide (at_ < m.boundary) && stands m.stamp at_ rank then { m with tgt := t, stamp := (at_, rank) } else m
  if stands c.tgtStamp at_ rank then
    let old := if l.ivl ≠ 0 ∧ l.nextBoundary ≤ at_ ∧ l.tgtOld.isNone then some (l.tgt, c.tgtStamp) else l.tgtOld
    { c with loop := { l with tgt := t, tgtOld := old }, tgtStamp := (at_, rank), merge := merge }
  else
    let old := l.tgtOld.map fun x => if decide (at_ < l.nextBoundary) && stands x.2 at_ rank then (t, at_, rank) else x
    { c with loop := { l with tgtOld := old }, merge := merge }

/-- What a launch's first block writes to its context (R224). -/
def Context.launched (c : Context) (l : Lpb) (now : Nat) : Context :=
  let c1 := if l.tgt = 0 then c
    else
      let w := c.writeTgt (BitVec.ofNat 16 l.tgt) now 0
      { w with loop := { w.loop with
          ivl := l.ivl, nextBoundary := if c.loop.ivl = 0 then boundaryAfter now l.ivl else c.loop.nextBoundary,
          opening := c.loop.opening || c.loop.ivl == 0 } }
  { c1 with trapVec := BitVec.ofNat 32 l.trapVec }

/-- A boundary of the launch's context is due and not made: it is made before the launch's first block gives the loop a new interval, which
begins at the next boundary (R224). -/
def State.boundaryFirst (s : State) (l : Launch) : Bool :=
  l.started.isEmpty && l.lpb.tgt != 0 &&
    ((s.ctx? l.lpb.ctx).map fun c => c.loop.ivl != 0 && decide (c.loop.nextBoundary ≤ s.now)).getD false

/-- Paths that wait for a member that has started (R148). -/
def State.wakeGang (s : State) (launch gang member : Nat) : State :=
  s.wakeWhere fun g w =>
    match w with
    | .gang m => m == member && g.launch == launch && ((s.block? g.block).map fun b => b.gang == gang).getD false
    | _ => false

/-- A block placed: its scratchpad, its groups, the launch's first effects, and whoever waited for it (R146, R148, R225, R233). -/
def State.startBlock (s : State) (l : Launch) (b cl : Nat) (cores : List (Nat × Nat)) (granules : List Nat) : State :=
  let (bid, s1) := s.newId
  let gang := b / l.lpb.gang
  let blk : Block :=
    { id := bid, launch := l.id, ctx := l.lpb.ctx, index := b, gang := gang, member := b % l.lpb.gang, cluster := cl,
      scratchBytes := l.lpb.scratch, scratch := [], psn := [], claims := [], shadow := [], hits := [], granules := granules,
      live := l.lpb.groups, done := 0, groups := l.lpb.groups }
  let s2 := s1.modCluster cl fun c =>
    { c with banks := granules.foldl (fun bs i => modifyAt bs i fun k => { k with granules := k.granules + 1 }) c.banks }
  let s3 := { s2 with blocks := s2.blocks ++ [blk] }
  let s4 := ((List.range cores.length).zip cores).foldl (fun s (j, core, slot) =>
    let (gid, s') := s.newId
    { s' with groups := s'.groups ++ [{ s'.newGroup l bid cl core slot j gid with since := s'.cycleNo cl }] }) s3
  let s5 := if l.started.isEmpty then s4.modCtx l.lpb.ctx fun c => c.launched l.lpb s.now else s4
  let s6 := s5.modLaunch l.id fun x => { x with started := x.started ++ [b], reserved := x.reserved.filter fun r => r.1 != b }
  s6.wakeGang l.id gang (b % l.lpb.gang)

/-- BLOCK_PLACE: the block that ranks first among those that fit (R233 to R235). -/
def onBlockPlace (launch block : Nat) (s : State) : Option State :=
  match s.launch? launch with
  | none => none
  | some l =>
    match s.nextBlock (s.partOf l.lpb.ctx) with
    | none => none
    | some (k, b) =>
      if k.id != launch || b != block || s.boundaryFirst l then none
      else
        match s.placement l b with
        | none => none
        | some (cl, cores, granules) => some (s.startBlock l b cl cores granules)

/-- BLOCK_PLACE; nothing happens where it cannot occur (log 48). -/
def execBlockPlace (launch block : Nat) (s : State) : Out := s.occurs (onBlockPlace launch block s)

/-- What a block lacks on a cluster: the groups that find no core, and the granules, in one sum; of equal sums the fastest pool comes first, then the
lowest number. R235 gives no measure of the least room missing (DESIGN CHOICE, log 93). -/
def State.lacking (s : State) (c : Context) (l : Lpb) (cl : Nat) (clr : Cluster) : Nat :=
  let (cores, granules) := s.fit c l cl clr
  (l.groups - cores.length) + (l.granules - granules.length)

/-- PLACEMENT_RESERVE: a block eligible for 128 µs that fits nowhere reserves the cluster on which the least is missing (R235). -/
def onPlacementReserve (launch block : Nat) (s : State) : Option State :=
  match s.launch? launch with
  | none => none
  | some l =>
    match s.ctx? l.lpb.ctx with
    | none => none
    | some c =>
      let due := 128000 * 24
      if l.waiting && decide (block < l.lpb.total) && !l.started.contains block && !(l.reserved.any fun r => r.1 == block) &&
          decide (due ≤ s.ticks) && s.eligibleBlock l block && s.eligibleBefore l block (s.ticks - due) &&
          (s.placement l block).isNone && c.state == .live then
        let cs := (s.clusterOrder c.part).filter fun (k, clr) => s.poolOk c l.lpb clr && !s.reservedFor k l block
        match leastBy (fun (x : Nat × Cluster) => s.lacking c l.lpb x.1 x.2) cs with
        | none => none
        | some (k, _) => some (s.modLaunch launch fun x => { x with reserved := x.reserved ++ [(block, k)] })
      else none

/-- PLACEMENT_RESERVE; nothing happens where it cannot occur (log 48). -/
def execPlacementReserve (launch block : Nat) (s : State) : Out := s.occurs (onPlacementReserve launch block s)

/-- The next reservation of a launch that is due: of its lowest block that has waited for 128 µs and finds no place (R235). -/
def State.reserveEvent (s : State) (l : Launch) : Option (State → Option State) :=
  if l.waiting && decide (l.accepted + 128000 * 24 ≤ s.ticks) then
    (findFrom (fun b => (onPlacementReserve l.id b s).isSome) 0 l.lpb.total).map fun b => onPlacementReserve l.id b
  else none

/-- Every reservation of a launch that is due, one for each of its blocks at most. -/
def State.reserveAll (lid : Nat) : Nat → State → State
  | 0, s => s
  | n + 1, s =>
    match ((s.launch? lid).bind fun l => s.reserveEvent l).bind fun m => m s with
    | none => s
    | some t => t.reserveAll lid n

/-! ## Triggered and exited groups (R228, R229) -/

/-- A group of a block is triggered or has exited for the first time (R229). -/
def State.groupDone (s : State) (bid : Nat) : State :=
  match s.block? bid with
  | none => s
  | some b =>
    let s1 := s.modBlock bid fun b => { b with done := b.done + 1 }
    if b.done + 1 = b.groups then
      s1.modLaunch b.launch fun l => if l.isComplete b.index then l else { l with complete := l.complete ++ [(b.index, s.ticks)] }
    else s1

/-- TRIG (R228). -/
def execTrig (s : State) : Out :=
  s.word fun g slot p => do
    let _ ← (formCtl .absent .absent .absent noPfx).operands g p
    releaseFirst s g p 5
    let s1 := s.finish { g.modPath slot Path.forget with triggered := true } slot 12
    .ok (if g.triggered then s1 else s1.groupDone g.block)

/-! ## The end of a group, a block and a gang (R148, R349) -/

/-- Every member of a gang has exited. -/
def Launch.gangExited (l : Launch) (gang : Nat) : Bool :=
  (List.range (l.lpb.gangLen gang)).all fun m => l.exited.contains (gang * l.lpb.gang + m)

/-- A block's granules go back to their banks. -/
def State.freeScratch (s : State) (b : Block) : State :=
  (s.modCluster b.cluster fun c =>
    { c with banks := b.granules.foldl (fun bs i => modifyAt bs i fun k => { k with granules := k.granules - 1 }) c.banks })

/-- A gang whose members have all exited keeps no scratchpad (R148). -/
def State.freeGang (s : State) (lid gang : Nat) : State :=
  match s.launch? lid with
  | none => s
  | some l =>
    if l.gangExited gang then
      let mine := s.blocks.filter fun b => b.launch == lid && b.gang == gang
      let s1 := mine.foldl (fun s b => s.freeScratch b) s
      { s1 with blocks := s1.blocks.filter fun b => !(b.launch == lid && b.gang == gang) }
    else s

/-- A group leaves its block; the last one ends it. -/
def State.leaveBlock (s : State) (bid : Nat) : State :=
  match s.block? bid with
  | none => s
  | some b =>
    let s1 := s.modBlock bid fun b => { b with live := b.live - 1 }
    if b.live = 1 then
      (s1.modLaunch b.launch fun l => { l with exited := l.exited ++ [b.index] }).freeGang b.launch b.gang
    else s1

/-- A group's claims on arrays end with it; what is left there stays UNSPECIFIED (R135). -/
def Block.dropClaims (b : Block) (gid : Nat) : Block :=
  { b with claims := b.claims.filter fun c => c.grp != gid }

/-- A group ends: its bindings, slot and registers are free, and it counts as exited (R229, R349). -/
def State.endGroup (s : State) (g : Group) : State :=
  let s1 := s.unbindAll g.id
  let t := (g.horizons ++ g.batches.map fun b => max b.2.1 b.2.2.1).foldl max 0
  let s2 := { s1.leaveSlot g with groups := s1.groups.filter fun x => x.id != g.id, blocks := s1.blocks.map fun (b : Block) => b.dropClaims g.id }.seen g.launch t
  (if g.triggered then s2 else s2.groupDone g.block).leaveBlock g.block

/-! ## EXIT (R25, R37, R271, R348) -/

/-- EXIT takes the prefix directly before it and ignores it; a second one is a defect of the prefixes (R70, R71). -/
def exitPfxOk (p : Path) : Bool := decide (p.pfx.length ≤ 1)

/-- The lanes that count as exited with this EXIT: the path's, and in handler mode those of the stopped sibling where no other lane runs
after it, that is where the slot stays empty (R271, R348). -/
def Group.leaving (g : Group) (slot : Bool) (p : Path) (now : Nat) : Mask :=
  match g.path (!slot) with
  | some o => if g.trap.handler && o.stopped && ((g.exitLanes slot p.mask now).path slot).isNone then p.mask ||| o.mask else p.mask
  | none => p.mask

/-- This EXIT is last: no lane of the group would remain (R348). -/
def Group.lastExit (g : Group) (lanes : Mask) : Bool := (g.real ||| g.helper) &&& ~~~g.withHelpers (g.exited ||| lanes) = 0

/-- The checks of an EXIT that is last (R127, R128, R344, R348). -/
def State.exitChecks (s : State) (g : Group) (p : Path) : Except Stop Unit :=
  if g.outstanding ≠ 0 then .error (.park .exitDrain)
  else if s.copiesOut g fun _ => true then .error (.park .exitDrain)
  else if g.psnOps ≠ 0 then .error (.trap .poison p.mask 0)
  else if g.batches.any fun b => b.2.2.2 then .error (.trap .engine p.mask 0)
  else releaseFirst s g p 5

/-- What a trap of an EXIT reports, once: poisoned operations, else marked batches (R127, R345). -/
def Group.exitTold (g : Group) : Told :=
  if g.psnOps ≠ 0 then { ops := g.psnOps } else { marks := (g.batches.filter fun b => b.2.2.2).map fun b => b.1 }

/-- EXIT (R348). -/
def execExit (s : State) : Out :=
  s.word fun g slot p => do
    trapIf (!exitPfxOk p) .illegal p.mask
    let lanes := g.leaving slot p s.ticks
    let last := g.lastExit lanes
    if last then
      match s.exitChecks g p with
      | .error (.trap c m a) => .ok (s.tellPath g.id slot c m a g.exitTold)
      | .error e => .error e
      | .ok _ => do
        trapIf (g.exitPsn slot lanes s.ticks) .poison p.mask
        .ok ((s.charge g.ctx 12 1).endGroup g)
    else do
      trapIf (g.exitPsn slot lanes s.ticks) .poison p.mask
      .ok (s.stackSeen g true (((s.setGroup (g.exitLanes slot lanes s.ticks)).charge g.ctx 12 1).unstick g.id))

/-! ## The end of a launch (R230, R231) -/

/-- BITMAP_BIT_SET: the station's atomic OR after a block completes (R230). -/
def onBitmapBitSet (launch block : Nat) (s : State) : Option State :=
  match s.launch? launch with
  | none => none
  | some l =>
    if l.lpb.bitmap = 0 ∨ !l.isComplete block ∨ l.bitsSet.contains block then none
    else
      let mark := fun (s : State) => s.modLaunch launch fun x => { x with bitsSet := x.bitsSet ++ [block] }
      match s.mature.bitmapXlat l.lpb .atomic (l.lpb.bitmap + block / 8) 1 with
      | (s1, .fault) => some (mark (s1.modQueue l.vf l.queue fun x => { x with bmFault := true }))
      | (s1, .wait es) =>
        if es.all fun e => s1.fetches.any fun f => f.isOf e.vf e.page then none
        else some (s1.startFetches l.lpb.ctx es).1
      | (s1, .keys ks) =>
        match ks.head? with
        | none => some (mark s1)
        | some (key, _) =>
          let s2 := s1.atHome (key / 128)
          let old := s2.latest.mem.byte key
          let gw := s2.gwctOf (key / 128)
          some ((mark (s2.accept key [old ||| BitVec.ofNat 8 (2 ^ (block % 8))] gw noGroup false .combined l.lpb.ctx)).seen launch gw)

/-- BITMAP_BIT_SET; nothing happens where it cannot occur (log 48). -/
def execBitmapBitSet (launch block : Nat) (s : State) : Out := s.occurs (onBitmapBitSet launch block s)

/-- LAUNCH_COMPLETE: every block has exited and every write of the launch is visible, so that the increment is visible after those writes
(R231). -/
def onLaunchComplete (launch : Nat) (s : State) : Option State :=
  match s.launch? launch with
  | none => none
  | some l =>
    if l.finished || l.exited.length != l.lpb.total || (l.lpb.bitmap != 0 && l.bitsSet.length != l.complete.length) ||
        decide (s.now < l.visible) then none
    else
      let s1 := (s.mature.modLaunch launch fun x => { x with finished := true }).modQueue l.vf l.queue fun q => { q with done := q.done + 1 }
      some { s1 with outbox := s1.outbox ++ [.msix l.vf 1] }

/-- LAUNCH_COMPLETE; nothing happens where it cannot occur (log 48). -/
def execLaunchComplete (launch : Nat) (s : State) : Out := s.occurs (onLaunchComplete launch s)

end Sys2Proof.Machine
end

