-- ==== Sys2Proof/Machine/SysReg.lean ====
section
/-!
DEFINITION. System registers: SYSRD and SYSWR with the register numbers and maps (R244, R261, R266, R268, R417 to R421), and BEAT (R238,
R239).
-/
namespace Sys2Proof.Machine

/-! ## Values (R244, R261, R266, R268, R419) -/

/-- Beats of the interval that holds the present: those counted late once a boundary is due (R239). -/
def LoopRegs.beatsNow (l : LoopRegs) (now : Nat) : Nat := if l.ivl ≠ 0 ∧ l.nextBoundary ≤ now then l.late else l.beats

/-- LOOP.FLAGS (R244). -/
def LoopRegs.flags (l : LoopRegs) : BitVec 5 :=
  BitVec.ofNat 5 (flagAt l.isat 0 + flagAt l.lsat 1 + flagAt l.short 2 + flagAt l.held 3 + flagAt l.partialMerge 4)

/-- Ltop (R247). -/
def LoopRegs.ltop (l : LoopRegs) : Nat := sumNat ((l.lo.zip l.hi).map fun x => x.2 - x.1)

/-- Interval in ns (R240); 0 before a launch has given one. -/
def LoopRegs.interval (l : LoopRegs) : Nat := if l.ivl = 0 then 0 else 2 ^ (l.ivl + 10)

/-- The loop registers 0x20 to 0x35 (R244, R418). -/
def loopReg (l : LoopRegs) (now n : Nat) : Word :=
  let half := fun x : Nat => BitVec.ofNat 32 (x % 65536)
  match n with
  | 0x20 => half l.tgt.toNat
  | 0x21 => half l.meas.toNat
  | 0x22 => wordOf l.integ
  | 0x23 => BitVec.ofNat 32 (l.level.toNat + l.ltop % 65536 * 65536)
  | 0x24 => half l.kp.toNat
  | 0x25 => half l.ki.toNat
  | 0x26 => wordOf l.imin
  | 0x27 => wordOf l.imax
  | 0x28 => half l.base.toNat
  | 0x29 => BitVec.ofNat 32 l.flags.toNat
  | 0x2A => BitVec.ofNat 32 l.interval
  | 0x2B => BitVec.ofNat 32 (l.beatsNow now)
  | n => if n < 0x31 then half ((l.pos[n - 0x2C]?).getD 0) else half ((l.ask[n - 0x31]?).getD 0)

/-- The identity registers 0x02 to 0x10 and SCOPE.MAX (R419): they describe the group where it runs. -/
def State.identity (s : State) (g : Group) (n : Nat) : Nat :=
  let l := ((s.launch? g.launch).map (·.lpb))
  let lpb := fun (f : Lpb → Nat) => (l.map f).getD 0
  let b := ((s.block? g.block).map (·.index)).getD 0
  let (x, y, z) := (l.map fun p => p.coords b).getD (0, 0, 0)
  match n with
  | 0x02 => g.ctx
  | 0x03 => g.vf
  | 0x04 => s.partOf g.ctx
  | 0x05 => g.cluster
  | 0x06 => g.core
  | 0x07 => g.slot
  | 0x08 => x
  | 0x09 => y
  | 0x0A => z
  | 0x0B => g.index
  | 0x0C => ((s.block? g.block).map (·.member)).getD 0
  | 0x0D => lpb (·.threads)
  | 0x0E => lpb (·.gx)
  | 0x0F => lpb (·.gy)
  | 0x10 => lpb (·.gz)
  | _ => s.scopeMax g

/-- A context's registers, zero where there is none. -/
def State.ctxReg (s : State) (g : Group) (f : Context → Word) : Word := ((s.ctx? g.ctx).map f).getD 0

/-- The value SYSRD reads (R417 to R419). -/
def State.sysReg (s : State) (g : Group) (n : Nat) : Word :=
  match n with
  | 0x00 => BitVec.ofNat 32 s.now
  | 0x01 => g.timeSnap
  | 0x40 => s.ctxReg g fun c => c.energy.extractLsb' 0 32
  | 0x41 => BitVec.ofNat 32 (g.enSnap.toNat % 65536 + flagAt (g.enSnap.getLsbD 16) 31)
  | 0x50 => causeWord g.trap.cause g.trap.info g.trap.slot g.trap.handler
  | 0x51 => g.trap.pc
  | 0x52 => g.trap.mask
  | 0x53 => g.trap.addr.extractLsb' 0 32
  | 0x54 => g.trap.addr.extractLsb' 32 32
  | 0x55 => s.ctxReg g fun c => c.trapVec
  | 0x60 => s.ctxReg g fun c => BitVec.ofNat 32 c.vpsReq.toNat
  | 0x61 => s.ctxReg g fun c => BitVec.ofNat 32 c.vpsCur.toNat
  | n => if 0x20 ≤ n ∧ n ≤ 0x35 then s.ctxReg g fun c => loopReg c.loop s.now n else BitVec.ofNat 32 (s.identity g n)

/-- What a read leaves in the group: GTIME.LO and EN.LO take a snapshot (R266, R419). -/
def State.snap (s : State) (g : Group) (n : Nat) : Group :=
  match n with
  | 0x00 => { g with timeSnap := BitVec.ofNat 32 (s.now / 2 ^ 32) }
  | 0x40 =>
    match s.ctx? g.ctx with
    | some c => { g with enSnap := BitVec.ofNat 17 (c.energy.toNat / 2 ^ 32 + flagAt c.sat 16) }
    | none => g
  | _ => g

/-! ## Words that issue behind one that waits (R120, R194, R417; log 3) -/

/-- Register codes of a word that computes in registers alone, one register to a field, and reads and writes nothing else: a word that waits for
nothing but those registers. None of any other word. -/
def plainCodes : Instr → Option (List Nat)
  | .iadd o | .isub o | .imul o | .imulhs o | .imulhn o | .imad o | .qmul o | .and o | .or o | .xor o | .andn o | .shl o | .shr o | .sra o
  | .imins o | .imaxs o | .iminn o | .imaxn o | .icmpeq o | .icmpne o | .icmplt o | .icmple o | .icmpltn o | .icmplen o | .sel o
  | .fadd o | .fsub o | .fmul o | .ffma o | .fmin o | .fmax o | .fcmpeq o | .fcmplt o | .fcmple o | .fcmpun o =>
    if o.nw then none else some [o.d.toNat, o.a.toNat, o.b.toNat]
  | .mov o | .neg o | .not o | .abs o | .clz o | .popc o | .brev o | .fneg o | .fabs o | .f2i o | .f2iz o | .i2f o | .rcp o | .rsq o | .sqrt o =>
    if o.nw then none else some [o.d.toNat, o.a.toNat]
  | .iaddi o => if o.nw then none else some [o.d.toNat, o.a.toNat]
  | .shli o | .shri o | .srai o | .rotli o => if o.nw then none else some [o.d.toNat, o.a.toNat]
  | .uadd o | .usub o | .umul o | .umulhs o | .umulhn o | .uand o | .uor o | .uxor o | .uandn o | .ushl o | .ushr o | .usra o
  | .umins o | .umaxs o | .uminn o | .umaxn o | .ucmpeq o | .ucmpne o | .ucmplt o | .ucmple o | .ucmpltn o | .ucmplen o | .usel o =>
    some [o.d.toNat, o.a.toNat, o.b.toNat]
  | .umov o | .uneg o | .unot o | .uclz o | .upopc o | .ubrev o => some [o.d.toNat, o.a.toNat]
  | .uaddi o => some [o.d.toNat, o.a.toNat]
  | .uli o | .ulih o => some [o.d.toNat]
  | _ => none

/-- The registers that a waiting word is still to write: group registers, and keys 32 x register + lane of vector registers. -/
abbrev Pending := List Nat × List Nat

/-- A word that may issue behind one of its path that waits: SYSRD reads its register now; MMA, MFAC and MTRS read the registers of the waiting word
before they are written; and a plain word that names none of those registers, nor a queue or a latch, does not wait for it (R51, R120, R131,
R417). -/
def State.aheadOf (s : State) (g : Group) (out : Pending) (pc : Word) (len : Nat) (i : Instr) : Option (Group × Ahead) :=
  match i with
  | .sysrd o => some (s.snap g o.n.toNat, ⟨pc, some (s.sysReg g o.n.toNat), [], [], len⟩)
  | .mma _ => some (g, ⟨pc, none, out.1, out.2, len⟩)
  | .mfac _ => some (g, ⟨pc, none, out.1, out.2, len⟩)
  | .mtrs _ => some (g, ⟨pc, none, out.1, out.2, len⟩)
  | i =>
    match plainCodes i with
    | some ks =>
      if len = 1 && ks.all fun k => decide (k < 0x70) && !out.1.contains k && !out.2.any fun v => v / 32 == k then some (g, ⟨pc, none, [], [], len⟩)
      else none
    | none => none

/-- The instruction at a path's boundary, with the words up to its end: a REG prefix may stand before it. -/
def State.behindWord (s : State) (g : Group) (p : Path) : State × Option (Instr × Nat) :=
  let at_ := fun (s : State) (p : Path) =>
    match s.fetch g p with
    | (s1, .word w) => (s1, (decode w).toOption)
    | (s1, _) => (s1, none)
  match at_ s p with
  | (s1, some (.pfxReg _)) =>
    let (s2, i) := at_ s1 { p with pc := p.pc + 4 }
    (s2, i.map fun i => (i, 2))
  | (s1, some i) => (s1, some (i, 1))
  | (s1, none) => (s1, none)

/-- The boundaries from the end of a path's word to the end of the words that have issued behind it. -/
def Path.aheadPcs (p : Path) : List Word :=
  p.ahead.foldl (fun pcs a => pcs ++ [pcs.getLastD p.nextPc + BitVec.ofNat 32 (4 * a.len)]) [p.nextPc]

/-- The word behind those that have issued so far is issued before the word at the path's boundary completes: one of the words that do not wait
for it, in a cycle that DUTY leaves open (R259). -/
def State.issueBehind (s : State) (g : Group) (slot : Bool) (p : Path) (out : Pending) : State :=
  let q := { p with pc := p.aheadPcs.getLastD p.nextPc, pfx := [] }
  if g.stopping || !s.dutyOpen g.cluster || p.aheadPcs.any fun pc => g.atJoin { q with pc := pc } then s
  else
    let (s1, w) := s.behindWord g q
    match w.bind fun w => s1.aheadOf g out q.pc w.2 w.1 with
    | some (g1, a) => s1.setGroup (g1.modPath slot fun p => { p with ahead := p.ahead ++ [a] })
    | none => s1

/-- The path goes on behind the word it waits at: from a store or reduction whose appends have not been accepted, its word being complete for it
(R194); and past a load, an atomic, a tuple word that travels, BANKCFG or a FENCE, to words that do not wait for it (R51, R120, R417). -/
def State.issueAhead (s : State) (gid : Nat) (slot : Bool) : State :=
  match (s.group? gid).bind fun g => (g.path slot).map fun p => (g, p) with
  | none => s
  | some (g, p) =>
    match p.wait with
    | .memory i =>
      match s.flights.find? fun f => f.id == i with
      | none => s
      | some f =>
        if f.kind == .load || f.kind == .atom || f.pageLanes != 0 || f.fetchLanes != 0 then s.issueBehind g slot p (f.writes false, f.writes true)
        else ({ s with flights := mapIf (fun x => x.id == i) (fun x => { x with blocking := false }) s.flights } : State).endWord f
    | .tuple i =>
      match s.tupleReqs.find? fun r => r.id == i && r.stage == .travelling with
      | none => s
      | some r => s.issueBehind g slot p (r.writes, [])
    | .bankcfg _ _ d => s.issueBehind g slot p ([d], [])
    | .fence _ => s.issueBehind g slot p ([], [])
    | _ => s

/-- The value of a system register for a SYSRD: what it has read behind a load, else what the register holds (R417). -/
def State.sysValue (s : State) (g : Group) (p : Path) (n : Nat) : Word :=
  (((p.ahead.find? fun a => a.pc == p.pc).bind fun a => a.val).getD (s.sysReg g n))

/-- SYSRD (R417). -/
def execSysrd (o : UniSysRd) (s : State) : Out :=
  s.word fun g slot p => do
    let r ← (formCtl (.ud o.d 1) .absent .absent regOnly).operands g p
    let n := o.n.toNat
    let g1 := if p.ahead.any fun a => a.pc == p.pc then g else s.snap g n
    .ok (s.finish (g1.setG r.d.num (s.sysValue g p n)) slot 12)

/-! ## SYSWR (R420, R421) -/

/-- Numbers a program may write, in or out of handler mode (R418). -/
def writable (handler : Bool) (n : Nat) : Bool := n == 0x20 || n == 0x60 || (handler && (n == 0x51 || n == 0x52))

/-- The rank of a requester among the modules of a spanning context (R253). -/
def State.fabricRank (s : State) (rank : Nat) : Nat := s.moduleNo * 2 ^ 20 + rank

/-- The flit that carries a target to the other members of a spanning context (R253), class 13 for each (R263). -/
def State.sendTarget (s : State) (cid : Nat) (t : BitVec 16) : State :=
  match s.ctx? cid with
  | none => s
  | some c =>
    if c.members.isEmpty then s
    else ({ s with outbox := s.outbox ++ [Output.loopTarget cid t s.now] }).charge cid 13 (c.members.length - 1)

/-- The write of a context register (R421). -/
def State.sysWrite (s : State) (g : Group) (slot : Bool) (n : Nat) (w : Word) : State :=
  let rank := s.fabricRank (requesterRank (s.partOf g.ctx) g slot)
  match s.ctx? g.ctx with
  | none => s
  | some c =>
    if n = 0x20 then
      if stands c.tgtStamp s.now rank then
        let t := w.extractLsb' 0 16
        (s.modCtx g.ctx fun c => c.writeTgt t s.now rank).sendTarget g.ctx t
      else s
    else if stands c.vpsStamp s.now rank then
      s.modCtx g.ctx fun c => { c with vpsReq := w.extractLsb' 0 3, vpsStamp := (s.now, rank) }
    else s

/-- SYSWR (R420, R421). -/
def execSyswr (o : UniSysWr) (s : State) : Out :=
  s.word fun g slot p => do
    let r ← (formCtl .absent (.us o.a) .absent regOnly).operands g p
    let n := o.n.toNat
    trapIf (!writable g.trap.handler n) .priv p.lanes
    let w := r.uniSrc g r.a
    if n = 0x51 then .ok (s.finish { g with trap := { g.trap with pc := w &&& 0xFFFFFFFC } } slot 12)
    else if n = 0x52 then .ok (s.finish { g with trap := { g.trap with mask := w } } slot 12)
    else .ok ((s.sysWrite g slot n w).finish g slot 12)

/-! ## BEAT (R238, R239) -/

/-- Beats added to the interval that holds the present, saturating. -/
def LoopRegs.beat (l : LoopRegs) (n now : Nat) : LoopRegs :=
  if l.ivl ≠ 0 ∧ l.nextBoundary ≤ now then { l with late := min (2 ^ 32 - 1) (l.late + n) }
  else { l with beats := min (2 ^ 32 - 1) (l.beats + n) }

/-- BEAT (R238): a path whose lanes are all helpers counts nothing. -/
def execBeat (n : BitVec 16) (s : State) : Out :=
  s.word fun g slot p => do
    let _ ← (formCtl .absent .absent .absent noPfx).operands g p
    let s1 := if p.mask &&& ~~~g.helper = 0 then s else s.modCtx g.ctx fun c => { c with loop := c.loop.beat n.toNat s.now }
    .ok (s1.finish g slot 12)

end Sys2Proof.Machine
end

