-- ==== Sys2Proof/Machine/Image.lean ====
section
/-!
DEFINITION. The bytes of a context image in the memory that the station reserves for it (R272, R275, R276), and what of the reserved memory of a
partition passes through the system share of L2 (R159). R276 lays out the header; the order of the rest is the model's own (log 36).
-/
namespace Sys2Proof.Machine

/-- A number in the image: its bytes, and its value. -/
abbrev Field := Nat × Nat

def natOf (b : Bool) : Nat := if b then 1 else 0

/-- What is there or not: a flag, and the fields, zero where nothing is. -/
def optFields {α : Type} (x : Option α) (fs : α → List Field) (none_ : List Field) : List Field :=
  match x with
  | some a => (1, 1) :: fs a
  | none => (1, 0) :: none_

/-- A join record: JIDX and JNONE (R35). -/
def joinField (j : Option Nat) : Field := (2, (j.map fun i => i).getD 256)

/-- A path slot (R29, R275), with the mask for which its word is replayed (R216). -/
def Path.fields (p : Path) : List Field :=
  [(4, p.pc.toNat), (4, p.mask.toNat), joinField p.join, (1, natOf p.stopped)] ++
    optFields p.replay (fun m => [(4, m.toNat)]) [(4, 0)]

/-- The TRAP registers (R268). -/
def TrapRegs.fields (t : TrapRegs) : List Field :=
  [(4, (causeWord t.cause t.info t.slot t.handler).toNat), (4, t.pc.toNat), (4, t.mask.toNat), (8, t.addr.toNat)]

/-- BASE, EXTENT and VALID (R210). -/
def AddrReg.fields (a : AddrReg) : List Field := [(8, a.base.toNat), (4, a.extent.toNat), (1, natOf a.valid)]

def WinReg.fields (w : WinReg) : List Field := [(4, w.addr.toNat), (1, w.rate.toNat), (4, w.count.toNat), (1, natOf w.valid)]

/-- The named-barrier entry that a path waits at: offset, phase, and whether it polls (R278). -/
def Path.barrierField (p : Path) : Field :=
  match p.wait with
  | .barrier _ off phase polling => (4, 1 + 2 * natOf phase + 4 * natOf polling + 8 * off)
  | _ => (4, 0)

/-- A register in 32 lanes. -/
def Group.rowField (g : Group) (r : Nat) : Field := (128, (List.range 32).foldl (fun x i => x + (g.vreg r i).toNat * 2 ^ (32 * i)) 0)

/-- What the image holds of a group (R275). -/
def Group.fields (g : Group) : List Field :=
  let slotFields := fun (b : Bool) => optFields (g.path b) (fun p => p.barrierField :: p.fields) [(4, 0), (4, 0), (4, 0), (2, 256), (1, 0), (1, 0), (4, 0)]
  [(2, 4 * g.cluster + g.core), (1, g.slot), (1, g.vCount), (2, g.gCount)] ++
    ((List.range g.vCount).map fun r => g.rowField r) ++ ((List.range g.gCount).map fun r => (4, (g.greg r).toNat)) ++
    slotFields false ++ slotFields true ++ [(4, g.exited.toNat), (4, g.helper.toNat), (1, g.sp), (1, natOf g.triggered)] ++
    optFields g.ret (fun r => [(4, r.mask.toNat), joinField r.join, (1, r.sp), (1, natOf r.other.isSome)]) [(4, 0), (2, 256), (1, 0), (1, 0)] ++
    g.trap.fields ++ (g.areg.flatMap AddrReg.fields) ++ (g.wreg.flatMap WinReg.fields) ++
    (g.qreg.flatMap fun q => optFields q (fun b => [(1, b.bank), (1, b.role.toNat)]) [(1, 0), (1, 0)]) ++
    [(4, g.outstanding), (4, g.batchNext.toNat), (2, g.batches.length)] ++
    (g.batches.flatMap fun b => [(4, b.1.toNat), (8, b.2.1), (8, b.2.2.1), (1, natOf b.2.2.2)]) ++ g.horizons.map fun h => (8, h)

/-- The scratchpad of a block, with its place in its gang. -/
def Block.fields (b : Block) : List Field :=
  [(4, b.index), (4, b.gang), (2, b.member), (4, b.scratchBytes), (b.scratchBytes, leNat (b.scratch.bytes 0 b.scratchBytes))]

/-- The rows of a FIFO. -/
def Fifo.fields (f : Fifo) : List Field :=
  [(1, f.first), (1, f.wlog), (2, f.rows.length)] ++ f.rows.map fun r => (64, r.data.reverse.foldl (fun x w => x * 2 ^ 32 + w.toNat) 0)

/-- Two's complement of a number of 8 bytes. -/
def intField (x : Int) : Field := (8, (x % 2 ^ 64).toNat)

/-- Loop state, energy counter and VPS.REQ (R254, R265, R275). -/
def Context.fields (c : Context) : List Field :=
  [(2, c.loop.tgt.toNat), (2, c.loop.meas.toNat), intField c.loop.integ, (2, c.loop.level.toNat), (2, c.loop.kp.toNat), (2, c.loop.ki.toNat),
    intField c.loop.imin, intField c.loop.imax, (2, c.loop.base.toNat),
    (1, natOf c.loop.isat + 2 * natOf c.loop.lsat + 4 * natOf c.loop.short + 8 * natOf c.loop.held + 16 * natOf c.loop.partialMerge),
    (1, c.loop.ivl), (4, c.loop.beats)] ++
    ((c.loop.lo ++ c.loop.hi).map fun x => (4, x)) ++ [(6, c.energy.toNat), (1, natOf c.sat), (1, c.vpsReq.toNat)]

/-- A factor command with the index of its next matrix (R136). -/
def FactorCmd.fields (k : FactorCmd) : List Field := (1, natOf k.solve) :: (k.desc.map fun w => (4, w.toNat)) ++ [(4, k.next)]

/-- What is left of a copy or a casting command: its batch and the bytes to come (R344). -/
def Copy.fields (k : Copy) : List Field := (4, k.batch.toNat) :: k.segs.map fun g => (4, g.len)
def CastCmd.fields (k : CastCmd) : List Field := [(4, k.batch.toNat), (4, k.next)]

/-- The image: its header, then what it holds (R275, R276). -/
def Image.fields (i : Image) (c : Context) : List Field :=
  [(32, i.header.toNat)] ++ (i.groups.flatMap Group.fields) ++ (i.blocks.flatMap Block.fields) ++ (i.fifos.flatMap fun f => f.2.fields) ++
    (i.factor.flatMap fun k => k.2.fields) ++ (i.copies.flatMap fun k => k.2.fields) ++ (i.casts.flatMap fun k => k.2.fields) ++ c.fields

def Image.size (i : Image) (c : Context) : Nat := sumNat ((i.fields c).map fun f => f.1)

/-- Its bytes in reserved memory, least significant first (R275). -/
def Image.bytes (i : Image) (c : Context) : List Byte := (i.fields c).flatMap fun f => leBytes f.1 f.2

/-- Eight bytes of the image of a context, zero past its end and where there is none: the image stays readable through the station until the host
destroys the context (R272). -/
def State.imageWord (s : State) (cid i : Nat) : DWord :=
  match s.ctx? cid with
  | some c => BitVec.ofNat 64 (leNat ((((c.image.map fun m => m.bytes c).getD []).drop (8 * i)).take 8))
  | none => 0

/-- The station writes or reads a context's image in the reserved memory of a partition: its lines pass through the share (R159, R275). -/
def State.imageSeen (s : State) (part cid : Nat) : State :=
  match (s.ctx? cid).bind fun c => c.image.map fun i => i.size c with
  | some n => s.shareUse part (imageKey part cid) n
  | none => s

end Sys2Proof.Machine
end

