-- ==== Sys2Proof/Machine/Preempt.lean ====
section
/-!
DEFINITION. Pre-emption and context images (R236, R273 to R278): the stop, the drain and its time limit, the image with its header, and
its placement on a restore; what destroying a context discards (R272). Events PREEMPT, PREEMPT_DRAIN_COMPLETE, PREEMPT_DRAIN_TIMEOUT and
CONTEXT_DESTROY.
-/
namespace Sys2Proof.Machine

/-! ## Stopping (R273 steps 1 and 2) -/

/-- PREEMPT (R273): a context that is not live is left as it is. -/
def execPreempt (ctx : Nat) (s : State) : Out :=
  match s.ctx? ctx with
  | none => .next s
  | some c => .next (if c.state == .live then s.halt ctx .preempt else s)

/-! ## The drain (R273 steps 2 to 5) -/

/-- A flight is a load's: its word has no effect before its data return, so that a stop gives it up and executes it again (R370). -/
def State.isLoad (s : State) (fid : Nat) : Bool := (s.flights.find? fun f => f.id == fid).any fun f => f.kind == .load

/-- A path stands at a boundary and waits for nothing that must come first. -/
def State.pathStopped (s : State) (g : Group) (slot : Bool) : Bool :=
  match g.path slot with
  | none => true
  | some p =>
    !p.abort && match p.wait with
    | .ready => !s.mid g p
    | .icache => !s.mid g p
    | .memory fid => s.isLoad fid
    | .tuple id => (s.tupleReqs.find? fun r => r.id == id).any fun r => r.stage == .parked
    | .bankcfg .. => false
    | _ => true

/-- A copy that stops rather than drains: its queue lacks room (R344), or a gang member it needs has not started (R148). -/
def State.copyHeld (s : State) (cl : Nat) (k : Copy) : Bool :=
  match s.group? k.grp, k.segs.head? with
  | some g, some p => !s.hasRoom cl p.dst || !s.memberHere g p.src || !s.memberHere g p.dst
  | _, _ => true

/-- The matrix engine of a cluster holds work of a context: quarter sets, or a factor command in progress. -/
def Cluster.engineBusy (c : Cluster) (cid : Nat) : Bool :=
  (c.sets.any fun x => x.ctx == cid) || (c.passSets.any fun x => x.ctx == cid) ||
    c.factor.any fun k => k.ctx == cid && k.started

/-- A casting engine has a block of the context in progress. -/
def State.castBusy (s : State) (cid : Nat) : Bool := s.castQueues.any fun q => q.2.any fun k => k.ctx == cid && k.due != 0

def State.copyBusy (s : State) (cl : Nat) (c : Cluster) (cid : Nat) : Bool :=
  c.copies.any fun k => k.ctx == cid && !s.copyHeld cl k

/-- Steps 2 to 5 of R273 are done. -/
def State.drained (s : State) (cid : Nat) : Bool :=
  ((s.groups.filter fun g => g.ctx == cid).all fun g => s.pathStopped g false && s.pathStopped g true) &&
    !(s.flights.any fun f => f.ctx == cid && f.kind != .load) &&
    !(s.clusters.any fun k => k.2.engineBusy cid || s.copyBusy k.1 k.2 cid) && !s.castBusy cid &&
    !(s.tupleReqs.any fun r => r.stage == .travelling && ((s.group? r.grp).map fun g => g.ctx == cid).getD false)

/-! ## The image (R275, R276, R278) -/

/-- A path as it is saved: at its word, that is at its first prefix, but for a barrier waiter, which sleeps on there (R72, R273, R278). -/
def Path.saved (p : Path) : Path :=
  let q := { p with released := false, early := [], ahead := [], awaits := [], busyUntil := 0 }
  match p.wait with
  | .barrier .. => { q with chain := Chain.none }
  | _ => q.park .ready

/-- An address register as it is saved: BASE, EXTENT and VALID (R210). -/
def AddrReg.saved (a : AddrReg) : AddrReg := { a with limit := 0, frame := 0, leaf := AddrReg.reset.leaf }

/-- A group as it is saved: a parked one keeps its replay mask, and a page fault that comes again sets REPEAT (R216). -/
def Group.saved (g : Group) : Group :=
  let g1 := { g with path0 := g.path0.map Path.saved, path1 := g.path1.map Path.saved, areg := g.areg.map AddrReg.saved,
                     stopping := false, park := none }
  match g.park with
  | some (.page slot ..) => g1.modPath slot fun p => { p with refault := true }
  | _ => g1

/-- A FIFO lies in banks of a context. -/
def Cluster.fifoOwner (c : Cluster) (f : Fifo) : Option Nat := (c.banks[f.first]?).bind fun b => b.owner

/-- Cores that groups stand on, and clusters that groups, blocks or FIFOs stand on (R276). -/
def coresOf (gs : List Group) : List Nat := dedup (gs.map fun g => 4 * g.cluster + g.core)
def clustersOf (gs : List Group) (bs : List Block) (fs : List (Nat × Fifo)) : List Nat :=
  dedup ((gs.map fun g => g.cluster) ++ (bs.map fun b => b.cluster) ++ fs.map fun f => f.1)

/-- Distinct barriers that file waiters of a core's groups wait on (R278, R323). -/
def barriersOn (gs : List Group) (core : Nat) : Nat :=
  (dedup ((gs.filter fun g => 4 * g.cluster + g.core == core).map fun g =>
    [g.path0, g.path1].filterMap fun p => p.bind fun q => match q.wait with
      | .barrier b o _ false => some (b, o)
      | _ => none).flatten).length

/-- What an image's header declares (R276). -/
structure Needs where
  groups : Nat
  vregs : Nat
  gregs : Nat
  slots : Nat
  divstack : Nat
  cores : Nat
  clusters : Nat
  granules : Nat
  barriers : Nat
  fifoBanks : Nat
deriving DecidableEq, Repr

def needsOf (gs : List Group) (bs : List Block) (fs : List (Nat × Fifo)) : Needs :=
  let cores := coresOf gs
  let cls := clustersOf gs bs fs
  { groups := gs.length, vregs := maxOf (fun g => g.vCount) gs, gregs := maxOf (fun g => g.gCount / 64) gs,
    slots := maxOf (fun k => (gs.filter fun g => 4 * g.cluster + g.core == k).length) cores, divstack := maxOf (fun g => g.stackCap) gs,
    cores := cores.length, clusters := cls.length,
    granules := maxOf (fun k => sumNat ((bs.filter fun b => b.cluster == k).map fun b => b.granules.length)) cls,
    barriers := maxOf (barriersOn gs) cores,
    fifoBanks := maxOf (fun k => sumNat ((fs.filter fun f => f.1 == k).map fun f => f.2.width)) (dedup (fs.map fun f => f.1)) }

/-- The header's bits, VERSION 1 (R276). -/
def Needs.header (n : Needs) : BitVec 256 :=
  BitVec.ofNat 256 (1 + n.groups * 2 ^ 16 + n.vregs * 2 ^ 32 + n.gregs * 2 ^ 40 + n.slots * 2 ^ 48 + n.divstack * 2 ^ 56 +
    n.cores * 2 ^ 64 + n.clusters * 2 ^ 73 + n.granules * 2 ^ 80 + n.barriers * 2 ^ 90 + n.fifoBanks * 2 ^ 96)

/-- A context's clusters without what its image takes: FIFOs, engine commands, granules. -/
def Cluster.without (c : Cluster) (cid : Nat) (bs : List Block) : Cluster :=
  { c with fifos := c.fifos.filter fun f => c.fifoOwner f != some cid,
           factor := c.factor.filter fun k => k.ctx != cid,
           copies := c.copies.filter fun k => k.ctx != cid,
           banks := ((bs.filter fun b => b.cluster == c.id).map fun b => b.granules).flatten.foldl
             (fun bs i => modifyAt bs i fun k => { k with granules := k.granules - 1 }) c.banks }

/-- The image of a context, and the state without what it holds (R275). -/
def State.takeImage (s : State) (cid : Nat) : State × Image :=
  let gs := (s.groups.filter fun g => g.ctx == cid).map Group.saved
  let bs := s.blocks.filter fun b => b.ctx == cid
  let fs := (s.clusters.map fun (k, c) => (c.fifos.filter fun f => c.fifoOwner f == some cid).map fun f => (k, f)).flatten
  let img : Image :=
    { header := (needsOf gs bs fs).header, groups := gs, blocks := bs, fifos := fs,
      factor := (s.clusters.map fun (k, c) => (c.factor.filter fun x => x.ctx == cid).map fun x => (k, x)).flatten,
      copies := (s.clusters.map fun (k, c) => (c.copies.filter fun x => x.ctx == cid).map fun x => (k, x)).flatten,
      casts := (s.castQueues.map fun (k, q) => (q.filter fun x => x.ctx == cid).map fun x => (k, x)).flatten,
      psn := (bs.any fun b => !b.psn.isEmpty) || fs.any fun f => f.2.rows.any fun r => r.poisoned }
  let t := gs.foldl State.leaveSlot s
  let s1 := { t with groups := s.groups.filter fun g => g.ctx != cid,
                     blocks := s.blocks.filter fun b => b.ctx != cid,
                     flights := s.flights.filter fun f => f.ctx != cid,
                     replays := s.replays.filter fun r => !(gs.any fun g => g.id == r.grp),
                     clusters := t.clusters.map fun (x : Nat × Cluster) => (x.1, x.2.without cid bs),
                     castQueues := s.castQueues.map fun (q : Nat × List CastCmd) => (q.1, q.2.filter fun x => x.ctx != cid) }
  ((s1.castQueues.foldl (fun (s : State) q => s.castKick q.1) s1).freeFiles, img)

/-- The place in its life a context comes to when it has stopped. -/
def StopKind.after : StopKind → CtxState
  | .preempt => .saved
  | .suspend => .suspended
  | .fault => .faulted

/-- PREEMPT_DRAIN_COMPLETE: parked tuple requests are cancelled and the image is written (R185, R273). -/
def onPreemptDrainComplete (ctx : Nat) (s : State) : Option State :=
  match s.ctx? ctx with
  | none => none
  | some c =>
    match c.state with
    | .stopping k _ =>
      if s.drained ctx then
        let s0 := s.cancelTuples fun g => g.ctx == ctx
        let (s1, img) := s0.takeImage ctx
        some (((s1.modCtx ctx fun c => { c with state := k.after, image := some img }).imageSeen c.part ctx).wakeWhere fun (g : Group) w =>
          w == Wait.entries || (w == Wait.copyEntry && g.ctx != ctx))
      else none
    | _ => none

/-- PREEMPT_DRAIN_COMPLETE; nothing happens where it cannot occur (log 48). -/
def execPreemptDrainComplete (ctx : Nat) (s : State) : Out := s.occurs (onPreemptDrainComplete ctx s)

/-- The sets of a context that wait in a cluster's table complete poisoned (R127, R274), and their chunks are consumed (R109). -/
def State.spoilSets (s : State) (cl cid : Nat) : State :=
  match s.cluster? cl with
  | none => s
  | some c =>
    let mine := c.sets.filter fun x => x.ctx == cid
    let p : Pass := { sets := mine, streams := [], start := s.ticks, compute := 0, kept := [], rowEnd := 0 }
    let s1 := mine.foldl (fun s x => x.quarters.foldl (fun s q => s.finishQuarter p x true q) s) s
    let owed := ((sortBy MSet.postKey mine).map fun x =>
      x.streamsBy (((s.group? x.grp).map fun g => s.bitmapNow g x).getD [])).flatten
    (((owed.foldl (fun s t => s.owe cl t) s1).modCluster cl fun c => { c with sets := c.sets.filter fun x => x.ctx != cid }).discardOwed cl).wakeOps cl

/-- Engines that have not drained are reset (R274, R284). -/
def State.resetEngines (s : State) (cid : Nat) : State :=
  let s1 := s.clusters.foldl (fun s k =>
    let a := if k.2.engineBusy cid then (s.resetMatrix k.1).spoilSets k.1 cid else s
    if s.copyBusy k.1 k.2 cid then a.resetCopy k.1 else a) s
  s1.castQueues.foldl (fun (s : State) q => if q.2.any fun k => k.ctx == cid && k.due != 0 then s.resetCast q.1 else s) s1

/-- PREEMPT_DRAIN_TIMEOUT: 80 µs from step 2 (R274). -/
def onPreemptDrainTimeout (ctx : Nat) (s : State) : Option State :=
  match s.ctx? ctx with
  | none => none
  | some c =>
    match c.state with
    | .stopping _ t =>
      if decide (t + 80000 * 24 ≤ s.ticks) && !s.drained ctx then some (s.mature.resetEngines ctx) else none
    | _ => none

/-- PREEMPT_DRAIN_TIMEOUT; nothing happens where it cannot occur (log 48). -/
def execPreemptDrainTimeout (ctx : Nat) (s : State) : Out := s.occurs (onPreemptDrainTimeout ctx s)

/-! ## Placing an image (R277) -/

/-- A core has free what the header declares for one. -/
def State.coreTakes (s : State) (n : Needs) (core : Nat) : Bool :=
  let gs := s.groupsOn core
  let file := ((s.cluster? (core / 4)).map fun c => (c.barFile.filter fun e => e.1 == core % 4).length).getD 32
  decide (gs.length + (s.keptSlots core).length + n.slots ≤ 96) && decide (sumNat (gs.map fun g => g.vCount) + n.slots * n.vregs ≤ 4096) &&
    decide (sumNat (gs.map fun g => g.gCount) + n.slots * n.gregs * 64 ≤ 24576) && decide (file + n.barriers ≤ 32)

/-- A bank a restore may use: one that the host has allocated to the context, in the mode needed (R146, R150). -/
def Bank.mayTake (b : Bank) (cid : Nat) (m : BankMode) : Bool := !b.leaving && b.owner == some cid && b.mode == m

/-- FIFO-mode banks of the context from a first one on are free (R150, R154). -/
def Cluster.fifoRoom (c : Cluster) (cid first width : Nat) (taken : List (Nat × Nat)) : Bool :=
  (List.range width).all fun i =>
    ((c.banks[first + i]?).map fun b => b.mayTake cid .fifo).getD false && !(c.fifos.any fun x => x.meets (first + i) 1) &&
      !(taken.any fun t => decide (t.1 ≤ first + i) && decide (first + i < t.1 + t.2))

/-- New first banks for saved FIFOs, the widest first: the same where they are free, else the lowest multiple of the width (R154, R277). -/
def Cluster.fifoHomes (c : Cluster) (cid : Nat) : List (Nat × Nat) → List Fifo → Option (List (Nat × Nat))
  | _, [] => some []
  | taken, f :: fs =>
    let ok := fun (b : Nat) => c.fifoRoom cid b f.width taken
    match (if ok f.first then some f.first else none).or (((List.range 16).filter fun b => b % f.width == 0).find? ok) with
    | none => none
    | some b => (c.fifoHomes cid ((b, f.width) :: taken) fs).map fun hs => (f.first, b) :: hs

/-- Scratchpad banks of the cluster, with the granules each may give, ascending. -/
def Cluster.granulesFor (c : Cluster) (cid : Nat) : List (Nat × Nat) :=
  ((List.range c.banks.length).zip c.banks).filterMap fun (i, b) => if b.mayTake cid .scratch then some (i, 32 - b.granules) else none

/-- Where a saved cluster goes: the target cluster, a target core for each saved core, a first bank for each saved FIFO. -/
structure Home where
  saved : Nat
  target : Nat
  cores : List (Nat × Nat)
  fifos : List (Nat × Nat)
deriving DecidableEq, Repr

/-- The targets for one saved cluster that have room: itself first, then the others in their order (log 34). -/
def State.homeFor (s : State) (img : Image) (n : Needs) (part cid : Nat) (saved : Nat) : List Home :=
  let cores := (coresOf img.groups).filter fun k => k / 4 == saved
  let fs := (img.fifos.filter fun f => f.1 == saved).map fun f => f.2
  let all := s.clustersIn part
  let order := (all.filter fun k => k == saved) ++ all.filter fun k => k != saved
  let ceil := ((s.part? part).map (·.ceil)).getD 0
  order.filterMap fun t =>
    match s.cluster? t with
    | none => none
    | some c =>
      let free := ((List.range 4).filter fun i => (c.inService[i]?).getD false && s.coreTakes n (4 * t + i)).map fun i => 4 * t + i
      let room := sumNat ((c.granulesFor cid).map fun x => x.2)
      let banks := (List.range 16).filter fun b => c.fifoRoom cid b 1 []
      if c.moving.isSome || decide (c.pool < ceil) || decide (free.length < cores.length) || decide (room < n.granules) ||
          decide (banks.length < n.fifoBanks) then none
      else
        (c.fifoHomes cid [] (sortBy (fun (f : Fifo) => [8 - f.wlog, f.first]) fs)).map fun hs =>
          { saved := saved, target := t, cores := cores.zip free, fifos := hs }

/-- Targets for all saved clusters, or none where they cannot all find room (R277). No two saved clusters go to one target, which the spec neither
demands nor allows in words (DESIGN CHOICE, log 34). -/
def State.homesFor (s : State) (img : Image) (n : Needs) (part cid : Nat) : List Nat → List Nat → Option (List Home)
  | _, [] => some []
  | taken, k :: ks =>
    (s.homeFor img n part cid k).findSome? fun h =>
      if taken.contains h.target then none
      else (s.homesFor img n part cid (h.target :: taken) ks).map fun hs => h :: hs

def clusterTo (hs : List Home) (k : Nat) : Nat := ((hs.find? fun h => h.saved == k).map (·.target)).getD k
def coreTo (hs : List Home) (core : Nat) : Nat :=
  ((hs.find? fun h => h.saved == core / 4).bind fun h => (h.cores.find? fun x => x.1 == core).map fun x => x.2).getD core

/-- The first bank that a saved FIFO of a saved cluster has now. -/
def fifoTo (hs : List Home) (cl first : Nat) : Nat :=
  (((hs.find? fun h => h.saved == cl).bind fun h => h.fifos.find? fun x => x.1 == first).map fun x => x.2).getD first

/-- A saved address register translated again as ADDR would, charged to nobody (R210, R305, R472). -/
def State.retranslate (s : State) (g : Group) (a : AddrReg) : State × AddrReg :=
  if a.valid then
    let (s1, lim, frm, leaf) := s.frameOf g.vf g.ctx a.base.toNat a.extent.toNat false
    (s1, addrReg a.base a.extent lim frm leaf)
  else (s, a.saved)

def State.retranslateAll (s : State) (g : Group) : List AddrReg → State × List AddrReg
  | [] => (s, [])
  | a :: as =>
    let (s1, b) := s.retranslate g a
    let (s2, bs) := s1.retranslateAll g as
    (s2, b :: bs)

/-- A group placed on its new core, in the lowest free slot, its queues bound to the new banks and its address registers translated. -/
def State.placeGroup (s0 : State) (hs : List Home) (g0 : Group) : State :=
  let core := coreTo hs (4 * g0.cluster + g0.core)
  let (s, areg) := s0.retranslateAll g0 g0.areg
  let g := { g0 with areg := areg, qreg := g0.qreg.map fun (q : Option QBind) => q.map fun (b : QBind) => { b with bank := fifoTo hs g0.cluster b.bank } }
  let slot := ((List.range 96).find? fun i => !((s.groupsOn core).any fun x => x.slot == i) && !(s.keptSlots core).contains i).getD 0
  let wake := fun (p : Path) => { p with readyAt := s.ticks }
  { s with groups := s.groups ++
    [{ g with cluster := core / 4, core := core % 4, slot := slot, since := s.cycleNo (core / 4), path0 := g.path0.map wake, path1 := g.path1.map wake }] }

/-- A granule of each bank listed, taken. -/
def Cluster.giveGranules (c : Cluster) (is : List Nat) : Cluster :=
  { c with banks := is.foldl (fun bs i => modifyAt bs i fun b => { b with granules := b.granules + 1 }) c.banks }

def State.placeBlock (s : State) (hs : List Home) (cid : Nat) (b : Block) : State :=
  let t := clusterTo hs b.cluster
  match s.cluster? t with
  | none => s
  | some c =>
    let is := takeGranules b.granules.length (c.granulesFor cid)
    { s.modCluster t (fun c => c.giveGranules is) with blocks := s.blocks ++ [{ b with cluster := t, granules := is }] }

def State.placeFifo (s : State) (hs : List Home) (f : Nat × Fifo) : State :=
  s.modCluster (clusterTo hs f.1) fun c => { c with fifos := c.fifos ++ [{ f.2 with first := fifoTo hs f.1 f.2.first }] }

/-- A saved copy with its queue under the new banks. -/
def Seg.moved (hs : List Home) (cl : Nat) (g : Seg) : Seg :=
  match g.dst with
  | .queue f w u m => { g with dst := .queue (fifoTo hs cl f) w u m }
  | _ => g
def State.placeCopy (s : State) (hs : List Home) (x : Nat × Copy) : State :=
  let k := { x.2 with segs := x.2.segs.map (Seg.moved hs x.1), all := x.2.all.map (Seg.moved hs x.1) }
  s.modCluster (clusterTo hs x.1) fun c => { c with copies := c.copies ++ [k] }

/-- A saved factor command enters the posting order as if posted now by its group where it stands (R134, R136). Where
the table has no entry free, it takes one as soon as one is, before any later word (State.factorHolders; DESIGN CHOICE, log 80). -/
def State.placeFactor (s : State) (hs : List Home) (x : Nat × FactorCmd) : State :=
  let cl := clusterTo hs x.1
  let k := { x.2 with cycle := s.cycleNo cl, rank := ((s.group? x.2.grp).map Group.postRank).getD x.2.rank, restored := true }
  s.modCluster cl fun c => { c with factor := insertBy FactorCmd.postKey k c.factor }

/-- Every barrier waiter whose phase has changed wakes (R278); the others are file waiters while an entry is free, else polling ones (R324). -/
def State.rebuildBarriers (s : State) (cid : Nat) : State :=
  let waits := (s.groups.filter fun g => g.ctx == cid).map fun g =>
    [false, true].filterMap fun b => (g.path b).bind fun (p : Path) => match p.wait with
      | .barrier bl o ph polling => some (g.id, b, g.cluster, g.core, bl, o, ph, polling)
      | _ => none
  let order := (waits.flatten.filter fun w => !w.2.2.2.2.2.2.2) ++ waits.flatten.filter fun w => w.2.2.2.2.2.2.2
  order.foldl (fun s (gid, b, cl, core, bl, o, ph, _) =>
    let word := ((s.block? bl).map fun k => leNat (k.scratch.bytes o 8)).getD 0
    let file := ((s.cluster? cl).map fun c => c.barFile).getD []
    let held := file.contains (core, bl, o)
    let poll := !held && decide (32 ≤ (file.filter fun e => e.1 == core).length)
    if barPhase word != ph then s.wakeWaiter gid b
    else
      let s1 := if held || poll then s else s.modCluster cl fun c => { c with barFile := c.barFile ++ [(core, bl, o)] }
      s1.modGroup gid fun g => g.modPath b fun p => { p with wait := .barrier bl o ph poll }) s

/-- The declared needs of an image. -/
def Image.needs (i : Image) : Needs := needsOf i.groups i.blocks i.fifos

/-- The station has read an image: from the partition where it was written, and where it was moved to, by a background copy engine, from there
(R159, R275). -/
def State.imageRead (t s : State) (cid part : Nat) : State :=
  match s.ctx? cid with
  | some c =>
    let n := ((c.image.map fun i => i.size c).getD 0)
    let t1 := t.shareUse c.part (imageKey c.part cid) n
    if c.part == part then t1 else t1.shareUse part (imageKey part cid) n
  | none => t

/-- An image placed in a partition (R277): none where a declared need finds no room. In another partition the context has no ways before its
grants (R160, R251). -/
def State.placeImage (s : State) (cid part : Nat) (img : Image) : Option State :=
  match s.homesFor img img.needs part cid [] (clustersOf img.groups img.blocks img.fifos) with
  | none => none
  | some hs =>
    let s1 := img.blocks.foldl (fun s b => s.placeBlock hs cid b) s
    let s2 := img.fifos.foldl (fun s f => s.placeFifo hs f) s1
    let s3 := img.groups.foldl (fun s g => s.placeGroup hs g) s2
    let s4 := img.factor.foldl (fun s k => s.placeFactor hs k) s3
    let s5 := img.copies.foldl (fun s k => s.placeCopy hs k) s4
    let s6 := img.casts.foldl (fun s k =>
      let cl := clusterTo hs k.2.cluster
      let d := castDie cl
      { s with castQueues := s.castQueues.put d ((s.castQueues.get? d).getD [] ++ [{ k.2 with cluster := cl }]) }) s5
    let s7 := (s6.modCtx cid fun c => { c with state := .live, image := none, part := part, wayMask := if c.part == part then c.wayMask else 0 }).rebuildBarriers cid
    some ((s7.castQueues.foldl (fun s q => s.castKick q.1) s7).imageRead s cid part)

/-! ## Discarding a context (R272, R284, R286) -/

/-- A cluster without anything of a context: its banks go back to CACHE mode and to nobody. -/
def Cluster.discard (c : Cluster) (cid : Nat) (keepBanks : Bool) : Cluster :=
  { c with fifos := c.fifos.filter fun f => c.fifoOwner f != some cid,
           sets := c.sets.filter fun x => x.ctx != cid,
           pass := c.pass.filter fun p => !(p.sets.any fun x => x.ctx == cid),
           draining := c.draining.filter fun p => !(p.sets.any fun x => x.ctx == cid),
           factor := c.factor.filter fun k => k.ctx != cid,
           copies := c.copies.filter fun k => k.ctx != cid,
           banks := if keepBanks then c.banks else c.banks.map fun b => if b.owner == some cid then Bank.reset else b }

/-- Everything a context has in the part is gone; its launches are over. -/
def State.discardCtx (s : State) (cid : Nat) : State :=
  let mine := s.groups.filter fun g => g.ctx == cid
  let gs := mine.map fun g => g.id
  let t := mine.foldl State.leaveSlot s
  let s1 := { t with groups := s.groups.filter fun g => g.ctx != cid,
                     blocks := s.blocks.filter fun b => b.ctx != cid,
                     launches := mapIf (fun l => l.lpb.ctx == cid) (fun l => { l with finished := true, reserved := [] }) s.launches,
                     flights := s.flights.filter fun f => f.ctx != cid || f.grp == noGroup,
                     replays := s.replays.filter fun r => !gs.contains r.grp,
                     tupleReqs := s.tupleReqs.filter fun r => !gs.contains r.grp,
                     clusters := t.clusters.map fun (x : Nat × Cluster) => (x.1, x.2.discard cid false),
                     castQueues := s.castQueues.map fun (q : Nat × List CastCmd) => (q.1, q.2.filter fun x => x.ctx != cid),
                     tlb := s.tlb.filter fun e => e.ctx != cid,
                     contexts := s.contexts.del cid }
  ((s1.castQueues.foldl (fun (s : State) q => s.castKick q.1) s1).freeFiles).wakeWhere fun _ w => w == Wait.entries || w == Wait.copyEntry

/-- CONTEXT_DESTROY: the host discards a context with its image (R272). -/
def execContextDestroy (ctx : Nat) (s : State) : Out := s.command (.contextDestroy ctx) <| .next (s.mature.discardCtx ctx)

end Sys2Proof.Machine
end

