-- ==== Sys2Proof/Machine/Loop.lean ====
section
/-!
DEFINITION. Resource loops (R240 to R254): parameters, boundaries and the loop update, merges of spanning contexts, the allocator and its
grants, link slots (R255, R256), the creation of a context (R206, R245, R246) and its restore (R254, R277).
-/
namespace Sys2Proof.Machine

/-! ## Ranges and demanded positions (R247) -/

/-- Lowest and highest limits of the five actuators (R247). -/
def Part.limits (p : Part) (floor : Nat) : List (Nat × Nat) :=
  [(1, 96), (1, 16 * p.cfg.units.length), (0, 16 - p.cfg.systemShare), (0, 16), (0, floor)]

/-- The demanded positions that `rest` forms over the ranges (R247). -/
def formAsks : Nat → List (Nat × Nat) → List Nat
  | _, [] => []
  | rest, (lo, hi) :: rs => (lo + min rest (hi - lo)) :: formAsks (rest - min rest (hi - lo)) rs

def LoopRegs.withAsks (l : LoopRegs) : LoopRegs := { l with ask := formAsks l.level.toNat (l.lo.zip l.hi) }

/-- L clamped to Ltop, LSAT set where that changes L (R245, R254). -/
def LoopRegs.clampLevel (l : LoopRegs) : LoopRegs :=
  if l.ltop < l.level.toNat then { l with level := BitVec.ofNat 16 l.ltop, lsat := true } else l

/-! ## Parameters (R245) -/

/-- The parameters of a set stand in the loop registers. -/
def LoopRegs.withSet (l : LoopRegs) (p : LoopParams) : LoopRegs :=
  { l with kp := p.kp, ki := p.ki, imin := p.imin, imax := p.imax, base := p.base, lo := p.lo, hi := p.hi, pendingSet := none }

/-- A set of parameters takes effect whole; where it lowers Ltop below L, L is clamped and the demanded positions are formed again (R245). -/
def LoopRegs.takeSet (l : LoopRegs) : LoopRegs :=
  match l.pendingSet with
  | none => l
  | some p =>
    let l1 := l.withSet p
    if l1.ltop < l1.level.toNat then l1.clampLevel.withAsks else l1

/-- I, L and the demanded positions of a loop that is created (R245). -/
def LoopRegs.start (l : LoopRegs) : LoopRegs :=
  ({ l with integ := 0, level := BitVec.ofNat 16 (min l.base.toNat l.ltop) }).withAsks

def int24 (x : Int) : Bool := decide (-(2 ^ 23 : Int) ≤ x) && decide (x < 2 ^ 23)

/-- The set keeps the ranges of R245 and R247. -/
def paramsOk (p : LoopParams) (lims : List (Nat × Nat)) : Bool :=
  int24 p.imin && int24 p.imax && decide (p.imin ≤ p.imax) && p.lo.length == 5 && p.hi.length == 5 &&
    ((p.lo.zip p.hi).zip lims).all fun x => decide (x.2.1 ≤ x.1.1) && decide (x.1.1 ≤ x.1.2) && decide (x.1.2 ≤ x.2.2)

/-! ## Capacities and bounds (R248) -/

/-- The lo values a context will have: those of a set that waits count at once. -/
def LoopRegs.los (l : LoopRegs) : List Nat := (l.pendingSet.map fun p => p.lo).getD l.lo

/-- Sum of one actuator's lo over contexts. -/
def sumLo (cs : List Context) (j : Nat) (f : LoopRegs → List Nat) : Nat := sumNat (cs.map fun c => ((f c.loop)[j]?).getD 0)

/-- Capacities C0, C2 and C3 (R248). -/
def Part.capacity (p : Part) (j : Nat) : Nat := if j = 0 then 96 else if j = 2 then 16 - p.cfg.systemShare else 16

/-- The lo values fit the shared capacities. -/
def Part.fitsShared (p : Part) (cs : List Context) (f : LoopRegs → List Nat) : Bool :=
  [0, 2, 3].all fun j => decide (sumLo cs j f ≤ p.capacity j)

/-- The greatest grant of actuator 4: the context floor, the maximum step of the state in force, and what CEIL leaves (R248, R259, R261). -/
def Context.stepBound (c : Context) (p : Part) : Nat :=
  min c.floor (min c.vpsStep (c.floor - p.ceil))

/-- The lo values of contexts fit every capacity and bound (R248, R250). -/
def Part.fits (p : Part) (cores : Nat) (cs : List Context) : Bool :=
  p.fitsShared cs LoopRegs.lo &&
    cs.all fun c => decide ((c.loop.lo[1]?).getD 0 ≤ cores) && decide ((c.loop.lo[4]?).getD 0 ≤ c.stepBound p)

/-- The contexts of a partition that the allocator serves: live ones, in id order (R248, R250). -/
def State.served (s : State) (part : Nat) : List Context :=
  (s.contexts.map fun (x : Nat × Context) => x.2).filter fun (c : Context) => c.part == part && c.state == .live

/-- The contexts of a partition, in id order. -/
def State.contextsOf (s : State) (part : Nat) : List Context :=
  (s.contexts.map fun (x : Nat × Context) => x.2).filter fun (c : Context) => c.part == part

/-- LOOP_PARAMS_SET (R245): a set that breaks a rule is refused and the old one stands. The spec does not say which contexts are already
admitted: the lo values are summed over every context created in the partition (DESIGN CHOICE, log 84). A context whose loop has no interval yet has no
boundary to come: the set takes force at once, as part of its creation (R470, log 70). -/
def execLoopParamsSet (ctx : Nat) (p : LoopParams) (s : State) : Out :=
  s.command (.loopParamsSet ctx p) <|
    match s.ctx? ctx with
    | none => .next s
    | some c =>
      match s.part? c.part with
      | none => .next s
      | some pt =>
        let c1 := { c with loop := { c.loop with pendingSet := some p } }
        let others := (s.contextsOf c.part).filter fun x => x.id != ctx
        if paramsOk p (pt.limits c.floor) && pt.fitsShared (c1 :: others) LoopRegs.los then
          .next (s.modCtx ctx fun c => { c with loop := if c.loop.ivl = 0 then (c.loop.withSet p).start else c1.loop })
        else .next { s with outbox := s.outbox ++ [.refusedSet ctx] }

/-! ## Creation (R206, R245, R246) -/

/-- The loop registers the station gives a new context (R245). -/
def LoopRegs.created (lims : List (Nat × Nat)) : LoopRegs :=
  { LoopRegs.reset with
    base := 0xFFFF, lo := lims.map fun (x : Nat × Nat) => x.1, hi := lims.map fun (x : Nat × Nat) => x.2 }.start

/-- The performance state that REQ names comes into force, with its entry as it stands now (R261). -/
def Context.latchVps (c : Context) (table : List (BitVec 2 × BitVec 2)) : Context :=
  let e := (table[c.vpsReq.toNat]?).getD (0, 3)
  { c with vpsCur := c.vpsReq, vpsFloor := e.1.toNat, vpsStep := e.2.toNat }

/-- CONTEXT_CREATE: a new number, a function with that partition, a class and a floor of 0 to 3; a spanning context names this module among
its members. Another request makes no context. Its performance state is 0, with the entry as it stands (R261, log 71). -/
def execContextCreate (r : CtxReq) (s : State) : Out :=
  s.command (.contextCreate r) <|
    match (s.vf? r.vf).bind fun v => (v.parts[r.part]?).map fun pid => (v, pid) with
    | none => .next s
    | some (v, pid) =>
      match s.part? pid with
      | none => .next s
      | some pt =>
        if (s.ctx? r.ctx).isSome || decide (4096 ≤ r.ctx) || decide (4 ≤ r.cls) || decide (4 ≤ r.floor) ||
            !(r.members.isEmpty || r.members.contains s.moduleNo) then .next s
        else
          let c := Context.fresh r.ctx r.vf pid r.rootPart r.rootAddr r.cls r.floor r.members
          .next { s with contexts := s.contexts.put r.ctx ({ c with loop := LoopRegs.created (pt.limits r.floor) }.latchVps v.vps) }

/-! ## The update (R242, R243) -/

/-- The loop update (R242). -/
def LoopRegs.update (l : LoopRegs) (t m : Nat) : LoopRegs :=
  let e := clampInt ((t : Int) - m) (-32768) 32767
  let i := clampInt (l.integ + e) l.imin l.imax
  let x := (l.base.toNat : Int) + ((l.kp.toNat : Int) * e + (l.ki.toNat : Int) * i) / 256
  let lev := clampInt x 0 l.ltop
  ({ l with integ := i, isat := decide (i ≠ l.integ + e), level := BitVec.ofNat 16 lev.toNat, lsat := decide (lev ≠ x) }).withAsks

/-- What a boundary does to the loop: held, or MEAS and, with a target, the update (R242, R243). -/
def LoopRegs.outcome (l : LoopRegs) (t : BitVec 16) (m : Nat) (held : Bool) : LoopRegs :=
  if held then { l with held := true }
  else
    let l1 := { l with held := false, meas := BitVec.ofNat 16 m }
    if t = 0 then l1 else l1.update t.toNat m

/-- A new interval begins: beats issued since the boundary belong to it (R239, R241). -/
def LoopRegs.nextInterval (l : LoopRegs) : LoopRegs :=
  { l with beats := l.late, late := 0, tgtOld := none, opening := false, began := l.nextBoundary,
           downs := l.downs.filter fun d => (d.2.map fun e => decide (l.nextBoundary < e)).getD true,
           nextBoundary := boundaryAfter l.nextBoundary l.ivl }

/-- The context was live throughout the interval that the next boundary closes (R243). -/
def LoopRegs.liveThroughout (l : LoopRegs) : Bool :=
  l.downs.all fun d => decide (l.nextBoundary ≤ d.1) || (d.2.map fun e => decide (e ≤ l.began)).getD false

/-- The context is live again from a GTIME on, and the count of its partial interval is gone (R243, R254). -/
def LoopRegs.resumed (l : LoopRegs) (t : Nat) : LoopRegs :=
  { l with beats := 0, late := 0, downs := l.downs.map fun d => (d.1, some (d.2.getD t)) }

/-! ## Spanning contexts (R252, R253) -/

/-- The member of lowest module number. -/
def Context.leader (c : Context) : Nat := c.members.foldl min 255

def Context.mergeOpen (c : Context) : Bool := (c.merge.map fun m => m.started && !m.done).getD false

/-- The leader forms the merge from the counts that have come, returns its state to the members, and updates (R252). -/
def State.formMerge (s : State) (cid : Nat) : State :=
  match (s.ctx? cid).bind fun c => c.merge.map fun m => (c, m) with
  | none => s
  | some (c, m) =>
    let missing := !(c.members.all fun k => m.counts.any fun x => x.1 == k)
    let least := (m.counts.map fun x => x.2.1).foldl min 65535
    let held := m.counts.any fun x => !x.2.2
    let l := { c.loop with partialMerge := missing }
    let r : LoopResult := { ctx := cid, boundary := m.boundary, m := least, integ := l.integ, level := l.level, flags := l.flags, held := held }
    let s1 := s.modCtx cid fun c => { c with loop := l.outcome m.tgt least held, merge := some { m with done := true } }
    ({ s1 with outbox := s1.outbox ++ [Output.loopResult r (c.members.erase s.moduleNo)] }).charge cid 13 (c.members.length - 1)

/-- The merge is made as soon as every member's count has come. -/
def State.tryMerge (s : State) (cid : Nat) : State :=
  match (s.ctx? cid).bind fun c => c.merge.map fun m => (c, m) with
  | none => s
  | some (c, m) =>
    if m.started && !m.done && c.members.all fun k => m.counts.any fun x => x.1 == k then s.formMerge cid else s

/-- A spanning context's boundary: the leader keeps its count, another member sends it (R252). -/
def State.spanBoundary (s : State) (c : Context) (b : Nat) (t : BitVec 16) (stamp : Nat × Nat) (count : Nat) (live : Bool) : State :=
  let early := ((c.merge.map fun m => if m.boundary == b && !m.started then m.counts else []).getD [])
  let open_ := fun (counts : List (Nat × Nat × Bool)) =>
    s.modCtx c.id fun c => { c with merge := some { boundary := b, started := true, tgt := t, stamp := stamp, counts := counts, done := false } }
  if c.leader = s.moduleNo then (open_ ((s.moduleNo, count, live) :: early)).tryMerge c.id
  else
    let s1 := open_ []
    ({ s1 with outbox := s1.outbox ++ [Output.mergeCount c.id c.leader b count live] }).charge c.id 13 1

/-- LOOP_BOUNDARY (R241 steps 1 to 4): the count is taken and a waiting set takes effect; then the update, or for a spanning context the
merge first. A module without its time master holds the boundary (R291). The boundary before a context's first interval only opens it (R224). -/
def onLoopBoundary (ctx : Nat) (s : State) : Option State :=
  match s.ctx? ctx with
  | none => none
  | some c =>
    let l := c.loop
    if l.ivl == 0 || decide (s.now < l.nextBoundary) || c.mergeOpen then none
    else
      let count := min l.beats 65535
      let live := l.liveThroughout
      let (t, stamp) := l.tgtOld.getD (l.tgt, c.tgtStamp)
      let l1 := l.nextInterval.takeSet
      let s1 := s.modCtx ctx fun c => { c with loop := l1 }
      if l.opening then some s1
      else if c.members.isEmpty || s.timeLost then
        some (s.modCtx ctx fun c => { c with loop := l1.outcome t count (!live || !c.members.isEmpty) })
      else some (s1.spanBoundary c l.nextBoundary t stamp count live)

/-- LOOP_BOUNDARY; nothing happens where it cannot occur (log 48). -/
def execLoopBoundary (ctx : Nat) (s : State) : Out := s.occurs (onLoopBoundary ctx s)

/-- A merge whose boundary has not come here yet, with the first count that came early. -/
def Merge.early (boundary : Nat) (x : Nat × Nat × Bool) : Merge :=
  { boundary := boundary, started := false, tgt := 0, stamp := (0, 0), counts := [x], done := false }

/-- BEAT_MERGE_FLIT: a member's count reaches the leader, for the boundary that is open or for the next one; after the boundary plus 3 µs it is
too late (R252). -/
def execBeatMergeFlit (ctx mdl boundary count : Nat) (live : Bool) (s : State) : Out :=
  match s.ctx? ctx with
  | none => .next s
  | some c =>
    if !s.linkUp || c.leader != s.moduleNo || !c.members.contains mdl || mdl == s.moduleNo || decide (boundary + 3000 < s.now) then .next s
    else
      let x := (mdl, count, live)
      match c.merge with
      | some m =>
        if m.boundary == boundary then
          if m.done || m.counts.any (fun y => y.1 == mdl) then .next s
          else .next ((s.modCtx ctx fun c => { c with merge := some { m with counts := m.counts ++ [x] } }).tryMerge ctx)
        else if c.mergeOpen || c.loop.nextBoundary != boundary then .next s
        else .next (s.modCtx ctx fun c => { c with merge := some (Merge.early boundary x) })
      | none =>
        if c.loop.nextBoundary != boundary then .next s
        else .next (s.modCtx ctx fun c => { c with merge := some (Merge.early boundary x) })

/-- The leader's I, L and flags but SHORT, which each member keeps for itself (R252). -/
def LoopRegs.adopt (l : LoopRegs) (r : LoopResult) : LoopRegs :=
  let l1 := { l with integ := r.integ, level := r.level, isat := r.flags.getLsbD 0, lsat := r.flags.getLsbD 1, held := r.flags.getLsbD 3,
                     partialMerge := r.flags.getLsbD 4 }
  if r.level = l.level then l1 else l1.withAsks

/-- LOOP_RESULT_FLIT: a member adopts the leader's state and then updates; a result that comes after the boundary plus 4 µs is too late
(R252). -/
def execLoopResultFlit (r : LoopResult) (s : State) : Out :=
  match (s.ctx? r.ctx).bind fun c => c.merge.map fun m => (c, m) with
  | none => .next s
  | some (c, m) =>
    if s.linkUp && c.mergeOpen && m.boundary == r.boundary && c.leader != s.moduleNo && decide (s.now ≤ m.boundary + 4000) then
      .next (s.modCtx r.ctx fun c => { c with loop := (c.loop.adopt r).outcome m.tgt r.m r.held, merge := some { m with done := true } })
    else .next s

/-- MERGE_COUNT_DEADLINE: the minimum is formed without the counts that are missing (R252). -/
def onMergeCountDeadline (ctx : Nat) (s : State) : Option State :=
  match (s.ctx? ctx).bind fun c => c.merge.map fun m => (c, m) with
  | none => none
  | some (c, m) =>
    if c.mergeOpen && c.leader == s.moduleNo && decide (m.boundary + 3000 ≤ s.now) then some (s.formMerge ctx) else none

/-- MERGE_COUNT_DEADLINE; nothing happens where it cannot occur (log 48). -/
def execMergeCountDeadline (ctx : Nat) (s : State) : Out := s.occurs (onMergeCountDeadline ctx s)

/-- MERGE_RESULT_DEADLINE: a member without a result holds the boundary (R252). -/
def onMergeResultDeadline (ctx : Nat) (s : State) : Option State :=
  match (s.ctx? ctx).bind fun c => c.merge.map fun m => (c, m) with
  | none => none
  | some (c, m) =>
    if c.mergeOpen && c.leader != s.moduleNo && decide (m.boundary + 4000 ≤ s.now) then
      some (s.modCtx ctx fun c => { c with loop := { c.loop with held := true }, merge := some { m with done := true } })
    else none

/-- MERGE_RESULT_DEADLINE; nothing happens where it cannot occur (log 48). -/
def execMergeResultDeadline (ctx : Nat) (s : State) : Out := s.occurs (onMergeResultDeadline ctx s)

/-! ## The allocator (R248 to R251) -/

/-- What contexts that want `d` more receive of X, the contexts in id order; and what is left (R249). -/
def shareOut : Nat → Nat → List (Nat × Nat) → List (Nat × Nat) × Nat
  | 0, x, _ => ([], x)
  | n + 1, x, d =>
    if d.isEmpty || x == 0 then ([], x)
    else
      let q := x / d.length
      let full := d.filter fun c => decide (c.2 ≤ q)
      if full.isEmpty then
        (((List.range d.length).zip d).map fun c => (c.2.1, q + if c.1 < x - q * d.length then 1 else 0), 0)
      else
        let (g, y) := shareOut n (x - sumNat (full.map fun c => c.2)) (d.filter fun c => decide (q < c.2))
        (full ++ g, y)

/-- The shares of one actuator, class by class (R249). -/
def shareClasses (want : Nat → List (Nat × Nat)) : List Nat → Nat → List (Nat × Nat)
  | [], _ => []
  | k :: ks, x =>
    let (g, y) := shareOut ((want k).length + 1) x (want k)
    g ++ shareClasses want ks y

/-- Extra positions of a shared actuator over lo, by context id (R249). -/
def Part.shares (p : Part) (cs : List Context) (j : Nat) : List (Nat × Nat) :=
  let want := fun k => (cs.filter fun c => c.cls == k).filterMap fun c =>
    let d := (c.loop.ask[j]?).getD 0 - (c.loop.lo[j]?).getD 0
    if d = 0 then none else some (c.id, d)
  shareClasses want [0, 1, 2, 3] (p.capacity j - sumLo cs j LoopRegs.lo)

/-- The grants of a context (R248, R249). -/
def Part.grantsFor (p : Part) (cores : Nat) (cs : List Context) (c : Context) : List Nat :=
  (List.range 5).map fun j =>
    let ask := (c.loop.ask[j]?).getD 0
    if j = 1 then min ask cores
    else if j = 4 then min ask (c.stepBound p)
    else (c.loop.lo[j]?).getD 0 + (((p.shares cs j).find? fun x => x.1 == c.id).map fun x => x.2).getD 0

/-- The grants of a partition formed for the contexts it serves; SHORT where one falls below an ask (R249). -/
def State.formGrants (s : State) (part : Nat) : State :=
  match s.part? part with
  | none => s
  | some p =>
    let cs := s.served part
    let cores := (s.coresIn part).length
    cs.foldl (fun s c =>
      let g := p.grantsFor cores cs c
      s.modCtx c.id fun c => { c with loop := { c.loop with nextPos := g, short := (g.zip c.loop.ask).any fun x => decide (x.1 < x.2) } }) s

/-- Contexts from the front are suspended until the rest fit (R250). -/
def Part.suspendFrom (p : Part) (cores : Nat) : List Context → List Nat
  | [] => []
  | c :: cs => if p.fits cores (c :: cs) then [] else c.id :: p.suspendFrom cores cs

/-- R250: while the lo values do not fit, the context of the highest class, then highest id, is suspended. -/
def State.suspendShort (s : State) (part : Nat) : State :=
  match s.part? part with
  | none => s
  | some p =>
    let order := (sortBy (fun (c : Context) => [c.cls, c.id]) (s.served part)).reverse
    (p.suspendFrom (s.coresIn part).length order).foldl (fun s c => s.halt c .suspend) s

/-- A suspended context is resumed where its lo values fit and its image finds room; else it stays suspended (R250, R277). Poison in its
image is a context fault (R275). -/
def State.tryResume (s : State) (part cid : Nat) : State :=
  match s.part? part, s.ctx? cid with
  | some p, some c =>
    match c.image with
    | some img =>
      if img.psn then s.contextFault cid TrapRegs.reset 1
      else if p.fits (s.coresIn part).length (c :: s.served part) then
        match s.placeImage cid part img with
        | some t => t.modCtx cid fun c => { c with loop := c.loop.resumed p.nextAlloc }
        | none => { s with outbox := s.outbox ++ [.resumeShort cid] }
      else s
    | none => s
  | _, _ => s

/-- The contexts of a partition that were suspended before this allocation are tried, class 0 first, then the lowest id (R250). -/
def State.resumeSuspended (s : State) (part : Nat) : State :=
  let waiting := (s.contexts.map fun (x : Nat × Context) => x.2).filter fun c => c.part == part && c.state == .suspended
  (sortBy (fun (c : Context) => [c.cls, c.id]) waiting).foldl (fun s c => s.tryResume part c.id) s

/-- A boundary of a context of the partition is due, or its merge is open. -/
def State.boundaryOpen (s : State) (part : Nat) : Bool :=
  s.contexts.any fun (x : Nat × Context) => x.2.part == part &&
    (x.2.mergeOpen || (x.2.loop.ivl != 0 && decide (x.2.loop.nextBoundary ≤ s.now)))

/-- ALLOCATION (R241 step 5, R248 to R250, R261): every virtual performance state requested comes into force, contexts that do not fit are
suspended, suspended ones tried, and the grants formed. -/
def onAllocation (part : Nat) (s : State) : Option State :=
  match s.part? part with
  | none => none
  | some p =>
    if decide (s.now < p.nextAlloc) || p.grantsDue.isSome || s.boundaryOpen part then none
    else
      let s0 := s.mature
      let s1 := { s0 with contexts := s0.contexts.map fun (x : Nat × Context) =>
        if x.2.part == part then (x.1, x.2.latchVps (((s0.vf? x.2.vf).map fun (v : Vf) => v.vps).getD [])) else x }
      let s2 := ((s1.suspendShort part).resumeSuspended part).formGrants part
      some (s2.modPart part fun p => { p with nextAlloc := p.nextAlloc + 16384, grantsDue := some (p.nextAlloc + 8000) })

/-- ALLOCATION; nothing happens where it cannot occur (log 48). -/
def execAllocation (part : Nat) (s : State) : Out := s.occurs (onAllocation part s)

/-! ## Grants in force (R160, R251) -/

/-- The ways each context keeps under its grant: the lowest of its own in the pool that none before it keeps (R160). -/
def keepWays (pool : Nat) : List Nat → List Context → List (Nat × Nat × List Nat)
  | _, [] => []
  | taken, c :: cs =>
    let kept := ((waysOf c.wayMask).filter fun w => decide (w < pool) && !taken.contains w).take (c.pos 2)
    (c.id, c.pos 2, kept) :: keepWays pool (taken ++ kept) cs

def maskOfWays (ws : List Nat) : BitVec 16 := BitVec.ofNat 16 (sumNat (ws.map fun w => 2 ^ w))

/-- Disjoint masks: each context keeps what it may, then takes the lowest free ways (R160, R251). -/
def fillWays (pool : Nat) : List Nat → List (Nat × Nat × List Nat) → List (Nat × BitVec 16)
  | _, [] => []
  | taken, (cid, n, kept) :: cs =>
    let more := ((List.range pool).filter fun w => !taken.contains w).take (n - kept.length)
    (cid, maskOfWays (kept ++ more)) :: fillWays pool (taken ++ more) cs

/-- The grants formed last come into force in a partition; a context that is not served has no ways (R160, R251). -/
def State.forceGrants (s : State) (part : Nat) : State :=
  match s.part? part with
  | none => s
  | some p =>
    let pool := 16 - p.cfg.systemShare
    let s1 := { s with contexts := s.contexts.map fun (x : Nat × Context) =>
      if x.2.part != part then x
      else if x.2.state == .live then (x.1, { x.2 with loop := { x.2.loop with pos := x.2.loop.nextPos } })
      else (x.1, { x.2 with wayMask := 0 }) }
    let rows := keepWays pool [] (s1.served part)
    let taken := (rows.map fun r => r.2.2).flatten
    (fillWays pool taken rows).foldl (fun s r => s.modCtx r.1 fun c => { c with wayMask := r.2 }) s1

/-- GRANTS_IN_FORCE: 8 µs after the boundary (R241, R251). -/
def onGrantsInForce (part : Nat) (s : State) : Option State :=
  match (s.part? part).bind fun p => p.grantsDue with
  | none => none
  | some t =>
    if s.now < t then none
    else some ((s.forceGrants part).modPart part fun p => { p with grantsDue := none })

/-- GRANTS_IN_FORCE; nothing happens where it cannot occur (log 48). -/
def execGrantsInForce (part : Nat) (s : State) : Out := s.occurs (onGrantsInForce part s)

/-! ## Link slots (R255, R256) -/

/-- Ones of a mask. -/
def countOnes (m : DWord) : Nat := ((List.range 64).filter fun i => m.getLsbD i).length

/-- `n` slots of a mask in ascending order, after the first `k` of them. -/
def slotsFrom (m : DWord) (k n : Nat) : DWord :=
  BitVec.ofNat 64 (sumNat (((((List.range 64).filter fun i => m.getLsbD i).drop k).take n).map fun i => 2 ^ i))

/-- Slots of contexts in order: on slice ports from a first slot on, on Dranov ports and the CXL port from that many slots of the mask on
(R256). -/
def assignSlots (p : PartCfg) : Nat → Nat → Nat → List Context → List (Nat × Nat × Nat × DWord × DWord)
  | _, _, _, [] => []
  | n, d, x, c :: cs =>
    let k := 4 * c.pos 3
    let kd := c.pos 3 * countOnes p.dranovMask / 16
    let kx := c.pos 3 * countOnes p.cxlMask / 16
    (c.id, n, k, slotsFrom p.dranovMask d kd, slotsFrom p.cxlMask x kx) :: assignSlots p (n + k) (d + kd) (x + kx) cs

/-- The slots follow POS3, in order of class, then context id (R256). -/
def State.slotsNow (s : State) : State :=
  let rows := ((List.range s.parts.length).zip s.parts).map fun (i, p) =>
    assignSlots p.cfg 0 0 0 (sortBy (fun (c : Context) => [c.cls, c.id]) (s.served i))
  let idle := { s with contexts := s.contexts.map fun (x : Nat × Context) => (x.1, { x.2 with slots := (0, 0, 0, 0) }) }
  rows.flatten.foldl (fun s r => s.modCtx r.1 fun c => { c with slots := r.2 }) idle

/-- LINK_FRAME_START: every 1,024 ns the slots follow POS3 (R255, R256). -/
def onLinkFrameStart (s : State) : Option State :=
  if s.now < s.nextFrame then none else some { s.slotsNow with nextFrame := s.nextFrame + 1024 }

/-- LINK_FRAME_START; nothing happens where it cannot occur (log 48). -/
def execLinkFrameStart (s : State) : Out := s.occurs (onLinkFrameStart s)

/-! ## Restore (R254, R277) -/

/-- Ranges and level under the limits of another partition; the demanded positions stay (R254). A set of parameters that still waits for its
boundary is kept whole as the host gave it: R254 clamps ranges and says nothing of one that waits (DESIGN CHOICE, log 83). -/
def LoopRegs.clampRanges (l : LoopRegs) (lims : List (Nat × Nat)) : LoopRegs :=
  let hi := (l.hi.zip lims).map fun x => min x.1 x.2.2
  let lo := (l.lo.zip hi).map fun x => min x.1 x.2
  { l with lo := lo, hi := hi }.clampLevel

/-- A restore in another partition moves the image there, which takes a background copy engine, and all of them carry pages (R10, R275). -/
def State.needsEngine (s : State) (ctx part : Nat) : Bool :=
  ((s.ctx? ctx).map fun c => c.image.isSome && c.part != part).getD false && decide (copyEngines ≤ s.transfers.length)

/-- CONTEXT_RESTORE (R254, R277): without room the station refuses and nothing is placed; a poisoned image is a context fault (R275); lo values
that do not fit leave the context suspended; else it runs under one allocation outside the cycle. Its grants hold until the next allocation of the
partition (R241), which an interval of more than 16,384 ns does not wait for, though R254 says until the context's next boundary (DESIGN CHOICE,
log 99). -/
def execContextRestore (ctx part : Nat) (s : State) : Out :=
  s.command (.contextRestore ctx part) <|
    match s.ctx? ctx, s.part? part with
    | some c, some p =>
      match c.image with
      | none => .next s
      | some img =>
        if !(c.state == .saved || c.state == .suspended) || !(((s.vf? c.vf).map fun v => v.parts.contains part).getD false) then .next s
        else if s.needsEngine ctx part then .next (s.hold (.contextRestore ctx part))
        else if img.psn then .next (s.contextFault ctx TrapRegs.reset 1)
        else
          let s0 := s.mature
          match s0.placeImage ctx part img with
          | none => .next { s with outbox := s.outbox ++ [.resumeShort ctx] }
          | some t =>
            let l := c.loop.clampRanges (p.limits c.floor)
            let c1 := { c with loop := l, part := part, wayMask := if c.part == part then c.wayMask else 0 }
            if p.fits (s0.coresIn part).length (c1 :: s0.served part) then
              .next (((t.modCtx ctx fun c => { c with loop := l.resumed s0.now }).formGrants part).forceGrants part)
            else .next (s0.modCtx ctx fun _ => { c1 with state := .suspended })
    | _, _ => .next s

end Sys2Proof.Machine
end

