-- ==== Sys2Proof/Machine/Power.lean ====
section
/-!
DEFINITION. Power (R257 to R262): meter windows, throttles, the module cap, pools and virtual performance states; energy accounts (R263 to
R265); a core that goes out of service (R250).
-/
namespace Sys2Proof.Machine

/-! ## Throttles (R258, R259) -/

/-- One step of the throttle on the window just closed (R258). -/
def Part.throttle (p : Part) : Part :=
  if p.eff < p.meter then
    if 8 < p.duty then { p with duty := p.duty - 8 } else if p.ceil < 3 then { p with ceil := p.ceil + 1 } else p
  else if 16 * p.meter < 15 * p.eff then
    if 0 < p.ceil then { p with ceil := p.ceil - 1 } else { p with duty := min 64 (p.duty + 8) }
  else p

/-- A cluster in a pool faster than CEIL is marked with the tick since which it is (R259). -/
def Cluster.track (c : Cluster) (ceil now : Nat) : Cluster :=
  { c with fastSince := if c.pool < ceil then some (c.fastSince.getD now) else none }

def State.trackFast (s : State) : State :=
  { s with clusters := s.clusters.map fun (x : Nat × Cluster) =>
      (x.1, x.2.track ((((s.clusterPart x.1).bind fun p => s.part? p).map fun (p : Part) => p.ceil).getD 0) s.ticks) }

/-! ## The module cap (R262) -/

/-- The partitions that k × a_p leaves above their floors: allotment, floor and whether it is one (R262). Each round drops those that the
largest k so far leaves at their floor; dropping lowers k. -/
def raised : Nat → Nat → List (Nat × Nat × Bool) → List (Nat × Nat × Bool)
  | 0, _, ps => ps
  | n + 1, b, ps =>
    let up := ps.filter fun p => p.2.2
    let rest := b - sumNat ((ps.filter fun p => !p.2.2).map fun p => p.2.1)
    let total := sumNat (up.map fun p => p.1)
    raised n b (ps.map fun p => (p.1, p.2.1, p.2.2 && decide (p.2.1 * total < rest * p.1)))

/-- EFF of every partition from the power that the cap leaves, and whether the floors exceed it (R262). -/
def capShares (b : Int) (ps : List (Nat × Nat)) : List Nat × Bool :=
  let a := sumNat (ps.map fun p => p.1)
  let f := sumNat (ps.map fun p => p.2)
  if a ≤ b then (ps.map fun p => p.1, false)
  else if f ≤ b then
    let rs := raised (ps.length + 1) b.toNat (ps.map fun p => (p.1, p.2, true))
    let rest := b.toNat - sumNat ((rs.filter fun p => !p.2.2).map fun p => p.2.1)
    let total := sumNat ((rs.filter fun p => p.2.2).map fun p => p.1)
    (rs.map fun p => if p.2.2 then max p.2.1 (rest * p.1 / total) else p.2.1, false)
  else (ps.map fun p => p.2, true)

/-- CAP_SHARE: EFF of each partition, the flags, and where the cap is below the idle floor DUTY 8 and CEIL 3 (R262). -/
def State.capShare (s : State) : State :=
  let (effs, below) := capShares ((s.pwrCap : Int) - s.pwrUncore) (s.parts.map fun p => (p.cfg.allot, p.cfg.floor))
  let unreachable := decide (s.pwrCap < s.pwrIdle)
  { s with
    parts := (s.parts.zip effs).map fun x =>
      let p : Part := { x.1 with eff := x.2 }
      if unreachable then { p with duty := 8, ceil := 3 } else p
    capBelowFloors := s.capBelowFloors || below
    capUnreachable := s.capUnreachable || unreachable }

/-- METER_WINDOW_END: the meters of the window just closed and the power outside them; the throttles act, unless the cap is unreachable, then
the cap is shared (R258, R262). -/
def onMeterWindowEnd (meters : List Nat) (uncore : Nat) (s : State) : Option State :=
  if s.now < s.nextMeter then none
  else
    let metered := ((List.range s.parts.length).zip s.parts).map fun (i, p) => { p with meter := min 65535 ((meters[i]?).getD p.meter) }
    let parts := if s.pwrCap < s.pwrIdle then metered else metered.map Part.throttle
    some ({ s with parts := parts, pwrUncore := uncore, nextMeter := s.nextMeter + 2 ^ 20 }).capShare.trackFast

/-- METER_WINDOW_END; nothing happens where it cannot occur (log 48). -/
def execMeterWindowEnd (meters : List Nat) (uncore : Nat) (s : State) : Out := s.occurs (onMeterWindowEnd meters uncore s)

/-- PWR_CAP_WRITE: a larger value is taken as 3,600 (R262). -/
def execPwrCapWrite (watts : Nat) (s : State) : Out := .next { s with pwrCap := min 3600 watts }

/-! ## Pools (R20, R259, R260) -/

/-- THROTTLE_DRAIN_TIMEOUT: the contexts of a cluster that has been faster than CEIL for 10 ms are stopped and saved as under R236. -/
def onThrottleDrainTimeout (cl : Nat) (s : State) : Option State :=
  match (s.cluster? cl).bind fun c => c.fastSince with
  | none => none
  | some t =>
    let there := (dedup ((s.groups.filter fun g => g.cluster == cl).map fun g => g.ctx)).filter fun c =>
      ((s.ctx? c).map fun x => x.state == .live).getD false
    if s.ticks < t + 10000000 * 24 ∨ there.isEmpty then none
    else some (there.foldl (fun s c => s.halt c .suspend) s)

/-- THROTTLE_DRAIN_TIMEOUT; nothing happens where it cannot occur (log 48). -/
def execThrottleDrainTimeout (cl : Nat) (s : State) : Out := s.occurs (onThrottleDrainTimeout cl s)

/-- A cluster is empty or drained (R20). -/
def State.clusterEmpty (s : State) (cl : Nat) (c : Cluster) : Bool :=
  !(s.groups.any fun g => g.cluster == cl) && !(s.blocks.any fun b => b.cluster == cl) && c.sets.isEmpty && c.passes.isEmpty &&
    c.factor.isEmpty && c.copies.isEmpty

/-- Every update-only line of a cluster goes home (R200). -/
def State.sendPartials (s : State) (cl : Nat) : State :=
  match s.cluster? cl with
  | none => s
  | some c => (c.lines.filter fun l => l.kind == .updateOnly).foldl (fun s l => s.evict cl l) s

/-- What a context's grants require of the pools, for each floor of its launches with blocks to place, or its own where it has none: clusters for
its granted cores, in the pools from the fastest that its clock step and CEIL allow down to the floor (R234, R260, log 73). -/
def State.poolNeedsOf (s : State) (ceil : Nat) (c : Context) : List (Nat × Nat × Nat) :=
  let waiting := (s.launches.filter fun l => l.waiting && l.lpb.ctx == c.id).map fun l => l.lpb.floor
  ((if waiting.isEmpty then [c.floor] else dedup waiting).map fun f => (max ceil (f - c.pos 4), f, ceilDiv (c.pos 1) 4)).filter fun n =>
    decide (n.1 ≤ n.2.1)

/-- The same of a partition, fastest pool first. -/
def State.poolNeeds (s : State) (part ceil : Nat) : List (Nat × Nat × Nat) :=
  sortBy (fun n => [n.1, n.2.1]) ((s.served part).map fun c => s.poolNeedsOf ceil c).flatten

/-- Clusters that a partition has in pools from one to another, or is bringing there (R260). -/
def State.poolsHold (s : State) (part lo hi : Nat) : Nat :=
  ((s.clustersIn part).filter fun k =>
    ((s.cluster? k).map fun c => (c.moving.map fun m => m.1).getD c.pool).any fun p => decide (lo ≤ p) && decide (p ≤ hi)).length

/-- The station's choice for a cluster (R259, R260, log 73): the fastest pool of the first need that lacks clusters, where no need would miss this
one; a cluster faster than CEIL goes to CEIL where none lacks any. -/
def State.poolFor (s : State) (cl : Nat) (c : Cluster) : Option Nat :=
  match s.clusterPart cl with
  | none => none
  | some part =>
    let ceil := ((s.part? part).map fun (p : Part) => p.ceil).getD 0
    let needs := s.poolNeeds part ceil
    let short := (needs.find? fun n => decide (s.poolsHold part n.1 n.2.1 < n.2.2)).map fun n => n.1
    if c.pool < ceil then some (short.getD ceil)
    else if needs.all fun n => decide (c.pool < n.1) || decide (n.2.1 < c.pool) || decide (n.2.2 < s.poolsHold part n.1 n.2.1) then short
    else none

/-- POOL_REASSIGN: the cluster places no block for 50 µs, then runs in the pool that the station has chosen for it (R260). -/
def onPoolReassign (cl pool : Nat) (s : State) : Option State :=
  s.govern <|
    match s.cluster? cl with
    | none => none
    | some c =>
      if c.moving.isSome || !s.clusterEmpty cl c || s.poolFor cl c != some pool then none
      else some ((s.mature.sendPartials cl).modCluster cl fun c => { c with moving := some (pool, s.ticks + 50000 * 24) })

/-- POOL_REASSIGN; nothing happens where it cannot occur (log 48). -/
def execPoolReassign (cl pool : Nat) (s : State) : Out := s.occurs (onPoolReassign cl pool s)

/-- POOL_REASSIGN_DONE: the cycle count goes on in the new clock (R260, R264). -/
def onPoolReassignDone (cl : Nat) (s : State) : Option State :=
  match (s.cluster? cl).bind fun c => c.moving.map fun m => (c, m) with
  | none => none
  | some (c, pool, t) =>
    if s.ticks < t then none
    else
      some (s.modCluster cl fun x =>
        { x with pool := pool, moving := none, cycBase := c.cycles s.ticks, cycTick := s.ticks }).trackFast

/-- POOL_REASSIGN_DONE; nothing happens where it cannot occur (log 48). -/
def execPoolReassignDone (cl : Nat) (s : State) : Out := s.occurs (onPoolReassignDone cl s)

/-! ## Virtual performance states (R261) -/

/-- VPS_TABLE_WRITE: in force for a context from its next allocation on (R261). -/
def execVpsTableWrite (vf i : Nat) (floor maxstep : BitVec 2) (s : State) : Out :=
  s.command (.vpsTableWrite vf i floor maxstep) <| .next (s.modVf vf fun v => { v with vps := modifyAt v.vps i fun _ => (floor, maxstep) })

/-! ## Energy (R263 to R265) -/

/-- ENERGY_WEIGHT_SET: EWT0 to EWT15 (R263). -/
def execEnergyWeightSet (part : Nat) (weights : List (BitVec 16)) (s : State) : Out :=
  s.command (.energyWeightSet part weights) <| .next (if weights.length = 16 then s.modPart part fun p => { p with ewt := weights } else s)

/-- The contexts of the slots of a core that were occupied at a cycle: a group counts from the cycle in which it took its slot up to and
including the one in which it left (R473). -/
def State.occupied (s : State) (cl core cycle : Nat) : List Nat :=
  ((s.groupsOn (4 * cl + core)).filter fun g => decide (g.since ≤ cycle)).map (·.ctx) ++
    (((((s.cluster? cl).map (·.left)).getD []).filter fun x =>
      x.core == core && decide (x.since ≤ cycle) && decide (cycle ≤ x.upTo)).map fun x => x.ctx)

/-- The static energy of epochs of one core, each with the same slots occupied: to the contexts by slots, and to the idle account for the
rest (R264). -/
def State.chargeEpochs (s : State) (cl core k : Nat) (slots : List Nat) : State :=
  match (s.cluster? cl).bind fun c => (s.clusterPart cl).bind fun i => (s.part? i).map fun p => (c, i, p) with
  | none => s
  | some (c, i, p) =>
    let unit := k * (p.weight 14 / 96)
    let s1 := slots.foldl (fun s x => s.modCtx x fun c =>
      let r := addEnergy c.energy c.sat unit
      { c with energy := r.1, sat := r.2 }) s
    if (c.inService[core]?).getD false then
      s1.modPart i fun p => { p with idle := (addEnergy p.idle false (unit * (96 - slots.length))).1 }
    else s1

/-- Epochs of a core counted as charged; what has left its slots before the present cycle counts no more for them. -/
def Cluster.countEpochs (c : Cluster) (core k now : Nat) : Cluster :=
  { c with epochs := modifyAt c.epochs core fun n => n + k
           left := c.left.filter fun x => x.core != core || decide (1024 * ((c.epochs[core]?).getD 0 + k + 1) ≤ x.upTo) || decide (now ≤ x.upTo) }

/-- The next k epochs of one core, which have ended: epoch n ends at cycle 1,024 × (n + 1) (R264, R473). Those after the first find the slots as
they are after it. -/
def State.endEpochs (s : State) (cl core k : Nat) : State :=
  let c := 1024 * (((s.cluster? cl).bind fun c => c.epochs[core]?).getD 0 + 1)
  ((s.chargeEpochs cl core 1 (s.occupied cl core c)).chargeEpochs cl core (k - 1) (s.occupied cl core (c + 1024))).modCluster cl fun c =>
    c.countEpochs core k (c.cycles s.ticks)

/-- Epochs of a core that ended in a cycle that is over at a tick, and are not charged. -/
def Cluster.epochsDue (c : Cluster) (core tick : Nat) : Nat := (c.cycles tick - 1) / 1024 - (c.epochs[core]?).getD 0

/-- The cores with such epochs before the present tick, and how many. -/
def State.dueEpochs (s : State) : List (Nat × Nat × Nat) :=
  (s.clusters.map fun (x : Nat × Cluster) =>
    (List.range 4).filterMap fun i =>
      let k := x.2.epochsDue i (s.ticks - 1)
      if k = 0 then none else some (x.1, i, k)).flatten

/-- Every epoch whose last cycle was over before the present tick charged (R264, R473). -/
def State.settleEpochs (s : State) : State := s.dueEpochs.foldl (fun s x => s.endEpochs x.1 x.2.1 x.2.2) s

/-- ENERGY_EPOCH_END: one core's epoch of 1,024 cycles has ended, and the cycle it ended in is over, so that every slot occupied in it is known
(R264, R473). -/
def onEnergyEpochEnd (cl core : Nat) (s : State) : Option State :=
  match (s.cluster? cl).bind fun c => (c.epochs[core]?).map fun _ => c with
  | none => none
  | some c => if c.epochsDue core s.ticks = 0 then none else some (s.endEpochs cl core 1)

/-- ENERGY_EPOCH_END; nothing happens where it cannot occur (log 48). -/
def execEnergyEpochEnd (cl core : Nat) (s : State) : Out := s.occurs (onEnergyEpochEnd cl core s)

/-- ENERGY_COUNTER_CLEAR (R265). -/
def execEnergyCounterClear (ctx : Nat) (s : State) : Out :=
  s.command (.energyCounterClear ctx) <| .next (s.modCtx ctx fun c => { c with energy := 0, sat := false })

/-- IDLE_ACCOUNT_CLEAR (R264). -/
def execIdleAccountClear (part : Nat) (s : State) : Out := s.command (.idleAccountClear part) <| .next (s.modPart part fun p => { p with idle := 0 })

/-! ## Units that fail (R250) -/

/-- UNIT_FAILURE: a core goes out of service; the allocator sees it at its next allocation. -/
def execUnitFailure (cl core : Nat) (s : State) : Out :=
  .next (s.modCluster cl fun c => { c with inService := modifyAt c.inService core fun _ => false })

end Sys2Proof.Machine
end

