-- ==== Sys2Proof/Machine/Peer.lean ====
section
/-!
DEFINITION. Shootdowns (R213), base and bound (R209), peer translations and peer memory requests (R214, R290).
-/
namespace Sys2Proof.Machine

/-! ## Shootdowns (R213) -/

/-- Copies and casting commands of contexts, by number, those in images among them (R344). -/
def State.enginesOf (s : State) (pick : Nat → Bool) : List Nat :=
  (s.allCopies.filterMap fun k => if pick k.ctx then some k.id else none) ++
    s.allCasts.filterMap fun k => if pick k.ctx then some k.id else none

/-- Flights of contexts, and tuple requests on their way to a home. -/
def State.travellersOf (s : State) (pick : Nat → Bool) : List Nat :=
  (s.flights.filterMap fun f => if pick f.ctx then some f.id else none) ++
    s.tupleReqs.filterMap fun r =>
      if (r.stage == .travelling || r.stage == .releasing) && ((s.group? r.grp).map fun g => pick g.ctx).getD false then some r.id else none

/-- The contexts a shootdown names: one, or all of a function. -/
def State.shootPick (s : State) (vf : Nat) (ctx : Option Nat) (c : Nat) : Bool :=
  ((s.ctx? c).map fun x => x.vf == vf).getD false && (ctx.isNone || ctx == some c)

/-- The grant is on a page of the range. -/
def PeerLease.meets (l : PeerLease) (vf lo n : Nat) : Bool := l.vf == vf && overlaps l.page l.size (lo % 2 ^ 57) n

/-- SHOOTDOWN of `[lo, hi)`: steps 1 and 2, and what step 3 waits for (R213). -/
def execShootdown (vf : Nat) (ctx : Option Nat) (lo hi : Nat) (s : State) : Out :=
  s.command (.shootdown vf ctx lo hi) <|
    let pick := s.shootPick vf ctx
    let (i, s1) := (s.shoot vf lo (hi - lo) pick).newId
    let d : Shootdown :=
      { id := i, vf := vf, ctx := ctx, lo := lo, hi := hi, flights := s.travellersOf pick, copies := s.enginesOf pick }
    .next ({ s1 with shootdowns := s1.shootdowns ++ [d] }.recallGrants fun l => l.meets vf lo (hi - lo))

/-- SHOOTDOWN_COMPLETE: everything translated before step 1 has been performed or has its visibility time, and no peer holds a translation of
the range (R213 steps 3 and 4, R214). -/
def onShootdownComplete (id : Nat) (s : State) : Option State :=
  match s.shootdowns.find? fun d => d.id == id with
  | none => none
  | some d =>
    let moving := s.travellersOf fun _ => true
    let posted := s.enginesOf fun _ => true
    let held := s.peerGrants.any fun l => decide (s.now < l.expiry) && l.meets d.vf d.lo (d.hi - d.lo)
    if (d.flights.any fun f => moving.contains f) || (d.copies.any fun k => posted.contains k) || held then none
    else some { s with shootdowns := s.shootdowns.filter fun x => x.id != id, outbox := s.outbox ++ [.shootdownDone id] }

/-- SHOOTDOWN_COMPLETE; nothing happens where it cannot occur (log 48). -/
def execShootdownComplete (id : Nat) (s : State) : Out := s.occurs (onShootdownComplete id s)

/-! ## Base and bound (R209) -/

/-- A context's groups hold nothing on the part: it is suspended, saved or faulted with its image written. -/
def CtxState.stopped (c : CtxState) : Bool := c == .saved || c == .suspended || c == .faulted

/-- The pair may stand: multiples of 64 KiB, inside the partition's HBM. -/
def Part.pairOk (p : Part) (base bound : Nat) : Bool :=
  base % 65536 == 0 && bound % 65536 == 0 && decide (base + bound ≤ p.cfg.units.length * 2 ^ 36)

/-- A function's partitions in ascending PARTID with one added, its window, and its frames under their new index. -/
def Vf.addPart (v : Vf) (part : Nat) (w : Nat × Nat) : Vf :=
  let k := (v.parts.filter fun p => decide (p < part)).length
  { v with parts := v.parts.take k ++ part :: v.parts.drop k, windows := v.windows.take k ++ w :: v.windows.drop k,
           frames := v.frames.map fun f => if k ≤ f.1 then (f.1 + 1, f.2) else f }

/-- Peers hold translations of pages of a function in a partition (R214). -/
def State.lends (s : State) (vf part : Nat) : Bool := s.peerGrants.any fun l => l.vf == vf && l.part == part && decide (s.now < l.expiry)

/-- BASE_BOUND_SET: refused while a context of the function in that partition is not suspended. A change moves every page of the window, so it waits
for the sources of peer translations that stand on them, which are recalled (R214), and no register keeps a frame there (R212). The first pair in
a partition gives the function that partition, while it has no context (R19). -/
def execBaseBoundSet (vf part base bound : Nat) (s : State) : Out :=
  s.command (.baseBoundSet vf part base bound) <|
    match s.vf? vf, s.part? part with
    | some v, some p =>
      let mine := s.contexts.filter fun (x : Nat × Context) => x.2.vf == vf
      if !p.pairOk base bound then .next s
      else
        match v.parts.findIdx? fun q => q == part with
        | some i =>
          if mine.all fun (x : Nat × Context) => x.2.part != part || x.2.state.stopped then
            if s.lends vf part then .next ((s.recallGrants fun l => l.vf == vf && l.part == part).hold (.baseBoundSet vf part base bound))
            else .next ((s.modVf vf fun v => { v with windows := modifyAt v.windows i fun _ => (base, bound) }).unframe vf part)
          else .next s
        | none => if mine.isEmpty then .next (s.modVf vf fun v => v.addPart part (base, bound)) else .next s
    | _, _ => .next s

/-! ## Peer translations (R214) -/

/-- The target: it translates under the context's tables and R209, and grants a lease of 16 µs. An address that does not translate to resident
memory gets no grant, nor does a secure page of a function that is not in the secure world (R297). W of the leaf is granted as the right to write;
the spec does not say whether the target looks at R as well: it does not, and the source checks R in its own leaf (DESIGN CHOICE, log 91). -/
def State.grantPeer (s : State) (src ctx va : Nat) : State :=
  match s.mature.walk ctx va false with
  | (s1, .leaf e) =>
    match s1.place e e.page with
    | .mem key =>
      let secure := ((s1.vf? e.vf).map fun v => v.secure).getD false
      if e.leaf.cls == 2 then s1
      else if !secure && !e.leaf.ns then s1.logWorld secure e.leaf
      else
        let (i, s2) := s1.newId
        let t := s2.now + 16000
        let l : PeerLease := { id := i, peer := src, vf := e.vf, part := s2.leafPart e, page := e.page, size := e.size, key := key,
                               write := e.leaf.w, expiry := t, recalled := false, asked := false }
        { s2 with peerGrants := s2.peerGrants ++ [l], outbox := s2.outbox ++ [.peerGrant src e.page e.size key t] }
    | _ => s1
  | (s1, _) => s1

/-- The source: the target has granted a translation it was asked for, under a lease of 16 µs (R214). -/
def State.grantMine (s : State) (ctx va : Nat) : Option State :=
  let hit := fun (l : PeerLease) =>
    l.asked && some l.vf == (s.ctx? ctx).map (fun c => c.vf) && decide (l.page ≤ va % 2 ^ 57) && decide (va % 2 ^ 57 < l.page + l.size) &&
      s.mayReach l.key
  if s.peerLeases.any hit then
    some { s with peerLeases := mapIf hit (fun l => { l with asked := false, expiry := s.now + 16000 }) s.peerLeases }
  else none

/-- PEER_TRANSLATION_REQUEST (R214): of another module to this one; or this module's own, as the answer of its target. -/
def onPeerTranslationRequest (src ctx va : Nat) (s : State) : Option State :=
  if !s.linkUp then none
  else if src == s.moduleNo then s.grantMine ctx va
  else some (s.grantPeer src ctx va)

/-- PEER_TRANSLATION_REQUEST; nothing happens where it cannot occur (log 48). -/
def execPeerTranslationRequest (src ctx va : Nat) (s : State) : Out := s.occurs (onPeerTranslationRequest src ctx va s)

/-- PEER_TRANSLATION_RECALL: of a grant this module made, which a flit tells its source, or of a lease it holds. -/
def onPeerTranslationRecall (id : Nat) (s : State) : Option State :=
  if s.linkUp && (s.peerGrants ++ s.peerLeases).any fun l => l.id == id then
    let s1 := s.recallGrants fun l => l.id == id
    some { s1 with peerLeases := mapIf (fun l => l.id == id) (fun l => { l with recalled := true }) s1.peerLeases }
  else none

/-- PEER_TRANSLATION_RECALL; nothing happens where it cannot occur (log 48). -/
def execPeerTranslationRecall (id : Nat) (s : State) : Out := s.occurs (onPeerTranslationRecall id s)

/-- Accesses of this module under a peer translation are outstanding. -/
def State.leaseBusy (s : State) (l : PeerLease) : Bool := !s.pageQuiet l.vf l.page l.size l.key

/-- PEER_RECALL_ACK: a source acknowledges a recall, the peer to this module, or this module once its own accesses under the translation have
their visibility times. -/
def onPeerRecallAck (id : Nat) (s : State) : Option State :=
  if !s.linkUp then none
  else if s.peerGrants.any fun l => l.id == id && l.recalled then some { s with peerGrants := s.peerGrants.filter fun l => l.id != id }
  else
    match s.peerLeases.find? fun l => l.id == id && l.recalled && !s.leaseBusy l with
    | none => none
    | some l =>
      some { s with peerLeases := s.peerLeases.filter fun l => l.id != id, outbox := s.outbox ++ [.peerAck l.peer (peerAddr l.key)] }

/-- PEER_RECALL_ACK; nothing happens where it cannot occur (log 48). -/
def execPeerRecallAck (id : Nat) (s : State) : Out := s.occurs (onPeerRecallAck id s)

/-- PEER_LEASE_EXPIRY. -/
def onPeerLeaseExpiry (id : Nat) (s : State) : Option State :=
  if (s.peerGrants ++ s.peerLeases).any fun l => l.id == id && !l.asked && decide (l.expiry ≤ s.now) then
    some { s with peerGrants := s.peerGrants.filter fun l => l.id != id, peerLeases := s.peerLeases.filter fun l => l.id != id }
  else none

/-- PEER_LEASE_EXPIRY; nothing happens where it cannot occur (log 48). -/
def execPeerLeaseExpiry (id : Nat) (s : State) : Out := s.occurs (onPeerLeaseExpiry id s)

/-! ## Peer memory requests (R290) -/

/-- The grant a peer's request names, where it is in force and covers the bytes. -/
def State.grantFor (s : State) (src grant offset len : Nat) : Option PeerLease :=
  s.peerGrants.find? fun l => l.id == grant && l.peer == src && decide (s.now < l.expiry) && decide (offset + len ≤ l.size)

/-- A run of bytes cut at 64 KiB, within which addresses are confined and placed alike (R209). -/
def chunksOf (a n : Nat) : List (Nat × Nat) :=
  (List.range (n / 65536 + 2)).filterMap fun k =>
    let lo := max a ((a / 65536 + k) * 65536)
    let hi := min (a + n) ((a / 65536 + k + 1) * 65536)
    if lo < hi then some (lo, hi - lo) else none

/-- A run of a function's addresses in a partition, as runs of keys (R209). -/
def State.confineRun (s : State) (v : Vf) (idx a n : Nat) : Option (List (Nat × Nat)) :=
  (chunksOf a n).mapM fun c => (s.confine v idx c.1).map fun key => (key, c.2)

/-- The bytes of a granted page that a request names, every one confined again (R209, R214). -/
def State.grantRuns (s : State) (l : PeerLease) (offset len : Nat) : Option (List (Nat × Nat)) :=
  match s.vf? l.vf, (s.part? l.part).bind fun p => p.cfg.offsetOf l.key with
  | some v, some o =>
    match v.parts.findIdx? fun p => p == l.part with
    | none => none
    | some i =>
      let base := ((v.windows[i]?).map fun w => w.1).getD 0
      s.confineRun v i (o - base + offset) len
  | _, _ => none

/-- A run of bytes cut at the 64-byte granules of R279. -/
def granulePieces (key n : Nat) : List (Nat × Nat) :=
  if n = 0 then []
  else (List.range ((key + n - 1) / 64 - key / 64 + 1)).map fun i =>
    let lo := max key ((key / 64 + i) * 64)
    (lo, min (key + n) ((key / 64 + i + 1) * 64) - lo)

/-- The poison bit of each granule of a run (R279). -/
def State.granuleBits (s : State) (key n : Nat) : List Bool := (granulePieces key n).map fun p => (firstPoison s.poison p.1 p.2).isSome

/-- Bytes of a run at their homes, due writes visible and copies recalled, with a poison bit for each granule. -/
def State.homeRead (s : State) (key n : Nat) : State × List Byte × List Bool :=
  let s1 := (linePieces key n).foldl (fun s p => s.atHome (p.1 / 128)) s.mature
  (s1, s1.mem.bytes key n, s1.granuleBits key n)

/-- The same of several runs, one after the other. -/
def State.homeReads (s : State) : List (Nat × Nat) → State × List Byte × List Bool
  | [] => (s, [], [])
  | (key, n) :: rs =>
    let (s1, bs, b) := s.homeRead key n
    let (s2, cs, c) := s1.homeReads rs
    (s2, bs ++ cs, b ++ c)

/-- A write of another agent at its homes (R191). -/
def State.homeWrite (s : State) (key : Nat) (bs : List Byte) (t : Taint) : State :=
  (linePieces key bs.length).foldl (fun s p =>
    let s1 := s.atHome (p.1 / 128)
    s1.accept p.1 ((bs.drop (p.1 - key)).take p.2) (s1.gwctOf (p.1 / 128)) noGroup false t 4096) s

/-- A write over several runs. -/
def State.homeWrites (s : State) (t : Taint) : List (Nat × Nat) → List Byte → State
  | [], _ => s
  | (key, n) :: rs, bs => (s.homeWrite key (bs.take n) t).homeWrites t rs (bs.drop n)

/-- A write over pieces of granules, each with its poison bit (R279). -/
def State.taintedWrites (s : State) : List (Nat × Nat) → List Byte → List Bool → State
  | [], _, _ => s
  | (key, n) :: rs, bs, ps =>
    (s.homeWrite key (bs.take n) (if ps.headD false then .poisoned else .clean)).taintedWrites rs (bs.drop n) (ps.drop 1)

/-- The granules of several runs. -/
def runGranules (rs : List (Nat × Nat)) : List (Nat × Nat) := rs.flatMap fun r => granulePieces r.1 r.2

/-- Bytes stored over pieces of granules, each with its poison bit. -/
def State.storePieces (s : State) : List (Nat × Nat) → List Byte → List Bool → State
  | [], _, _ => s
  | (key, n) :: rs, bs, ps =>
    (s.store key (bs.take n) (if ps.headD false then .poisoned else .clean)).storePieces rs (bs.drop n) (ps.drop 1)

/-- A Dranov port that is up (R14, R290). -/
def State.dranovUp (s : State) (port : Nat) : Bool := decide (port < 18) && s.portUp port

/-- PEER_MEMORY_FLIT: a request under a grant in force is served at home, another one is not; a peer's data are what its own memory now holds
(log 6). Data go with one poison bit for each granule of 64 bytes (R279). -/
def onPeerMemoryFlit (r : PeerReq) (s : State) : Option State :=
  match r with
  | .read src port grant offset len =>
    if !s.dranovUp port then none
    else
      match s.grantFor src grant offset len with
      | none => some s
      | some l =>
        match s.grantRuns l offset len with
        | none => some s
        | some rs =>
          let (s1, bs, psn) := s.homeReads rs
          some { s1 with outbox := s1.outbox ++ [.peerData src bs psn] }
  | .write src port grant offset data psn =>
    if !s.dranovUp port then none
    else
      match s.grantFor src grant offset data.length with
      | none => some s
      | some l =>
        match s.grantRuns l offset data.length with
        | none => some s
        | some rs => some (if l.write then s.taintedWrites (runGranules rs) data psn else s)
  | .data src port addr data psn =>
    if !s.dranovUp port || decide (256 ≤ src) || decide (2 ^ 52 < addr + data.length) then none
    else some (s.mature.storePieces (granulePieces (peerKey src addr) data.length) data psn)

/-- PEER_MEMORY_FLIT; nothing happens where it cannot occur (log 48). -/
def execPeerMemoryFlit (r : PeerReq) (s : State) : Out := s.occurs (onPeerMemoryFlit r s)

end Sys2Proof.Machine
end

