-- ==== Sys2Proof/Machine/Ras.lean ====
section
/-!
DEFINITION. Errors and their containment (R281, R282), ports and their resets (R283), and the station's own fault (R281).
-/
namespace Sys2Proof.Machine

/-! ## Error classes that a context report names (R272, R281) -/

def errTag : Nat := 2
def errBank : Nat := 3
def errRegister : Nat := 4

/-- A context fault that containment names: no group caused it. -/
def State.contain (s : State) (cid cls : Nat) : State := s.contextFault cid TrapRegs.reset cls

/-! ## Memory errors (R281) -/

/-- The granule of an address of the module becomes poisoned. -/
def State.poisonGranuleAt (s : State) (addr : Nat) : State :=
  let s1 := s.mature
  { s1 with poison := poisonAt s1.poison (addr / 64) }

/-- A stored manifest entry of a tile takes its PSN bit (R174). -/
def Manifest.strike (m : Manifest) (i : Nat) : Manifest := { m with entries := modifyAt m.entries i fun e => { e with psn := true } }

/-- What an uncorrectable error strikes becomes poisoned: a granule of memory, a manifest entry (R174), the granule of a divergence-stack entry
(R35), a tuple (R186), an image (R275). -/
def State.strike (s : State) (t : ErrPlace) : Option State :=
  match t with
  | .memory addr => if inModule addr then some (s.poisonGranuleAt addr) else none
  | .manifest vf tile i => some { s with manifests := mapIf (fun m => m.vf == vf && m.tile == tile) (fun m => m.strike i) s.manifests }
  | .stack g i => some (s.modGroup g fun g => { g with stackPsn := poisonAt g.stackPsn (i / 4) })
  | .tuple i => some { s with tuples := modifyAt s.tuples i fun t => { t with psn := true } }
  | .image ctx => some (s.modCtx ctx fun c => { c with image := c.image.map fun i => { i with psn := true } })

/-- HBM_UNCORRECTABLE_ERROR. -/
def onHbmUncorrectableError (t : ErrPlace) (s : State) : Option State := s.strike t

/-- HBM_UNCORRECTABLE_ERROR; nothing happens where it cannot occur (log 48). -/
def execHbmUncorrectableError (t : ErrPlace) (s : State) : Out := s.occurs (onHbmUncorrectableError t s)

/-- L2_DATA_UNCORRECTABLE_ERROR. -/
def onL2DataUncorrectableError (t : ErrPlace) (s : State) : Option State := s.strike t

/-- L2_DATA_UNCORRECTABLE_ERROR; nothing happens where it cannot occur (log 48). -/
def execL2DataUncorrectableError (t : ErrPlace) (s : State) : Out := s.occurs (onL2DataUncorrectableError t s)

/-- A granule's poison as HBM holds it. -/
def granuleAs (m : Map (BitVec 64)) (gr : Nat) (bad : Bool) : Map (BitVec 64) := if bad then m.put gr 0 else m.del gr

/-- The cluster line that holds a line OWNED (R199). -/
def State.ownedLine (s : State) (line : Nat) : Option (Nat × CLine) :=
  (s.homeLine line).owned.bind fun cl => ((s.cluster? cl).bind fun c => c.line? line).map fun l => (cl, l)

/-- A dirty line that L2 drops without a write-back: its bytes and their poison are those that HBM holds (R280, R282). Where a cluster holds the
line OWNED, its copy stays, and what the home has lost is what it held itself. -/
def State.loseLine (s : State) (line : Nat) (l : L2Line) : State :=
  match s.ownedLine line with
  | some (cl, _) =>
    s.modCluster cl fun c => { c with lines := mapIf (fun x => x.tag == line) (fun x => { x with base := some (l.hbm, l.hbmPsn) }) c.lines }
  | none =>
    { s with mem := s.mem.setBytes (128 * line) l.hbm,
             poison := granuleAs (granuleAs s.poison (2 * line) l.hbmPsn.1) (2 * line + 1) l.hbmPsn.2 }

/-- A line leaves L2 without a write-back; the written masks of its granules go with it (R280, R282). -/
def State.l2Lose (s : State) (line : Nat) (l : L2Line) : State :=
  let t := { s with l2 := s.l2.del line, poison := dropMasks s.poison line }
  if l.dirty then t.loseLine line l else t

/-- L2_TAG_PARITY_ERROR (R282): the line is dropped without a write-back; the contexts of the way's list take a context fault, or every context
of the partition where the list has overflowed or the way lies in the system share. -/
def onL2TagParityError (slice way line : Nat) (s : State) : Option State :=
  match s.parts.findIdx? fun p => p.cfg.units.contains (slice / 4) with
  | none => none
  | some pid =>
    match s.part? pid with
    | none => none
    | some p =>
      if 16 ≤ way then none
      else
        let s0 := s.mature
        let s1 := match s0.l2.get? line with
          | some l =>
            if l.slice == slice && l.way == way then s0.l2Lose line l else s0
          | none => s0
        let users := (s1.wayFills.get? (16 * slice + way)).getD []
        let all := decide (4 < users.length) || decide (16 - p.cfg.systemShare ≤ way)
        let hit := (s1.contexts.filter fun (x : Nat × Context) => x.2.part == pid && (all || users.contains x.1)).map fun x => x.1
        some (hit.foldl (fun s c => s.contain c errTag) s1)

/-- L2_TAG_PARITY_ERROR; nothing happens where it cannot occur (log 48). -/
def execL2TagParityError (slice way line : Nat) (s : State) : Out := s.occurs (onL2TagParityError slice way line s)

/-! ## Cluster and register errors (R281) -/

/-- CLUSTER_BANK_UNCORRECTABLE: every context that holds a bank in the cluster. -/
def onClusterBankUncorrectable (cl bank : Nat) (s : State) : Option State :=
  match (s.cluster? cl).bind fun c => if (c.banks[bank]?).isSome then some c else none with
  | none => none
  | some c => some ((dedup (c.banks.filterMap fun b => b.owner)).foldl (fun s x => s.contain x errBank) s)

/-- CLUSTER_BANK_UNCORRECTABLE; nothing happens where it cannot occur (log 48). -/
def execClusterBankUncorrectable (cl bank : Nat) (s : State) : Out := s.occurs (onClusterBankUncorrectable cl bank s)

/-- REGISTER_FILE_UNCORRECTABLE: the group's context. -/
def onRegisterFileUncorrectable (g : Nat) (s : State) : Option State :=
  match s.group? g with
  | none => none
  | some x => some (s.contextFault x.ctx x.trap errRegister)

/-- REGISTER_FILE_UNCORRECTABLE; nothing happens where it cannot occur (log 48). -/
def execRegisterFileUncorrectable (g : Nat) (s : State) : Out := s.occurs (onRegisterFileUncorrectable g s)

/-- An engine is reset (R284): matrix operations complete poisoned, copies and casts raise ENGINE. -/
def State.resetEngine (s : State) (e : Engine) : State :=
  match e with
  | .matrix cl => s.mature.resetMatrix cl
  | .copy cl => s.mature.resetCopy cl
  | .cast die => s.mature.resetCast die

/-- COPY_ENGINE_ERROR: of a copy or a casting engine. -/
def onCopyEngineError (e : Engine) (s : State) : Option State :=
  match e with
  | .matrix _ => none
  | e => some (s.resetEngine e)

/-- COPY_ENGINE_ERROR; nothing happens where it cannot occur (log 48). -/
def execCopyEngineError (e : Engine) (s : State) : Out := s.occurs (onCopyEngineError e s)

/-- CORRECTABLE_ERROR: counted, with no other effect. -/
def execCorrectableError (s : State) : Out :=
  .next { s with station := { s.station with correctable := s.station.correctable + 1 } }

/-! ## The station (R281) -/

/-- Quiesced queues run again (R296). -/
def SubQueue.resume (q : SubQueue) : SubQueue := if q.state == .quiesced then { q with state := .running } else q

def State.resumeQueues (s : State) : State :=
  { s with vfs := s.vfs.map fun (x : Nat × Vf) => (x.1, { x.2 with queues := x.2.queues.map SubQueue.resume }) }

/-- STATION_CORE_FAULT: the station restarts, all four cores with it, from its running slot; queues pause, programs run on, and so does the watchdog of an update
(R296). -/
def execStationCoreFault (s : State) : Out :=
  match s.station.mode with
  | .recovery | .restarting .. => .next s
  | .running | .noConfig => .next { s with station := { s.station with mode := .restarting s.now none, cores := stationCores none } }
  | .updating t => .next { s with station := { s.station with mode := .restarting s.now (some t), cores := stationCores none } }

/-- The firmware's state from the last handover record (R281, R296, log 75). -/
def Station.fromRecord (t : Station) : Station := { t with ide := t.handover.ide, kex := t.handover.kex }

/-! ## Ports (R283) -/

/-- The access goes to memory beyond the module through a port. -/
def State.usesPort (s : State) (port : Nat) (a : Acc) : Bool :=
  match a.tile with
  | none => false
  | some e =>
    let key := s.tileBase e a.va
    !inModule key && s.portTo key == some port

/-- An outstanding load through the port answers poisoned. -/
def State.cutLoad (s : State) (port : Nat) (f : Flight) : Flight :=
  if f.kind == .load then
    { f with accs := f.accs.map fun a => if !a.done && s.usesPort port a then a.answer (List.replicate f.size 0) (some a.key) else a }
  else f

def PeerLease.through (l : PeerLease) (s : State) (port : Nat) : Bool :=
  (((s.routes.get? l.peer).getD []).find? fun p => s.portUp p) == some port

def State.setPort (s : State) (port : Nat) (f : Port → Port) : State := { s with ports := modifyAt s.ports port f }

/-- The outstanding writes through a port: group and address, the first of each word (R283). -/
def State.writesThrough (s : State) (port : Nat) : List (Nat × Nat) :=
  s.flights.filterMap fun f =>
    if f.kind == .load then none
    else (f.accs.find? fun a => !a.done && s.usesPort port a).map fun a => (f.grp, a.va)

/-- A port goes down: outstanding loads return poisoned data, outstanding writes raise POISON at their group's next release, and the
translations through it end. -/
def State.portDown (s : State) (port : Nat) : State :=
  (s.writesThrough port).foldl (fun (s : State) w => s.loseWrite w.1 w.2)
    { s with
      flights := s.flights.map fun f => s.cutLoad port f
      peerLeases := s.peerLeases.filter fun l => !l.through s port
      peerGrants := s.peerGrants.filter fun l => !l.through s port }

/-- A port is reset and retrained; the third reset in one second marks it down. -/
def State.resetPort (s : State) (port : Nat) : State :=
  match s.ports[port]? with
  | none => s
  | some p =>
    if p.state == .down then s else
    let recent := s.now :: p.resets.filter fun t => decide (s.now < t + 1000000000)
    let down := decide (3 ≤ recent.length)
    (if down then s.portDown port else s).setPort port fun p =>
      { p with state := if down then .down else .retraining, replays := 0, resets := recent }

/-- LINK_CRC_ERROR: the flit is replayed; the 64th replay in one meter window resets the port. -/
def onLinkCrcError (port : Nat) (s : State) : Option State :=
  match s.ports[port]? with
  | none => none
  | some p =>
    if p.state != .up then none
    else
      let w := s.now / 2 ^ 20
      let n := (if p.window = w then p.replays else 0) + 1
      let s1 := s.setPort port fun p => { p with replays := n, window := w }
      some (if n < 64 then s1 else s1.resetPort port)

/-- LINK_CRC_ERROR; nothing happens where it cannot occur (log 48). -/
def execLinkCrcError (port : Nat) (s : State) : Out := s.occurs (onLinkCrcError port s)

/-- PORT_RETRAIN_DONE. -/
def onPortRetrainDone (port : Nat) (s : State) : Option State :=
  match s.ports[port]? with
  | none => none
  | some p => if p.state == .retraining then some (s.setPort port fun p => { p with state := .up }) else none

/-- PORT_RETRAIN_DONE; nothing happens where it cannot occur (log 48). -/
def execPortRetrainDone (port : Nat) (s : State) : Out := s.occurs (onPortRetrainDone port s)

/-- PORT_ENABLE: the host enables a port that is down; its resets are forgotten. -/
def execPortEnable (port : Nat) (s : State) : Out :=
  .next (s.setPort port fun p => if p.state == .down then { p with state := .up, resets := [] } else p)

/-- LINK_RESET (R284). -/
def onLinkReset (port : Nat) (s : State) : Option State :=
  if port < 19 then some (s.resetPort port) else none

/-- LINK_RESET; nothing happens where it cannot occur (log 48). -/
def execLinkReset (port : Nat) (s : State) : Out := s.occurs (onLinkReset port s)

/-! ## The bound of a retraining (R283, R494) -/

/-- A port that has retrained for 5 ms since its reset is up. -/
def Port.settle (p : Port) (now : Nat) : Port :=
  if p.state == .retraining && decide (p.resets.headD 0 + 5000000 ≤ now) then { p with state := .up } else p

/-- ENGINE_RESET (R284). -/
def execEngineReset (e : Engine) (s : State) : Out := .next (s.resetEngine e)

end Sys2Proof.Machine
end

