-- ==== Sys2Proof/Machine/Reset.lean ====
section
/-!
DEFINITION. Resets and wipes (R284 to R286), what the station starts from (R18, R293, R294), and row tables (R287).
-/
namespace Sys2Proof.Machine

/-! ## Starting (R293, R294) -/

/-- The bytes of an image that its signature covers: its versions and its body (R293, log 15). -/
def imageSigned (i : FwImage) : List Byte := leBytes 8 i.version ++ leBytes 8 i.securityVersion ++ i.body

/-- An image whose signature is right and whose security version is not below the counter (R293). -/
def imageOk (i : FwImage) (rollback : Nat) : Bool := Config.signatureOk 0 (imageSigned i) i.signature && decide (rollback ≤ i.securityVersion)

/-- The slot the ROM starts: the valid image with the higher version, A when they are equal (R293). -/
def Station.choose (t : Station) : Option Bool :=
  let ok := fun (i : Option FwImage) => i.filter fun i => imageOk i t.rollback
  match ok t.imageA, ok t.imageB with
  | some a, some b => some (decide (a.version < b.version))
  | some _, none => some false
  | none, some _ => some true
  | none, none => none

def Station.image (t : Station) (b : Bool) : Option FwImage := if b then t.imageB else t.imageA

/-- Bytes of the image in a slot (R293). -/
def Station.imageBody (t : Station) (b : Bool) : List Byte := ((t.image b).map fun i => i.body).getD []

/-- Digest of the image in a slot (R295). -/
def Station.digest (t : Station) (b : Bool) : List Byte := Config.sha256 (t.imageBody b)

/-- The station after ROM: RECOVERY without a valid image, no partitions without a valid block; a life-cycle move takes effect (R293, R294,
R298). -/
def Station.boot (t : Station) (config : Bool) : Station :=
  let t1 := { t with life := t.lifeNext.getD t.life, lifeNext := none, ide := none, kex := none, configOk := config, handover := ⟨1, none, none⟩ }
  match t1.choose with
  | none => { t1 with mode := .recovery, cores := stationCores none }
  | some b => { t1 with runB := b, mode := t1.settled, chain := [t1.imageBody b], cores := stationCores (some b) }

/-- No bit stands in two of the masks. -/
def disjointMasks : List DWord → Bool
  | [] => true
  | m :: ms => (ms.all fun k => m &&& k == 0) && disjointMasks ms

/-- The layout keeps R18, R159, R164, R256 and R257. -/
def ConfigBlock.layoutOk (b : ConfigBlock) : Bool :=
  let units := (b.parts.map fun p => p.units).flatten
  disjointMasks (b.parts.map (·.dranovMask)) && disjointMasks (b.parts.map (·.cxlMask)) &&
  units.length == 16 && (dedup units).length == 16 && units.all (fun u => decide (u < 16)) &&
    b.parts.all fun p => !p.units.isEmpty && decide (2 ≤ p.systemShare) && decide (p.systemShare ≤ 8) && decide (1024 ≤ p.manifestArea) &&
      decide (p.manifestArea ≤ 65536) && decide (50 ≤ p.allot) && decide (p.allot ≤ 3600) && decide (25 ≤ p.floor) && decide (p.floor ≤ p.allot)

/-- A partition's fields as bytes. -/
def PartCfg.bytes (p : PartCfg) : List Byte :=
  (p.units.length :: p.units ++ [p.systemShare, p.manifestArea, p.allot, p.floor, p.dranovMask.toNat, p.cxlMask.toNat]).flatMap (leBytes 8)

/-- The bytes of a configuration block that its signature covers (R294, log 15). -/
def ConfigBlock.signed (b : ConfigBlock) : List Byte :=
  b.parts.flatMap PartCfg.bytes ++ b.secureVfs.flatMap (leBytes 8) ++ b.body

/-- The block is signed under the key of the images and keeps the layout rules (R294). -/
def ConfigBlock.ok (b : ConfigBlock) : Bool := Config.signatureOk 0 b.signed b.signature && b.layoutOk

/-- The partitions of a block as they are latched, each with its units in ascending order (R18, R158, R209). -/
def ConfigBlock.latched (b : ConfigBlock) : List PartCfg := b.parts.map fun p => { p with units := sortBy (fun u => [u]) p.units }

/-! ## Device reset -/

/-- Everything of the part wiped, over some partitions; memory beyond it, the station and the host's side stay. -/
def State.cleared (s : State) (parts : List PartCfg) : State :=
  { State.reset with
    moduleNo := s.moduleNo, turns := s.turns, configBlock := s.configBlock, parts := parts.map Part.reset,
    mem := s.mem.filter fun c => decide (moduleSize ≤ c.1), poison := s.poison.filter fun c => decide (moduleSize ≤ 64 * c.1),
    station := s.station, pwrIdle := s.pwrIdle, outbox := s.outbox }

def doeConfigInvalid : Nat := 11

/-- An answer of the mailbox. -/
def State.answer (s : State) (kind : Nat) (bs : List Byte) : State := { s with outbox := s.outbox ++ [.doe kind bs] }

/-- STATION_BOOT: the station starts over a wiped part, and the partitions are latched from a configuration block; an invalid block is reported
(R18, R293, R294). -/
def State.stationBoot (s : State) (b : ConfigBlock) : State :=
  let t := s.station.boot b.ok
  let s1 := { s.cleared (if t.mode == .running then b.latched else []) with station := t, configBlock := b }
  if t.mode == .noConfig then s1.answer doeConfigInvalid [] else s1

/-- DEVICE_RESET: the part is wiped and the station boots, with a new configuration block where the host gives one (R18, R284, R285). -/
def execDeviceReset (block : Option ConfigBlock) (s : State) : Out := .next (s.stationBoot (block.getD s.configBlock))

/-! ## Wiping a range of memory (R285) -/

/-- Memory, lines and writes of the keys that a test names are gone, and the bytes read zero. -/
def State.wipeKeys (s : State) (hit : Nat → Bool) : State :=
  let line := fun (l : Nat) => hit (128 * l)
  { s with
    mem := s.mem.filter fun c => !hit c.1
    poison := s.poison.filter fun c => !hit (64 * c.1)
    homeLines := s.homeLines.filter fun h => !line h.1
    pending := s.pending.filter fun w => !hit w.key
    l2 := s.l2.filter fun l => !line l.1
    clusters := s.clusters.map fun (x : Nat × Cluster) => (x.1, { x.2 with lines := x.2.lines.filter fun l => !line l.line }) }

/-- Fetches and swap copies that a test names end; lanes parked on them execute again. -/
def State.dropTransfers (s : State) (f : Fetch → Bool) (w : Swap → Bool) : State :=
  let gone := (s.fetches.filter f).map fun x => x.id
  { s with
    fetches := s.fetches.filter fun x => !f x
    swaps := s.swaps.filter fun x => !w x
    groups := s.groups.map fun g => gone.foldl (fun (g : Group) i => g.fetched i s.ticks) g
    vfs := (s.fetches.filter f).foldl (fun (m : Map Vf) x =>
      match x.frame with
      | some a => m.modify x.vf fun v => { v with frames := v.frames ++ [(x.part, x.size, a)] }
      | none => m) s.vfs }

/-- Tuple requests that a test names are discarded; a path that still waits on one executes its word again. -/
def State.dropRequests (s : State) (r : TupleReq → Bool) : State :=
  let gone := (s.tupleReqs.filter r).map fun x => x.id
  { s with tupleReqs := s.tupleReqs.filter fun x => !r x }.wakeWhere fun _ w =>
    match w with
    | .tuple id => gone.contains id
    | _ => false

/-- Reduction partials on their way whose target a wipe takes are gone with it (R285). -/
def State.dropPartials (s : State) (hit : Acc → Bool) : State :=
  { s with flights := s.flights.filter fun f => f.grp != noGroup || !f.accs.any hit }

/-! ## Partition reset (R284) -/

/-- A cluster wiped: its pool, its cycle count and its cores in service stay. -/
def Cluster.wiped (c : Cluster) : Cluster :=
  { Cluster.reset c.id with pool := c.pool, moving := c.moving, epochs := c.epochs, cycBase := c.cycBase, cycTick := c.cycTick,
                            inService := c.inService, fastSince := c.fastSince }

/-- A partition's registers after its reset: those of power control and the allocator's times stay (R257, R263). The idle account is zero: no rule
says whether a partition reset clears it (DESIGN CHOICE, log 94). -/
def Part.wiped (p : Part) : Part :=
  { Part.reset p.cfg with eff := p.eff, meter := p.meter, duty := p.duty, ceil := p.ceil, nextAlloc := p.nextAlloc, grantsDue := p.grantsDue }

/-- PARTITION_RESET (R174, R185, R263, R284). -/
def execPartitionReset (part : Nat) (s : State) : Out :=
  s.command (.partitionReset part) <|
    match s.part? part with
    | none => .next s
    | some p =>
      let mine := (s.contexts.filter fun (x : Nat × Context) => x.2.part == part).map fun x => x.1
      let pidOf := fun (vf idx : Nat) => ((s.vf? vf).bind fun v => v.parts[idx]?) == some part
      let s1 := mine.foldl (fun s c => s.discardCtx c) s.mature
      let s2 := (s1.dropRequests fun r => r.part == part).dropTransfers (fun f => pidOf f.vf f.part) fun w => pidOf w.vf w.part
      let wiped := fun (k : Nat) => inModule k && p.cfg.units.contains (k / 2 ^ 36)
      let s3 := (s2.wipeKeys wiped).dropPartials fun a => match a.tile with
        | some e => s2.leafPart e == part
        | none => wiped a.key
      .next (({ s3 with
        peerGrants := s3.peerGrants.filter fun l => l.part != part
        manifests := s3.manifests.filter fun m => m.part != part
        tuples := s3.tuples.filter fun t => t.part != part
        tlb := s3.tlb.filter fun e => s3.leafPart e != part
        wayFills := s3.wayFills.filter fun w => !p.cfg.units.contains (w.1 / 64)
        l2 := s3.l2.filter fun l => !p.cfg.units.contains (l.2.slice / 4)
        depositSeq := s3.depositSeq.filter fun d => !p.cfg.units.contains (d.1 / 4)
        clusters := s3.clusters.map fun (x : Nat × Cluster) => if s3.clusterPart x.1 == some part then (x.1, x.2.wiped) else x }).modPart
          part Part.wiped)

/-! ## Row tables (R287) -/

/-- ROW_TABLE_REGISTER. -/
def execRowTableRegister (ctx va n : Nat) (s : State) : Out :=
  s.command (.rowTableRegister ctx va n) <| .next (s.modCtx ctx fun c => { c with rowTable := some (va, n) })

/-- RESET of one entry set where OWNER is the function, by an atomic OR at the entry's home; in a tile that is not resident it forces a fetch and
waits (R163, R230). Answers whether the entry is done, and from when the mark is visible. -/
def State.flagRow (s : State) (cid vf va : Nat) : State × Option Nat :=
  match s.mature.stationXlat cid true .atomic [(va % 2 ^ 64, 8)] with
  | (s1, .fault) => (s1, some 0)
  | (s1, .wait es) => ((s1.startFetches cid es).1, none)
  | (s1, .keys ks) =>
    match ks.head? with
    | none => (s1, some 0)
    | some (key, _) =>
      let s2 := s1.atHome (key / 128)
      let old := leNat (s2.latest.mem.bytes key 8)
      let t := s2.gwctOf (key / 128)
      if old % 512 == vf then (s2.accept key (leBytes 8 (old ||| 2 ^ 15)) t noGroup false .combined cid, some t) else (s2, some 0)

/-- A row-table entry is read and marked, or stays to be read. -/
def State.flagOne (s : State) (r : RowReset) (row : Nat × Nat) : State × RowReset :=
  match s.flagRow row.1 r.vf row.2 with
  | (s1, some t) => (s1, { r with visible := max r.visible t })
  | (s1, none) => (s1, { r with rows := r.rows ++ [row] })

/-- A reset goes on with its row tables: it is complete once every entry has been read and every mark is visible (R287). -/
def State.flagRows (s : State) (r : RowReset) : State :=
  let (s1, r1) := r.rows.foldl (fun (x : State × RowReset) row => x.1.flagOne x.2 row) (s, { r with rows := [] })
  let others := s1.rowResets.filter fun x => x.vf != r.vf
  if r1.rows.isEmpty && decide (r1.visible ≤ s1.now) then { s1 with rowResets := others, outbox := s1.outbox ++ [.vfResetDone r.vf] }
  else { s1 with rowResets := others ++ [r1] }

/-- The entries of every registered row table. -/
def State.allRows (s : State) : List (Nat × Nat) :=
  (s.contexts.map fun (x : Nat × Context) =>
    match x.2.rowTable with
    | some (va, n) => (List.range n).map fun i => (x.1, va + 8 * i)
    | none => []).flatten

/-- A reset that waits on row tables goes on, where it can (R287): no event of its own, but part of VF_RESET. -/
def onRowResetFlag (vf : Nat) (s : State) : Option State :=
  match s.rowResets.find? fun r => r.vf == vf with
  | none => none
  | some r =>
    let t := s.flagRows r
    if t.rowResets == s.rowResets then none else some t

/-! ## Virtual-function reset (R286) -/

def SubQueue.disable (q : SubQueue) : SubQueue := { q with enable := false, state := .disabled, cause := 0 }

/-- The key lies in one of a function's windows. -/
def State.inWindows (s : State) (v : Vf) (key : Nat) : Bool :=
  (v.parts.zip v.windows).any fun w =>
    match s.part? w.1 with
    | some p =>
      (match p.cfg.offsetOf key with
       | some o => inModule key && decide (w.2.1 ≤ o) && decide (o < w.2.1 + w.2.2)
       | none => false)
    | none => false

/-- VF_RESET (R286, R287): its contexts take a context fault and are discarded, with the function's requests, tuples and manifests; its queues
are DISABLED, SCOPE.MAX is 5, and its windows and the banks of its contexts are wiped. It has completed, as a report says, once the rows of the
function in every row table are marked and the marks visible. -/
def execVfReset (vf : Nat) (s : State) : Out :=
  match s.vf? vf with
  | none => .next s
  | some v =>
    let mine := (s.contexts.filter fun (x : Nat × Context) => x.2.vf == vf).map fun x => x.1
    let s0 := mine.foldl (fun s c => s.contextFault c TrapRegs.reset 0) s.mature
    let s1 := mine.foldl (fun s c => s.discardCtx c) s0
    let s2 := (s1.dropRequests fun r => r.vf == vf).dropTransfers (fun f => f.vf == vf) fun w => w.vf == vf
    let s3 := (s2.wipeKeys fun k => s2.inWindows v k).dropPartials fun a => match a.tile with
      | some e => e.vf == vf
      | none => s2.inWindows v a.key
    let s4 := ({ s3 with
      peerGrants := s3.peerGrants.filter fun l => l.vf != vf
      peerLeases := s3.peerLeases.filter fun l => l.vf != vf
      manifests := s3.manifests.filter fun m => m.vf != vf
      tuples := s3.tuples.filter fun t => t.vf != vf
      tlb := s3.tlb.filter fun e => e.vf != vf }).modVf vf fun v => { v with scopeMax := 5, queues := v.queues.map SubQueue.disable }
    .next (s4.flagRows { vf := vf, rows := s4.allRows, visible := 0 })

end Sys2Proof.Machine
end

