-- ==== Sys2Proof/Machine/Fabric.lean ====
section
/-!
DEFINITION. The host's CXL.mem accesses (R288, R297), the fabric's time (R188, R291), control flits, invalid flits and routes (R290, R292).
-/
namespace Sys2Proof.Machine

/-! ## CXL.mem (R288, R297) -/

/-- A key lies in a secure region (R297): in a window of a function of the secure world. The spec does not say whether a frame that leaves with NS = 0
map outside those windows counts: it does not (DESIGN CHOICE, log 95). Windows are multiples of 64 KiB, so that what holds of the first byte of a
run inside one holds of all. -/
def State.secureKey (s : State) (key : Nat) : Bool := s.vfs.any fun x => x.2.secure && s.inWindows x.2 key

/-- A host access that reaches nothing it may: a read returns poisoned data, a write is discarded, and the station logs it. -/
def State.denyCxl (s : State) (r : CxlReq) : State :=
  let s1 := { s with station := { s.station with logged := s.station.logged + 1 } }
  if r.write then s1 else { s1 with outbox := s1.outbox ++ [.cxlData r.vf (List.replicate r.len 0) ((granulePieces r.addr r.len).map fun _ => true)] }

/-- CXL_MEM_ACCESS: confined by the function's base and bound; a non-secure function reaches no secure region. -/
def onCxlMemAccess (r : CxlReq) (s : State) : Option State :=
  if !s.portUp 18 then none
  else
    match s.vf? r.vf with
    | none => some (s.denyCxl r)
    | some v =>
      let n := if r.write then r.data.length else r.len
      match s.confineRun v r.part r.addr n with
      | none => some (s.denyCxl r)
      | some rs =>
        if !v.secure && rs.any fun k => s.secureKey k.1 then some (s.denyCxl r)
        else if r.write then some (s.mature.homeWrites .clean rs r.data)
        else
          let (s1, bs, psn) := s.homeReads rs
          some { s1 with outbox := s1.outbox ++ [.cxlData r.vf bs psn] }

/-- CXL_MEM_ACCESS; nothing happens where it cannot occur (log 48). -/
def execCxlMemAccess (r : CxlReq) (s : State) : Out := s.occurs (onCxlMemAccess r s)

/-! ## Time (R188, R291) -/

/-- The same GTIME counted from the last whole µs on, with what it has still to lose: neither the part of a ns nor the part of a µs is lost
(R291). -/
def State.rebase (s : State) (lag : Nat) : State :=
  let k := (s.ticks - s.gTick) / 24 / 1000
  { s with gBase := s.gBase + 1000 * k - min s.gLag k, gTick := s.gTick + 24000 * k, gLag := lag }

/-- GTIME steered to a value: behind, it steps forward; ahead, it counts slower until it agrees. It never decreases. -/
def State.steer (s : State) (t : Nat) : State :=
  let n := s.now
  if n < t then { s with gBase := t, gTick := s.ticks - (s.ticks - s.gTick) % 24, gLag := 0 } else s.rebase (n - t)

/-- This module follows another one's time. -/
def State.follows (s : State) : Bool := (s.timeMaster.map fun m => m != s.moduleNo).getD false

/-- TIME_FLIT (kind 2): the master's GTIME as it was sent, and the measured delay of the path (R290, R291). The master itself sends one. -/
def onTimeFlit (m : TimeMsg) (s : State) : Option State :=
  if !s.linkUp then none
  else if s.timeMaster == some s.moduleNo then some { s with outbox := s.outbox ++ [.timeFlit s.now] }
  else if s.follows && !s.timeLost then some (s.steer (m.gtime + m.delay))
  else none

/-- TIME_FLIT; nothing happens where it cannot occur (log 48). -/
def execTimeFlit (m : TimeMsg) (s : State) : Out := s.occurs (onTimeFlit m s)

/-- TIME_MASTER_SELECT: the master's own GTIME is steered no longer. -/
def execTimeMasterSelect (mdl : Nat) (s : State) : Out :=
  s.command (.timeMasterSelect mdl) <| .next { (if mdl = s.moduleNo then s.rebase 0 else s) with timeMaster := some mdl, timeLost := false }

/-- TIME_MASTER_LOST: TIMELOST is set and GTIME runs free. -/
def onTimeMasterLost (s : State) : Option State := if s.follows then some { s.rebase 0 with timeLost := true } else none

/-- TIME_MASTER_LOST; nothing happens where it cannot occur (log 48). -/
def execTimeMasterLost (s : State) : Out := s.occurs (onTimeMasterLost s)

/-- TIME_RESYNC: the path has returned, with the master's GTIME and the delay of the path. -/
def onTimeResync (m : TimeMsg) (s : State) : Option State :=
  if s.linkUp && s.follows && s.timeLost then some ({ s with timeLost := false }.steer (m.gtime + m.delay)) else none

/-- TIME_RESYNC; nothing happens where it cannot occur (log 48). -/
def execTimeResync (m : TimeMsg) (s : State) : Out := s.occurs (onTimeResync m s)

/-! ## Flits and routes (R253, R290, R292) -/

/-- The target of another member: the latest write stands, of equal times the lower module's (R253). -/
def State.memberTarget (s : State) (ctx member at_ : Nat) (t : BitVec 16) : State :=
  match s.ctx? ctx with
  | none => s
  | some c =>
    if c.members.contains member then s.modCtx ctx fun c => c.writeTgt t at_ (member * 2 ^ 20) else s

/-- The members of a spanning context, as the stations agree on them once one has migrated; this module is one of them (R252, log 72). -/
def State.setMembers (s : State) (ctx : Nat) (ms : List Nat) : State :=
  s.modCtx ctx fun c => if !c.members.isEmpty && ms.contains s.moduleNo then { c with members := dedup ms } else c

/-- STATION_CONTROL_FLIT. -/
def onStationControlFlit (port : Nat) (m : StationMsg) (s : State) : Option State :=
  if !s.dranovUp port then none
  else
    match m with
    | .target ctx member at_ t => some (s.memberTarget ctx member at_ t)
    | .members ctx ms => some (s.setMembers ctx ms)
    | .other _ => some s

/-- STATION_CONTROL_FLIT; nothing happens where it cannot occur (log 48). -/
def execStationControlFlit (port : Nat) (m : StationMsg) (s : State) : Out := s.occurs (onStationControlFlit port m s)

/-- INVALID_FLIT: kinds 5 to 255 are dropped and counted in the port's error log. -/
def onInvalidFlit (port kind : Nat) (s : State) : Option State :=
  if decide (5 ≤ kind) && decide (kind < 256) && s.dranovUp port then some (s.setPort port fun p => { p with dropped := p.dropped + 1 })
  else none

/-- INVALID_FLIT; nothing happens where it cannot occur (log 48). -/
def execInvalidFlit (port kind : Nat) (s : State) : Out := s.occurs (onInvalidFlit port kind s)

/-- ROUTE_TABLE_LOAD: the ports of a peer number, in order. -/
def execRouteTableLoad (peer : Nat) (ports : List Nat) (s : State) : Out :=
  .next (if peer < 256 then { s with routes := s.routes.put peer (ports.filter fun p => decide (p < 18)) } else s)

end Sys2Proof.Machine
end

