-- ==== Sys2Proof/Machine/LaneCross.lean ====
section
/-!
DEFINITION. The cross-lane and lane-register words: SHFL and its kin, QSWZ, QSUM, BALLOT, LRD, LWR (R317, R374, R375, R394 to
R396, R407, R408).
-/
namespace Sys2Proof.Machine

/-- SHFL: lane i reads lane b(i) mod 32 (R407). -/
def execShfl (o : CrossR) : State → Out :=
  laneCross (formR ⟨false, o.nw, o.d, o.a, o.b⟩ regOnly) 4 fun src b _ => src (b.toNat % 32)

/-- SHFLX (R407). -/
def execShflx (o : CrossS) : State → Out :=
  laneCross (formA false o.nw o.d o.a regOnly) 4 fun src _ i => src (i ^^^ o.s.toNat)

/-- SHFLUP (R407). -/
def execShflup (o : CrossS) : State → Out :=
  laneCross (formA false o.nw o.d o.a regOnly) 4 fun src _ i => src (if o.s.toNat ≤ i then i - o.s.toNat else i)

/-- SHFLDN (R407). -/
def execShfldn (o : CrossS) : State → Out :=
  laneCross (formA false o.nw o.d o.a regOnly) 4 fun src _ i => src (if i + o.s.toNat ≤ 31 then i + o.s.toNat else i)

/-- QSWZ: xor with a mask, or broadcast of a quad lane (R395). -/
def execQswz (o : CrossQ) : State → Out :=
  laneCross (formA false o.nw o.d o.a regOnly) 4 fun src _ i =>
    src (if o.bcast then 4 * (i / 4) + o.l.toNat else i ^^^ o.l.toNat)

/-- The sum of a quad: ((x0 ⊕ x1) ⊕ (x2 ⊕ x3)) (R104). -/
def quadSum (f32 : Bool) (src : Nat → Word) (i : Nat) : Word :=
  let j := 4 * (i / 4)
  let op := if f32 then fadd else fun a b => a + b
  op (op (src j) (src (j + 1))) (op (src (j + 2)) (src (j + 3)))

/-- QSUM (R104, R394). -/
def execQsum (o : CrossSum) : State → Out :=
  laneCross (formA false o.nw o.d o.a regOnly) 4 fun src _ i => quadSum o.f32 src i

/-- The form of BALLOT and LRD: D a group field, A a vector field (R56). -/
def formGroupD (d a : BitVec 8) : Form :=
  { d := .gd d 1, a := .va a, b := .absent, accepts := regOnly, chain := false, uniSet := false, u := false, nw := false }

/-- BALLOT: a bit for each active lane that is not a helper and whose source is not zero (R317). -/
def execBallot (o : LaneBallot) (s : State) : Out :=
  s.word fun g slot p => do
    let r ← (formGroupD o.d o.a).operands g p
    let row ← queueCheck s g p.lanes r.a.queue? none
    let m := maskOf ((lanesOf (p.mask &&& ~~~g.helper)).filter fun i => r.laneSrc g row r.a i != 0)
    .ok ((s.queueEffect g p.mask r.a .absent fun _ => 0).finish (g.setG r.d.num m) slot 4)

/-- LRD: lane n of the source, active or not; 0 for an absent lane (R374). -/
def execLrd (o : LaneSel) (s : State) : Out :=
  s.word fun g slot p => do
    let r ← (formGroupD o.d o.a).operands g p
    let row ← queueCheck s g p.lanes r.a.queue? none
    let x := if g.present o.l.toNat then r.laneSrc g row r.a o.l.toNat else 0
    .ok ((s.queueEffect g p.mask r.a .absent fun _ => 0).finish (g.setG r.d.num x) slot 4)

/-- LWR: lane n of v[D], where it is not absent; to a queue, one row with the value in bytes 4n to 4n + 3 (R375). -/
def execLwr (o : LaneSel) (s : State) : Out :=
  s.word fun g slot p => do
    let f : Form := { d := .vd o.d 1, a := .a8 true o.a, b := .absent, accepts := regOnly, chain := false, uniSet := false,
                      u := false, nw := false }
    let r ← f.operands g p
    let _ ← queueCheck s g p.lanes none r.d.queue?
    let x := g.greg r.a.num
    let g1 := match r.d with
      | .v n => if g.present o.l.toNat then g.setV n o.l.toNat x else g
      | _ => g
    .ok ((s.queueEffect g (laneBit o.l.toNat) .absent r.d fun _ => x).finish g1 slot 4)

end Sys2Proof.Machine
end

