-- ==== Sys2Proof/Machine/Special.lean ====
section
/-!
DEFINITION. The special functions RSQ, EXP2, LOG2, SIN, COS and TANH (R87, R337, R338, R350, R373, R405, R411, R422).
The spec fixes some results and bounds the others: a free candidate is taken where it lies within the bound, and the
rounded value else (log 8). The value itself is computed in fixed point with 400 fraction bits.
-/
namespace Sys2Proof.Machine

/-- Fixed-point one. -/
def fx1 : Nat := 2 ^ 200 * 2 ^ 200

/-- π and ln 2 with 400 fraction bits, rounded down. -/
def fxPi : Nat :=
  0x3243f6a8885a308d313198a2e03707344a4093822299f31d0082efa98ec4e6c89452821e638d01377be5466cf34e90c6cc0ac
def fxLn2 : Nat :=
  0xb17217f7d1cf79abc9e3b39803f2f6af40f343267298b62d8a0d175b8baafa2be7b876206debac98559552fb4afa1b10ed2e

/-- The terms x^k / k! from the k-th on, added to a sum. -/
def expTerms : Nat → Nat → Nat → Nat → Nat → Nat
  | 0, _, _, _, acc => acc
  | f + 1, x, k, t, acc =>
    let t' := t * x / fx1 / k
    expTerms f x (k + 1) t' (acc + t')

/-- e^x in fixed point. -/
def fxExp (x : Nat) : Nat := expTerms 200 x 1 fx1 fx1

/-- The alternating terms of a sine or cosine: each is the last times x² / ((k + 1)(k + 2)). -/
def trigTerms : Nat → Nat → Nat → Int → Int → Int
  | 0, _, _, _, acc => acc
  | f + 1, x2, k, t, acc =>
    let t' : Int := -(t * x2 / fx1 / ((k + 1) * (k + 2) : Nat))
    trigTerms f x2 (k + 2) t' (acc + t')

/-- The remainder of n units of 2^-149 by 2π, in fixed point. -/
def fxReduce (n : Nat) : Nat := n * (fx1 / u1) % (2 * fxPi)

def fxSin (x : Nat) : Int := trigTerms 90 (x * x / fx1) 1 x x
def fxCos (x : Nat) : Int := trigTerms 90 (x * x / fx1) 0 fx1 fx1

/-- Bits of log2 of a fixed-point x in [1, 2), by repeated squaring. -/
def logBits : Nat → Nat → Nat → Nat
  | 0, _, acc => acc
  | f + 1, x, acc =>
    let y := x * x / fx1
    if 2 * fx1 ≤ y then logBits f (y / 2) (2 * acc + 1) else logBits f y (2 * acc)

/-- ulp(y) in units of 2^-149 for |y| = num / den, num ≠ 0 (R337). -/
def ulpUnits (num den : Nat) : Nat :=
  let k := log2Rat num den
  2 ^ ((if k < -126 then -126 else k) + 126).toNat

/-- The word lies within k ulp of ±num/den, less a margin of 2^-60 ulp for the fixed-point error, and within [−1, 1] where
asked (R337). -/
def withinUlp (k : Nat) (neg : Bool) (num den : Nat) (unitRange : Bool) (w : Word) : Bool :=
  match fpOf w with
  | .fin s n =>
    let r : Int := if s then -(n : Int) else n
    let y : Int := if neg then -(num : Int) else num
    let d := (r * den - y * u1).natAbs
    decide (d * 2 ^ 60 + ulpUnits num den * den ≤ k * ulpUnits num den * den * 2 ^ 60) &&
      (!unitRange || decide (n ≤ u1))
  | _ => false

/-- The free candidate of a function where it keeps the bound, else the rounded value, which passes 1 in magnitude nowhere where the function does
not (R87, log 8). -/
def bounded (fn : Nat) (input : Word) (k : Nat) (neg : Bool) (num den : Nat) (unitRange : Bool) : Word :=
  let c := Config.special fn input
  if num = 0 then signed neg 0
  else if withinUlp k neg num den unitRange c then c
  else
    let r := roundMag 23 num den
    signed neg (if unitRange then min r 0x3F800000 else r)

/-- RSQ: 1 / sqrt(a) within 1 ulp, exact at powers of four (R405). -/
def rsq (a : Word) : Word :=
  match fpOf a with
  | .nan => qNaN
  | .inf s => if s then qNaN else 0
  | .fin s n =>
    if n = 0 then signed s 0x7F800000
    else if s then qNaN
    else if n = 2 ^ n.log2 && n.log2 % 2 == 1 then signed false (sqrtMag u1 n)
    else bounded 0 a 1 false (floorSqrt (u1 * n)) n false

/-- EXP2: 2^a within 2 ulp, exact at integers (R350). -/
def exp2 (a : Word) : Word :=
  match fpOf a with
  | .nan => qNaN
  | .inf s => if s then 0 else 0x7F800000
  | .fin s n =>
    let k : Int := if s then -((n + u1 - 1) / u1 : Nat) else (n / u1 : Nat)
    let f := if s then (u1 - n % u1) % u1 else n % u1
    if 128 ≤ k then 0x7F800000
    else if k < -151 || (k == -151 && f == 0) then 0
    else
      let m := fxExp (f * (fx1 / u1) * fxLn2 / fx1)
      let num := if 0 ≤ k then m * 2 ^ k.toNat else m
      let den := if 0 ≤ k then fx1 else fx1 * 2 ^ (-k).toNat
      if f = 0 && -149 ≤ k then signed false (roundMag 23 num den) else bounded 1 a 2 false num den false

/-- LOG2 within 2 ulp, exact at powers of two (R373). -/
def log2f (a : Word) : Word :=
  match fpOf a with
  | .nan => qNaN
  | .inf s => if s then qNaN else a
  | .fin s n =>
    if n = 0 then 0xFF800000
    else if s then qNaN
    else
      let k : Int := (n.log2 : Int) - 149
      if n = 2 ^ n.log2 then signed (decide (k < 0)) (roundMag 23 k.natAbs 1)
      else
        let b := logBits 120 (n * fx1 / 2 ^ n.log2) 0
        let y : Int := k * 2 ^ 120 + b
        bounded 2 a 2 (decide (y < 0)) y.natAbs (2 ^ 120) false

/-- The bound of SIN and COS: 2 ulp up to the binary32 nearest to π, 4 above (R338, R411). -/
def trigBound (a : Word) : Nat := if field a 0 31 ≤ 0x40490FDB then 2 else 4

/-- SIN: odd, within [−1, 1] (R411). -/
def sinf (a : Word) : Word :=
  match fpOf a with
  | .nan => qNaN
  | .inf _ => qNaN
  | .fin s n =>
    if n = 0 then a
    else
      let y := fxSin (fxReduce n)
      let r := bounded 3 (signed false (field a 0 31)) (trigBound a) (decide (y < 0)) y.natAbs fx1 true
      if s then r ^^^ 0x80000000 else r

/-- COS within [−1, 1] (R338). -/
def cosf (a : Word) : Word :=
  match fpOf a with
  | .nan => qNaN
  | .inf _ => qNaN
  | .fin _ n =>
    if n = 0 then 0x3F800000
    else
      let y := fxCos (fxReduce n)
      bounded 4 a (trigBound a) (decide (y < 0)) y.natAbs fx1 true

/-- TANH: odd, within [−1, 1], within 2 ulp (R422). -/
def tanhf (a : Word) : Word :=
  match fpOf a with
  | .nan => qNaN
  | .inf s => signed s 0x3F800000
  | .fin s n =>
    if field a 0 31 ≤ 0x39800000 then a
    else if 10 * u1 ≤ n then signed s 0x3F800000
    else
      let e := fxExp (2 * n * (fx1 / u1))
      let r := bounded 5 (signed false (field a 0 31)) 2 false (e - fx1) (e + fx1) true
      if s then r ^^^ 0x80000000 else r

end Sys2Proof.Machine
end

