-- ==== Sys2Proof/Machine/LaneFloat.lean ====
section
/-!
DEFINITION. The lane-set floating-point words, the special functions, BF16, QNT8 and DQ8 (R84 to R95, R315, R326, R335, R338,
R346, R350 to R359, R373, R384, R392, R397, R404, R405, R411, R412, R422, R425).
-/
namespace Sys2Proof.Machine

/-- FNEG (R353). -/
def execFneg (o : LaneU) : State → Out := lane1 o 2 fneg

/-- FABS (R353). -/
def execFabs (o : LaneU) : State → Out := lane1 o 2 fabs

/-- F2I (R86, R352). -/
def execF2i (o : LaneU) : State → Out := lane1 o 2 (f2i .nearest)

/-- F2IZ (R86, R352). -/
def execF2iz (o : LaneU) : State → Out := lane1 o 2 (f2i .toZero)

/-- F2N (R86, R352). -/
def execF2n (o : LaneU) : State → Out := lane1 o 2 (f2n .nearest)

/-- F2NZ (R86, R352). -/
def execF2nz (o : LaneU) : State → Out := lane1 o 2 (f2n .toZero)

/-- I2F (R359). -/
def execI2f (o : LaneU) : State → Out := lane1 o 2 i2f

/-- N2F (R384). -/
def execN2f (o : LaneU) : State → Out := lane1 o 2 n2f

/-- F2BF (R351). -/
def execF2bf (o : LaneU) : State → Out := lane1 o 2 f2bf

/-- BF2F (R326). -/
def execBf2f (o : LaneU) : State → Out := lane1 o 2 bf2f

/-- BF2FH (R326). -/
def execBf2fh (o : LaneU) : State → Out := lane1 o 2 bf2fh

/-- RCP (R397). -/
def execRcp (o : LaneU) : State → Out := lane1 o 3 rcp

/-- RSQ (R405). -/
def execRsq (o : LaneU) : State → Out := lane1 o 3 rsq

/-- SQRT (R412). -/
def execSqrt (o : LaneU) : State → Out := lane1 o 3 fsqrt

/-- EXP2 (R350). -/
def execExp2 (o : LaneU) : State → Out := lane1 o 3 exp2

/-- LOG2 (R373). -/
def execLog2 (o : LaneU) : State → Out := lane1 o 3 log2f

/-- SIN (R411). -/
def execSin (o : LaneU) : State → Out := lane1 o 3 sinf

/-- COS (R338). -/
def execCos (o : LaneU) : State → Out := lane1 o 3 cosf

/-- TANH (R422). -/
def execTanh (o : LaneU) : State → Out := lane1 o 3 tanhf

/-- FLOOR (R335). -/
def execFloor (o : LaneU) : State → Out := lane1 o 2 (toIntegral .down)

/-- CEIL (R335). -/
def execCeil (o : LaneU) : State → Out := lane1 o 2 (toIntegral .up)

/-- TRUNC (R425). -/
def execTrunc (o : LaneU) : State → Out := lane1 o 2 (toIntegral .toZero)

/-- RINT (R404). -/
def execRint (o : LaneU) : State → Out := lane1 o 2 (toIntegral .nearest)

/-- FADD (R354). -/
def execFadd (o : LaneR) : State → Out := lane2 o 2 fadd

/-- FSUB (R354). -/
def execFsub (o : LaneR) : State → Out := lane2 o 2 fsub

/-- FMUL (R354). -/
def execFmul (o : LaneR) : State → Out := lane2 o 2 fmul

/-- FFMA (R357). -/
def execFfma (o : LaneR) : State → Out := lane3 o 2 ffma

/-- FMIN (R358). -/
def execFmin (o : LaneR) : State → Out := lane2 o 2 fmin

/-- FMAX (R358). -/
def execFmax (o : LaneR) : State → Out := lane2 o 2 fmax

/-- FCMPEQ (R355). -/
def execFcmpeq (o : LaneR) : State → Out := lane2 o 2 (fun a b => boolWord (fcmpEq a b))

/-- FCMPLT (R355). -/
def execFcmplt (o : LaneR) : State → Out := lane2 o 2 (fun a b => boolWord (fcmpLt a b))

/-- FCMPLE (R355). -/
def execFcmple (o : LaneR) : State → Out := lane2 o 2 (fun a b => boolWord (fcmpLe a b))

/-- FCMPUN (R355). -/
def execFcmpun (o : LaneR) : State → Out := lane2 o 2 (fun a b => boolWord (fcmpUn a b))

/-- BADD2 (R315). -/
def execBadd2 (o : LaneR) : State → Out := lane2 o 2 badd2

/-- BMUL2 (R315). -/
def execBmul2 (o : LaneR) : State → Out := lane2 o 2 bmul2

/-- BFMA2 (R315). -/
def execBfma2 (o : LaneR) : State → Out := lane3 o 2 bfma2

/-- BDOT2 (R315). -/
def execBdot2 (o : LaneR) : State → Out := lane3 o 2 bdot2

/-- DQ8 (R346). -/
def execDq8 (o : LaneU) : State → Out := lane1 o 2 dq8

/-- The scale group size of QNT8: 32, or an IMM prefix of 8, 16 or 32 (R67). -/
def qnt8Size (ps : Prefixes) : Nat := (ps.imm.map fun v => v.toNat).getD 32
def qnt8Ok (ps : Prefixes) : Bool := qnt8Size ps == 8 || qnt8Size ps == 16 || qnt8Size ps == 32

/-- QNT8 (R95, R392). -/
def execQnt8 (o : CrossR) (s : State) : Out :=
  s.word fun g slot p => do
    let f := formR ⟨false, o.nw, o.d, o.a, o.b⟩ regImm
    let r ← f.operands g p qnt8Ok
    let row ← queueCheck s g p.lanes r.a.queue? r.d.queue?
    .ok (s.laneResult g slot p r o.nw 2
      (qnt8Lanes (qnt8Size r.ps) p.mask (r.laneSrc g row r.a) (r.laneSrc g row r.b)))

end Sys2Proof.Machine
end

