-- ==== Sys2Proof/Machine/Station.lean ====
section
/-!
DEFINITION. The station behind its mailbox (R293 to R298): images, measurements and sessions, the live update, the anti-rollback counter, the
life cycle; and register writes of the host without a row of their own (R5, R218, R220, R257, R262).
-/
namespace Sys2Proof.Machine

/-! ## What the mailbox answers to (R293, R298) -/

/-- Kinds of answer in the outbox. -/
def doeVerified : Nat := 0
def doeMeasurements : Nat := 1
def doeChallenge : Nat := 2
def doeKex : Nat := 3
def doeFinish : Nat := 4
def doeVersion : Nat := 5
def doeVerifyFailed : Nat := 6
def doeRolledBack : Nat := 7
def doeUpdated : Nat := 8
def doeCounter : Nat := 9
def doeLife : Nat := 10

/-- The identity key of a life-cycle state (R298). -/
inductive IdentityKey where
  | notFused
  | fused
  | inUse
  | destroyed
deriving DecidableEq, Repr

def LifeCycle.identityKey (l : LifeCycle) : IdentityKey :=
  match l with
  | .manufacture => .notFused
  | .provisioned => .fused
  | .deployed => .inUse
  | .returned => .destroyed

/-- Debug access of a life-cycle state (R298): open, or closed. What it opens is not in the spec. -/
def LifeCycle.debugOpen (l : LifeCycle) : Bool := l == .manufacture || l == .returned

/-- The part can sign an answer: it has its identity key (R295, R298). -/
def LifeCycle.canSign (l : LifeCycle) : Bool := l.identityKey == .fused || l.identityKey == .inUse

/-- The station answers signed SPDM requests: in RECOVERY it answers nothing but an image (R293), and without an identity key it signs nothing
(R298, log 76). -/
def State.speaks (s : State) : Bool := s.station.mode != .recovery && s.station.life.canSign

/-- A signed SPDM answer (R295). -/
def State.spdm (s : State) (kind : Nat) (bs : List Byte) : Out := .next (if s.speaks then s.answer kind bs else s)

/-- A flag as one byte. -/
def flagByte (b : Bool) : List Byte := [if b then 1 else 0]

/-- DOE_IMAGE_LOAD: into the slot that is not running, or in RECOVERY into either; the answer says whether the image verifies (R293). In RECOVERY
a valid image then boots. While no image is in charge the command waits: during an update the old image stays resident (R296). -/
def execDoeImageLoad (slotB : Bool) (img : FwImage) (s : State) : Out :=
  let t := s.station
  let ok := imageOk img t.rollback
  let t1 := if slotB then { t with imageB := some img } else { t with imageA := some img }
  let s1 := { s with station := t1 }.answer doeVerified (flagByte ok)
  if t.mode == .recovery then .next (if ok then s1.stationBoot s1.configBlock else s1)
  else s.command (.doeImageLoad slotB img) (.next (if t.runB == slotB then s else s1))

/-! ## Measurements and sessions (R295) -/

def LifeCycle.code (l : LifeCycle) : Byte :=
  match l with
  | .manufacture => 0
  | .provisioned => 1
  | .deployed => 2
  | .returned => 3

/-- Measurement 5: the digest of the booted image, extended by each image started since (R295). -/
def Station.updateChain (t : Station) : List Byte :=
  match t.chain with
  | [] => []
  | b :: bs => bs.foldl (fun old body => Config.sha256 (old ++ Config.sha256 body)) (Config.sha256 b)

/-- Measurements 1 to 5. -/
def State.measurements (s : State) : List Byte :=
  Config.romDigest ++ s.station.digest s.station.runB ++ Config.sha256 s.configBlock.signed ++ Config.sha256 [s.station.life.code] ++
    s.station.updateChain

/-- Bytes with the part's signature over them. -/
def sealed (bs : List Byte) : List Byte := bs ++ Config.deviceSign bs

/-- GET_MEASUREMENTS. -/
def execGetMeasurements (s : State) : Out := s.spdm doeMeasurements (sealed s.measurements)

/-- CHALLENGE. -/
def execChallenge (nonce : List Byte) (s : State) : Out := s.spdm doeChallenge (sealed (s.measurements ++ nonce))

/-- KEY_EXCHANGE: keys wait for FINISH. -/
def execKeyExchange (req : List Byte) (s : State) : Out :=
  let k := Config.keyExchange req
  .next (if s.speaks then { s with station := { s.station with kex := some k } }.answer doeKex (sealed k) else s)

/-- FINISH sets the IDE keys of a key exchange. -/
def execFinish (req : List Byte) (s : State) : Out :=
  match s.station.kex with
  | none => .next s
  | some k =>
    .next (if s.speaks then { s with station := { s.station with ide := some k, kex := none } }.answer doeFinish (sealed req) else s)

/-- GET_VERSION. -/
def execGetVersion (s : State) : Out := .next (if s.station.mode == .recovery then s else s.answer doeVersion [])

/-! ## Live update (R296) -/

def SubQueue.quiesce (q : SubQueue) : SubQueue := if q.state == .running then { q with state := .quiesced } else q

def State.quiesceQueues (s : State) : State :=
  { s with vfs := s.vfs.map fun (x : Nat × Vf) => (x.1, { x.2 with queues := x.2.queues.map SubQueue.quiesce }) }

/-- The image in a slot is started, which extends measurement 5 by its digest (R295). -/
def Station.extend (t : Station) (b : Bool) : Station := { t with chain := t.chain ++ [t.imageBody b] }

/-- The handover record that the station writes (R296, log 75). -/
def Station.record (t : Station) : Station := { t with handover := ⟨1, t.ide, t.kex⟩ }

/-- FIRMWARE_UPDATE: steps 1 to 4 with the image in the idle slot, which the four cores run from then on; a bad one ends the update, and the queues run again. -/
def execFirmwareUpdate (s : State) : Out :=
  s.command .firmwareUpdate <|
    let t := s.station
    let b := !t.runB
    if ((t.image b).map fun i => imageOk i t.rollback).getD false then
      .next { s.quiesceQueues with
        station := { (t.extend b).record with runB := b, mode := .updating (s.now + 10000000), cores := stationCores (some b) } }
    else .next (s.answer doeVerifyFailed [])

/-- ANTI_ROLLBACK_UPDATE: a signed command; the counter never falls. -/
def execAntiRollbackUpdate (version : Nat) (signature : List Byte) (s : State) : Out :=
  s.command (.antiRollbackUpdate version signature) <|
    if Config.signatureOk 0 (leBytes 8 version) signature && decide (s.station.rollback ≤ version) then
      .next ({ s with station := { s.station with rollback := version } }.answer doeCounter (flagByte true))
    else .next (s.answer doeCounter (flagByte false))

/-! ## Life cycle (R285, R298) -/

def LifeCycle.next (l : LifeCycle) : Option LifeCycle :=
  match l with
  | .manufacture => some .provisioned
  | .provisioned => some .deployed
  | .deployed => some .returned
  | .returned => none

/-- LIFECYCLE_ADVANCE: a signed move is fused and the part wiped; it takes effect at the device reset that follows. -/
def execLifecycleAdvance (signature : List Byte) (s : State) : Out :=
  s.command (.lifecycleAdvance signature) <|
    match s.station.life.next with
    | none => .next (s.answer doeLife (flagByte false))
    | some l =>
      if Config.signatureOk 2 [l.code] signature then
        .next (({ s.cleared (s.parts.map fun (p : Part) => p.cfg) with
          station := { s.station with lifeNext := some l }, ticks := s.ticks, gBase := s.gBase, gTick := s.gTick, gLag := s.gLag }).answer
            doeLife (flagByte true))
      else .next (s.answer doeLife (flagByte false))

/-! ## Commands that have waited (R281, R293, R296) -/

/-- The meaning of a host command. -/
def HostCmd.exec (c : HostCmd) (s : State) : Out :=
  match c with
  | .framePoolAdd r => execFramePoolAdd r s
  | .swapOut r => execSwapOut r s
  | .scopeMaxSet vf v => execScopeMaxSet vf v s
  | .leaseLengthSet part ns => execLeaseLengthSet part ns s
  | .bankAllocate cl b ctx m => execBankAllocate cl b ctx m s
  | .tupleRegionRegister vf b n => execTupleRegionRegister vf b n s
  | .loopParamsSet ctx p => execLoopParamsSet ctx p s
  | .contextCreate r => execContextCreate r s
  | .contextRestore ctx part => execContextRestore ctx part s
  | .contextDestroy ctx => execContextDestroy ctx s
  | .vpsTableWrite vf n f m => execVpsTableWrite vf n f m s
  | .energyWeightSet part ws => execEnergyWeightSet part ws s
  | .energyCounterClear ctx => execEnergyCounterClear ctx s
  | .idleAccountClear part => execIdleAccountClear part s
  | .shootdown vf ctx lo hi => execShootdown vf ctx lo hi s
  | .baseBoundSet vf part b n => execBaseBoundSet vf part b n s
  | .partitionReset part => execPartitionReset part s
  | .rowTableRegister ctx va n => execRowTableRegister ctx va n s
  | .timeMasterSelect m => execTimeMasterSelect m s
  | .firmwareUpdate => execFirmwareUpdate s
  | .antiRollbackUpdate v sig => execAntiRollbackUpdate v sig s
  | .doeImageLoad b img => execDoeImageLoad b img s
  | .lifecycleAdvance sig => execLifecycleAdvance sig s

/-- What a command waits for besides an image in charge: a new pair of BASE and BOUND, for the sources of the peer translations that it recalls
(R214); a restore that moves the context to another partition, for a background copy engine (R275). -/
def HostCmd.waits (c : HostCmd) (s : State) : Bool :=
  match c with
  | .baseBoundSet vf part _ _ => s.lends vf part
  | .contextRestore ctx part => s.needsEngine ctx part
  | _ => false

/-- The command whose turn it is once an image is in charge: the first of those that have waited and need wait no more. It has its effect before
anything else happens. -/
def State.heldNext (s : State) : Option HostCmd := if s.station.inCharge then s.held.find? fun c => !c.waits s else none

/-! ## An image takes charge (R281, R296) -/

/-- FIRMWARE_HEARTBEAT: within 10 ms of its start the new image takes over. -/
def onFirmwareHeartbeat (s : State) : Option State :=
  match s.station.mode with
  | .updating t =>
    if s.now ≤ t then some (({ s with station := { s.station with mode := s.station.settled } }.resumeQueues).answer doeUpdated [])
    else none
  | _ => none

/-- FIRMWARE_HEARTBEAT; nothing happens where it cannot occur (log 48). -/
def execFirmwareHeartbeat (s : State) : Out := s.occurs (onFirmwareHeartbeat s)

/-- The time of the watchdog of an update that is not over (R296). -/
def StationMode.watchdog (m : StationMode) : Option Nat :=
  match m with
  | .updating t => some t
  | .restarting _ w => w
  | _ => none

/-- FIRMWARE_WATCHDOG_EXPIRY: the old image resumes from the handover record, and measurement 5 is extended with its digest. -/
def onFirmwareWatchdogExpiry (s : State) : Option State :=
  match s.station.mode.watchdog with
  | some t =>
    if t ≤ s.now then
      let b := !s.station.runB
      let t := { s.station.fromRecord.extend b with runB := b, mode := s.station.settled, cores := stationCores (some b) }
      some (({ s with station := t }.resumeQueues).answer doeRolledBack [])
    else none
  | none => none

/-- FIRMWARE_WATCHDOG_EXPIRY; nothing happens where it cannot occur (log 48). -/
def execFirmwareWatchdogExpiry (s : State) : Out := s.occurs (onFirmwareWatchdogExpiry s)

/-- The station as its cores start the running image again, with the state of the last handover record (R281). -/
def Station.restarted (t : Station) : Station := { t.fromRecord with cores := stationCores (some t.runB) }

/-- STATION_RESTART_COMPLETE: within 50 ms. An update that is not over still waits for its heartbeat. -/
def onStationRestartComplete (s : State) : Option State :=
  match s.station.mode with
  | .restarting _ none => some { s with station := { s.station.restarted with mode := s.station.settled } }.resumeQueues
  | .restarting _ (some t) => some { s with station := { s.station.restarted with mode := .updating t } }
  | _ => none

/-- STATION_RESTART_COMPLETE; nothing happens where it cannot occur (log 48). -/
def execStationRestartComplete (s : State) : Out := s.occurs (onStationRestartComplete s)

/-! ## Register writes (R5, R218, R220, R262) -/

/-- SQ.BASE: ADDR in bits 47:8 and PART in bits 51:48; the other bits are ignored on a write and read zero (R5, R220). -/
def SubQueue.writeBase (q : SubQueue) (v : DWord) : SubQueue := { q with addr := v.extractLsb' 8 40, part := v.extractLsb' 48 4 }
def SubQueue.base (q : SubQueue) : DWord := BitVec.ofNat 64 (q.addr.toNat * 2 ^ 8 + q.part.toNat * 2 ^ 48)

def SqState.code (s : SqState) : Nat :=
  match s with
  | .disabled => 0
  | .running => 1
  | .error => 2
  | .quiesced => 3

/-- The registers of a submission queue by their offset in its 64 bytes (R289), each register's bits from there on: SQ.BASE and SQ.REJ hold 64
bits. The spec names no width of an access and no offset within a register: only the starts of its 32-bit halves hold something, another offset
reads zero and ignores a write (DESIGN CHOICE, log 97). -/
def SubQueue.window (q : SubQueue) (off : Nat) : DWord :=
  let low := fun (w : Word) => BitVec.ofNat 64 w.toNat
  match off with
  | 0x00 => q.base
  | 0x04 => q.base >>> 32
  | 0x08 => BitVec.ofNat 64 (q.size.toNat + flagAt q.enable 31)
  | 0x0C => BitVec.ofNat 64 q.wr.toNat
  | 0x10 => BitVec.ofNat 64 q.rd.toNat
  | 0x14 => BitVec.ofNat 64 (q.state.code + q.cause.toNat * 4 + flagAt q.bmFault 6)
  | 0x18 => low q.seq
  | 0x20 => BitVec.ofNat 64 (q.rejSeq.toNat + q.reason.toNat * 2 ^ 32)
  | 0x24 => BitVec.ofNat 64 q.reason.toNat
  | 0x28 => low q.done
  | _ => 0

/-- A host read of a function's register window: an offset that no register holds reads zero (R289). -/
def State.windowRead (s : State) (vf off : Nat) : DWord :=
  ((((s.vf? vf).bind fun v => v.queue? (off / 64)).filter fun _ => decide (off < 1024)).map fun q => q.window (off % 64)).getD 0

/-- The answer to a host read (R289). -/
def State.hostRead (s : State) (vf off : Nat) : State := { s with outbox := s.outbox ++ [.hostData vf off (s.windowRead vf off)] }

/-! ## Registers of the station (R5, R218, R257, R262) -/

/-- A partition's register, where the partition exists. -/
def State.partReg (s : State) (part : Nat) (f : Part → Nat) : DWord := BitVec.ofNat 64 (((s.part? part).map f).getD 0)

/-- The value of a register of the station: FB.REPLY is written only and reads zero; HELD counts the records in holding slots (R5, R218,
R257). -/
def State.stationValue (s : State) (r : StationReg) : DWord :=
  match r with
  | .fbHead p => s.partReg p fun x => x.fbHead.toNat
  | .fbTail p => s.partReg p fun x => x.fbTail.toNat
  | .fbStatus p => s.partReg p fun x => flagAt x.fbOverflow 0 + flagAt x.fbStale 1 + x.fbHeld.length % 2 ^ 15 * 2 ^ 16
  | .fbReply _ => 0
  | .fbRecord p i k => s.partReg p fun x => ((x.recordAt (i % 4096)).extractLsb' (64 * (k % 4)) 64).toNat
  | .pwrAllot p => s.partReg p fun x => x.cfg.allot
  | .pwrFloor p => s.partReg p fun x => x.cfg.floor
  | .pwrEff p => s.partReg p fun x => x.eff
  | .pwrMeter p => s.partReg p fun x => x.meter
  | .pwrThr p => s.partReg p fun x => x.duty + x.ceil * 2 ^ 8
  | .pwrCap => BitVec.ofNat 64 s.pwrCap
  | .pwrIdle => BitVec.ofNat 64 s.pwrIdle
  | .pwrUncore => BitVec.ofNat 64 s.pwrUncore
  | .pwrStatus => BitVec.ofNat 64 (flagAt s.capBelowFloors 0 + flagAt s.capUnreachable 1)
  | .idleAccount p => s.partReg p fun x => x.idle.toNat
  | .image c i => s.imageWord c i

/-- The answer to a host read of one: a read has no other effect (R5). -/
def State.stationRead (s : State) (r : StationReg) : State := { s with outbox := s.outbox ++ [.stationData r (s.stationValue r)] }

/-- A host write at an offset of a function's register window (R220, R289): SQ.CTL gives SIZE, and ENABLE turns the queue on or off; SQ.WR is the
doorbell; a write elsewhere changes nothing but the W1C flag. -/
def State.windowWrite (s : State) (vf off : Nat) (v : DWord) : Out :=
  if 1024 ≤ off then .next s
  else
    let q := off / 64
    let now := (((s.vf? vf).bind fun x => x.queue? q).map fun x => x.enable).getD false
    match off % 64 with
    | 0x00 => .next (s.modQueue vf q fun x => x.writeBase v)
    | 0x04 => .next (s.modQueue vf q fun x => x.writeBase (x.base &&& 0xFFFFFFFF ||| v <<< 32))
    | 0x08 =>
      let s1 := s.modQueue vf q fun x => { x with size := v.extractLsb' 0 17 }
      if v.getLsbD 31 then (if now then .next s1 else execSqEnable vf q s1) else if now then execSqDisable vf q s1 else .next s1
    | 0x0C => execSqDoorbell vf q (v.extractLsb' 0 16) s
    | 0x14 => .next (s.modQueue vf q fun x => { x with bmFault := x.bmFault && !v.getLsbD 6 })
    | _ => .next s

/-- REGISTER_WRITE: a read-only field is left as it is, a bit written 1 clears a W1C flag, and an offset that no register holds ignores the
write (R5, R289). -/
def execRegisterWrite (r : HostReg) (s : State) : Out :=
  match r with
  | .sqBase vf q v => .next (s.modQueue vf q fun x => x.writeBase v)
  | .sqCtlSize vf q v => .next (s.modQueue vf q fun x => { x with size := v })
  | .sqStatusW1C vf q v => .next (s.modQueue vf q fun x => { x with bmFault := x.bmFault && !v.getLsbD 6 })
  | .fbStatusW1C part v =>
    .next (s.modPart part fun p => { p with fbOverflow := p.fbOverflow && !v.getLsbD 0, fbStale := p.fbStale && !v.getLsbD 1 })
  | .fbValidW1C part index => .next (s.modPart part fun p => { p with fbRecords := p.fbRecords.modify index fun r => { r with valid := false } })
  | .pwrStatusW1C v =>
    .next { s with capBelowFloors := s.capBelowFloors && !v.getLsbD 0, capUnreachable := s.capUnreachable && !v.getLsbD 1 }
  | .window vf off v => s.windowWrite vf off v
  | .sqReadOnly .. | .fbReadOnly .. | .pwrReadOnly .. | .unlisted .. => .next s

end Sys2Proof.Machine
end

