-- ==== Sys2Proof/Machine/Dispatch.lean ====
section
/-!
DEFINITION. Dispatch: one arm per instruction or event, each a direct call of its meaning.
-/
namespace Sys2Proof.Machine

/-- The meaning of an instruction or event. -/
def exec (i : Instr) (s : State) : Host.Outcome State Fault Refusal :=
  match i with
  | .iadd o => Sys2Proof.Machine.execIadd o s
  | .isub o => Sys2Proof.Machine.execIsub o s
  | .iaddi o => Sys2Proof.Machine.execIaddi o s
  | .imul o => Sys2Proof.Machine.execImul o s
  | .imulhs o => Sys2Proof.Machine.execImulhs o s
  | .imulhn o => Sys2Proof.Machine.execImulhn o s
  | .imad o => Sys2Proof.Machine.execImad o s
  | .qmul o => Sys2Proof.Machine.execQmul o s
  | .and o => Sys2Proof.Machine.execAnd o s
  | .or o => Sys2Proof.Machine.execOr o s
  | .xor o => Sys2Proof.Machine.execXor o s
  | .andn o => Sys2Proof.Machine.execAndn o s
  | .shl o => Sys2Proof.Machine.execShl o s
  | .shr o => Sys2Proof.Machine.execShr o s
  | .sra o => Sys2Proof.Machine.execSra o s
  | .shli o => Sys2Proof.Machine.execShli o s
  | .shri o => Sys2Proof.Machine.execShri o s
  | .srai o => Sys2Proof.Machine.execSrai o s
  | .rotli o => Sys2Proof.Machine.execRotli o s
  | .imins o => Sys2Proof.Machine.execImins o s
  | .imaxs o => Sys2Proof.Machine.execImaxs o s
  | .iminn o => Sys2Proof.Machine.execIminn o s
  | .imaxn o => Sys2Proof.Machine.execImaxn o s
  | .icmpeq o => Sys2Proof.Machine.execIcmpeq o s
  | .icmpne o => Sys2Proof.Machine.execIcmpne o s
  | .icmplt o => Sys2Proof.Machine.execIcmplt o s
  | .icmple o => Sys2Proof.Machine.execIcmple o s
  | .icmpltn o => Sys2Proof.Machine.execIcmpltn o s
  | .icmplen o => Sys2Proof.Machine.execIcmplen o s
  | .sel o => Sys2Proof.Machine.execSel o s
  | .mov o => Sys2Proof.Machine.execMov o s
  | .neg o => Sys2Proof.Machine.execNeg o s
  | .not o => Sys2Proof.Machine.execNot o s
  | .abs o => Sys2Proof.Machine.execAbs o s
  | .clz o => Sys2Proof.Machine.execClz o s
  | .popc o => Sys2Proof.Machine.execPopc o s
  | .brev o => Sys2Proof.Machine.execBrev o s
  | .lid o => Sys2Proof.Machine.execLid o s
  | .fneg o => Sys2Proof.Machine.execFneg o s
  | .fabs o => Sys2Proof.Machine.execFabs o s
  | .f2i o => Sys2Proof.Machine.execF2i o s
  | .f2iz o => Sys2Proof.Machine.execF2iz o s
  | .f2n o => Sys2Proof.Machine.execF2n o s
  | .f2nz o => Sys2Proof.Machine.execF2nz o s
  | .i2f o => Sys2Proof.Machine.execI2f o s
  | .n2f o => Sys2Proof.Machine.execN2f o s
  | .f2bf o => Sys2Proof.Machine.execF2bf o s
  | .bf2f o => Sys2Proof.Machine.execBf2f o s
  | .bf2fh o => Sys2Proof.Machine.execBf2fh o s
  | .rcp o => Sys2Proof.Machine.execRcp o s
  | .rsq o => Sys2Proof.Machine.execRsq o s
  | .sqrt o => Sys2Proof.Machine.execSqrt o s
  | .exp2 o => Sys2Proof.Machine.execExp2 o s
  | .log2 o => Sys2Proof.Machine.execLog2 o s
  | .sin o => Sys2Proof.Machine.execSin o s
  | .cos o => Sys2Proof.Machine.execCos o s
  | .tanh o => Sys2Proof.Machine.execTanh o s
  | .floor o => Sys2Proof.Machine.execFloor o s
  | .ceil o => Sys2Proof.Machine.execCeil o s
  | .trunc o => Sys2Proof.Machine.execTrunc o s
  | .rint o => Sys2Proof.Machine.execRint o s
  | .fadd o => Sys2Proof.Machine.execFadd o s
  | .fsub o => Sys2Proof.Machine.execFsub o s
  | .fmul o => Sys2Proof.Machine.execFmul o s
  | .ffma o => Sys2Proof.Machine.execFfma o s
  | .fmin o => Sys2Proof.Machine.execFmin o s
  | .fmax o => Sys2Proof.Machine.execFmax o s
  | .fcmpeq o => Sys2Proof.Machine.execFcmpeq o s
  | .fcmplt o => Sys2Proof.Machine.execFcmplt o s
  | .fcmple o => Sys2Proof.Machine.execFcmple o s
  | .fcmpun o => Sys2Proof.Machine.execFcmpun o s
  | .badd2 o => Sys2Proof.Machine.execBadd2 o s
  | .bmul2 o => Sys2Proof.Machine.execBmul2 o s
  | .bfma2 o => Sys2Proof.Machine.execBfma2 o s
  | .bdot2 o => Sys2Proof.Machine.execBdot2 o s
  | .shfl o => Sys2Proof.Machine.execShfl o s
  | .shflx o => Sys2Proof.Machine.execShflx o s
  | .shflup o => Sys2Proof.Machine.execShflup o s
  | .shfldn o => Sys2Proof.Machine.execShfldn o s
  | .qswz o => Sys2Proof.Machine.execQswz o s
  | .qsum o => Sys2Proof.Machine.execQsum o s
  | .ballot o => Sys2Proof.Machine.execBallot o s
  | .lrd o => Sys2Proof.Machine.execLrd o s
  | .lwr o => Sys2Proof.Machine.execLwr o s
  | .qnt8 o => Sys2Proof.Machine.execQnt8 o s
  | .dq8 o => Sys2Proof.Machine.execDq8 o s
  | .bperm o => Sys2Proof.Machine.execBperm o s
  | .trw o => Sys2Proof.Machine.execTrw o s
  | .ld o => Sys2Proof.Machine.execLd o s
  | .st o => Sys2Proof.Machine.execSt o s
  | .lds o => Sys2Proof.Machine.execLds o s
  | .sts o => Sys2Proof.Machine.execSts o s
  | .atom o => Sys2Proof.Machine.execAtom o s
  | .red o => Sys2Proof.Machine.execRed o s
  | .mma o => Sys2Proof.Machine.execMma o s
  | .mix o => Sys2Proof.Machine.execMix o s
  | .uadd o => Sys2Proof.Machine.execUadd o s
  | .usub o => Sys2Proof.Machine.execUsub o s
  | .uaddi o => Sys2Proof.Machine.execUaddi o s
  | .umul o => Sys2Proof.Machine.execUmul o s
  | .umulhs o => Sys2Proof.Machine.execUmulhs o s
  | .umulhn o => Sys2Proof.Machine.execUmulhn o s
  | .uand o => Sys2Proof.Machine.execUand o s
  | .uor o => Sys2Proof.Machine.execUor o s
  | .uxor o => Sys2Proof.Machine.execUxor o s
  | .uandn o => Sys2Proof.Machine.execUandn o s
  | .ushl o => Sys2Proof.Machine.execUshl o s
  | .ushr o => Sys2Proof.Machine.execUshr o s
  | .usra o => Sys2Proof.Machine.execUsra o s
  | .ushli o => Sys2Proof.Machine.execUshli o s
  | .ushri o => Sys2Proof.Machine.execUshri o s
  | .usrai o => Sys2Proof.Machine.execUsrai o s
  | .urotli o => Sys2Proof.Machine.execUrotli o s
  | .umins o => Sys2Proof.Machine.execUmins o s
  | .umaxs o => Sys2Proof.Machine.execUmaxs o s
  | .uminn o => Sys2Proof.Machine.execUminn o s
  | .umaxn o => Sys2Proof.Machine.execUmaxn o s
  | .ucmpeq o => Sys2Proof.Machine.execUcmpeq o s
  | .ucmpne o => Sys2Proof.Machine.execUcmpne o s
  | .ucmplt o => Sys2Proof.Machine.execUcmplt o s
  | .ucmple o => Sys2Proof.Machine.execUcmple o s
  | .ucmpltn o => Sys2Proof.Machine.execUcmpltn o s
  | .ucmplen o => Sys2Proof.Machine.execUcmplen o s
  | .usel o => Sys2Proof.Machine.execUsel o s
  | .umov o => Sys2Proof.Machine.execUmov o s
  | .uneg o => Sys2Proof.Machine.execUneg o s
  | .unot o => Sys2Proof.Machine.execUnot o s
  | .uclz o => Sys2Proof.Machine.execUclz o s
  | .upopc o => Sys2Proof.Machine.execUpopc o s
  | .ubrev o => Sys2Proof.Machine.execUbrev o s
  | .uffs o => Sys2Proof.Machine.execUffs o s
  | .uf2i o => Sys2Proof.Machine.execUf2i o s
  | .ui2f o => Sys2Proof.Machine.execUi2f o s
  | .uli o => Sys2Proof.Machine.execUli o s
  | .ulih o => Sys2Proof.Machine.execUlih o s
  | .uadd64 o => Sys2Proof.Machine.execUadd64 o s
  | .usub64 o => Sys2Proof.Machine.execUsub64 o s
  | .ufadd o => Sys2Proof.Machine.execUfadd o s
  | .ufmul o => Sys2Proof.Machine.execUfmul o s
  | .uffma o => Sys2Proof.Machine.execUffma o s
  | .uqmul o => Sys2Proof.Machine.execUqmul o s
  | .bra off => Sys2Proof.Machine.execBra off s
  | .brz o => Sys2Proof.Machine.execBrz o s
  | .brnz o => Sys2Proof.Machine.execBrnz o s
  | .brd o => Sys2Proof.Machine.execBrd o s
  | .jset off => Sys2Proof.Machine.execJset off s
  | .call o => Sys2Proof.Machine.execCall o s
  | .jmp o => Sys2Proof.Machine.execJmp o s
  | .ret r => Sys2Proof.Machine.execRet r s
  | .jmpv r => Sys2Proof.Machine.execJmpv r s
  | .retv r => Sys2Proof.Machine.execRetv r s
  | .exit => Sys2Proof.Machine.execExit s
  | .nop => Sys2Proof.Machine.execNop s
  | .yield => Sys2Proof.Machine.execYield s
  | .trap c => Sys2Proof.Machine.execTrap c s
  | .eret => Sys2Proof.Machine.execEret s
  | .trig => Sys2Proof.Machine.execTrig s
  | .uld o => Sys2Proof.Machine.execUld o s
  | .ust o => Sys2Proof.Machine.execUst o s
  | .ulds o => Sys2Proof.Machine.execUlds o s
  | .usts o => Sys2Proof.Machine.execUsts o s
  | .uatom o => Sys2Proof.Machine.execUatom o s
  | .addr o => Sys2Proof.Machine.execAddr o s
  | .aqry o => Sys2Proof.Machine.execAqry o s
  | .fence o => Sys2Proof.Machine.execFence o s
  | .bara o => Sys2Proof.Machine.execBara o s
  | .barw o => Sys2Proof.Machine.execBarw o s
  | .bars o => Sys2Proof.Machine.execBars o s
  | .mopf => Sys2Proof.Machine.execMopf s
  | .mwait n => Sys2Proof.Machine.execMwait n s
  | .cbatch d => Sys2Proof.Machine.execCbatch d s
  | .cwait a => Sys2Proof.Machine.execCwait a s
  | .qbind o => Sys2Proof.Machine.execQbind o s
  | .qstat o => Sys2Proof.Machine.execQstat o s
  | .cpy a => Sys2Proof.Machine.execCpy a s
  | .mfac a => Sys2Proof.Machine.execMfac a s
  | .mtrs a => Sys2Proof.Machine.execMtrs a s
  | .vtenc a => Sys2Proof.Machine.execVtenc a s
  | .twset o => Sys2Proof.Machine.execTwset o s
  | .bankcfg o => Sys2Proof.Machine.execBankcfg o s
  | .tsdep o => Sys2Proof.Machine.execTsdep o s
  | .tscpy o => Sys2Proof.Machine.execTscpy o s
  | .tstak o => Sys2Proof.Machine.execTstak o s
  | .beat n => Sys2Proof.Machine.execBeat n s
  | .sysrd o => Sys2Proof.Machine.execSysrd o s
  | .syswr o => Sys2Proof.Machine.execSyswr o s
  | .pfxReg p => Sys2Proof.Machine.execPfxReg p s
  | .pfxImm imm => Sys2Proof.Machine.execPfxImm imm s
  | .pfxMem p => Sys2Proof.Machine.execPfxMem p s
  | .reachJoin g p => Sys2Proof.Machine.execReachJoin g p s
  | .icacheFill g p => Sys2Proof.Machine.execIcacheFill g p s
  | .queueWake g p => Sys2Proof.Machine.execQueueWake g p s
  | .issuePromotion g p => Sys2Proof.Machine.execIssuePromotion g p s
  | .yieldHoldEnd g p => Sys2Proof.Machine.execYieldHoldEnd g p s
  | .memoryResponse f => Sys2Proof.Machine.execMemoryResponse f s
  | .homeLoadRequest f line => Sys2Proof.Machine.execHomeLoadRequest f line s
  | .homeWriteArrival f line => Sys2Proof.Machine.execHomeWriteArrival f line s
  | .ownedLineRequest cl line => Sys2Proof.Machine.execOwnedLineRequest cl line s
  | .updateOnlyRequest cl line => Sys2Proof.Machine.execUpdateOnlyRequest cl line s
  | .writeAck f => Sys2Proof.Machine.execWriteAck f s
  | .writeVisible w => Sys2Proof.Machine.execWriteVisible w s
  | .fenceRelease g p => Sys2Proof.Machine.execFenceRelease g p s
  | .tileArrival id => Sys2Proof.Machine.execTileArrival id s
  | .swapOut r => Sys2Proof.Machine.execSwapOut r s
  | .swapCopyComplete id => Sys2Proof.Machine.execSwapCopyComplete id s
  | .framePoolAdd r => Sys2Proof.Machine.execFramePoolAdd r s
  | .tupleRegionRegister vf base size => Sys2Proof.Machine.execTupleRegionRegister vf base size s
  | .tupleDepositAtHome id => Sys2Proof.Machine.execTupleDepositAtHome id s
  | .tupleTakeAtHome id => Sys2Proof.Machine.execTupleTakeAtHome id s
  | .tupleResultDelivery id => Sys2Proof.Machine.execTupleResultDelivery id s
  | .bitmapRead cl id => Sys2Proof.Machine.execBitmapRead cl id s
  | .passGrant cl => Sys2Proof.Machine.execPassGrant cl s
  | .fusionWaitExpiry cl id => Sys2Proof.Machine.execFusionWaitExpiry cl id s
  | .arbiterAgePromotion cl id => Sys2Proof.Machine.execArbiterAgePromotion cl id s
  | .passComplete cl => Sys2Proof.Machine.execPassComplete cl s
  | .matrixResidueError cl => Sys2Proof.Machine.execMatrixResidueError cl s
  | .factorCommandStart cl => Sys2Proof.Machine.execFactorCommandStart cl s
  | .factorMatrixComplete cl => Sys2Proof.Machine.execFactorMatrixComplete cl s
  | .copyComplete cl id => Sys2Proof.Machine.execCopyComplete cl id s
  | .cwaitRelease g p => Sys2Proof.Machine.execCwaitRelease g p s
  | .castBlockComplete die => Sys2Proof.Machine.execCastBlockComplete die s
  | .bankcfgDone g p => Sys2Proof.Machine.execBankcfgDone g p s
  | .barrierPoll g p => Sys2Proof.Machine.execBarrierPoll g p s
  | .fbHeadWrite part value => Sys2Proof.Machine.execFbHeadWrite part value s
  | .fbReplyRetry part seq => Sys2Proof.Machine.execFbReplyRetry part seq s
  | .fbReplyAbort part seq => Sys2Proof.Machine.execFbReplyAbort part seq s
  | .shootdown vf ctx lo hi => Sys2Proof.Machine.execShootdown vf ctx lo hi s
  | .shootdownComplete id => Sys2Proof.Machine.execShootdownComplete id s
  | .baseBoundSet vf part base bound => Sys2Proof.Machine.execBaseBoundSet vf part base bound s
  | .peerTranslationRequest src ctx va => Sys2Proof.Machine.execPeerTranslationRequest src ctx va s
  | .peerTranslationRecall id => Sys2Proof.Machine.execPeerTranslationRecall id s
  | .peerRecallAck id => Sys2Proof.Machine.execPeerRecallAck id s
  | .peerLeaseExpiry id => Sys2Proof.Machine.execPeerLeaseExpiry id s
  | .peerMemoryFlit r => Sys2Proof.Machine.execPeerMemoryFlit r s
  | .sqEnable vf q => Sys2Proof.Machine.execSqEnable vf q s
  | .sqDisable vf q => Sys2Proof.Machine.execSqDisable vf q s
  | .sqDoorbell vf q wr => Sys2Proof.Machine.execSqDoorbell vf q wr s
  | .launchRecordRead vf q => Sys2Proof.Machine.execLaunchRecordRead vf q s
  | .blockPlace launch block => Sys2Proof.Machine.execBlockPlace launch block s
  | .placementReserve launch block => Sys2Proof.Machine.execPlacementReserve launch block s
  | .bitmapBitSet launch block => Sys2Proof.Machine.execBitmapBitSet launch block s
  | .launchComplete launch => Sys2Proof.Machine.execLaunchComplete launch s
  | .contextCreate r => Sys2Proof.Machine.execContextCreate r s
  | .contextDestroy ctx => Sys2Proof.Machine.execContextDestroy ctx s
  | .loopParamsSet ctx p => Sys2Proof.Machine.execLoopParamsSet ctx p s
  | .loopBoundary ctx => Sys2Proof.Machine.execLoopBoundary ctx s
  | .allocation part => Sys2Proof.Machine.execAllocation part s
  | .grantsInForce part => Sys2Proof.Machine.execGrantsInForce part s
  | .linkFrameStart => Sys2Proof.Machine.execLinkFrameStart s
  | .beatMergeFlit ctx mdl boundary count live => Sys2Proof.Machine.execBeatMergeFlit ctx mdl boundary count live s
  | .loopResultFlit r => Sys2Proof.Machine.execLoopResultFlit r s
  | .mergeCountDeadline ctx => Sys2Proof.Machine.execMergeCountDeadline ctx s
  | .mergeResultDeadline ctx => Sys2Proof.Machine.execMergeResultDeadline ctx s
  | .meterWindowEnd meters uncore => Sys2Proof.Machine.execMeterWindowEnd meters uncore s
  | .throttleDrainTimeout cl => Sys2Proof.Machine.execThrottleDrainTimeout cl s
  | .poolReassign cl pool => Sys2Proof.Machine.execPoolReassign cl pool s
  | .poolReassignDone cl => Sys2Proof.Machine.execPoolReassignDone cl s
  | .vpsTableWrite vf n floor maxstep => Sys2Proof.Machine.execVpsTableWrite vf n floor maxstep s
  | .pwrCapWrite watts => Sys2Proof.Machine.execPwrCapWrite watts s
  | .energyWeightSet part weights => Sys2Proof.Machine.execEnergyWeightSet part weights s
  | .energyEpochEnd cl core => Sys2Proof.Machine.execEnergyEpochEnd cl core s
  | .energyCounterClear ctx => Sys2Proof.Machine.execEnergyCounterClear ctx s
  | .idleAccountClear part => Sys2Proof.Machine.execIdleAccountClear part s
  | .scopeMaxSet vf value => Sys2Proof.Machine.execScopeMaxSet vf value s
  | .leaseLengthSet part ns => Sys2Proof.Machine.execLeaseLengthSet part ns s
  | .preempt ctx => Sys2Proof.Machine.execPreempt ctx s
  | .preemptDrainComplete ctx => Sys2Proof.Machine.execPreemptDrainComplete ctx s
  | .preemptDrainTimeout ctx => Sys2Proof.Machine.execPreemptDrainTimeout ctx s
  | .contextRestore ctx part => Sys2Proof.Machine.execContextRestore ctx part s
  | .hbmUncorrectableError addr => Sys2Proof.Machine.execHbmUncorrectableError addr s
  | .l2DataUncorrectableError addr => Sys2Proof.Machine.execL2DataUncorrectableError addr s
  | .l2TagParityError slice way line => Sys2Proof.Machine.execL2TagParityError slice way line s
  | .clusterBankUncorrectable cl bank => Sys2Proof.Machine.execClusterBankUncorrectable cl bank s
  | .registerFileUncorrectable g => Sys2Proof.Machine.execRegisterFileUncorrectable g s
  | .copyEngineError e => Sys2Proof.Machine.execCopyEngineError e s
  | .correctableError => Sys2Proof.Machine.execCorrectableError s
  | .stationCoreFault => Sys2Proof.Machine.execStationCoreFault s
  | .linkCrcError port => Sys2Proof.Machine.execLinkCrcError port s
  | .portRetrainDone port => Sys2Proof.Machine.execPortRetrainDone port s
  | .portEnable port => Sys2Proof.Machine.execPortEnable port s
  | .deviceReset block => Sys2Proof.Machine.execDeviceReset block s
  | .partitionReset part => Sys2Proof.Machine.execPartitionReset part s
  | .vfReset vf => Sys2Proof.Machine.execVfReset vf s
  | .rowTableRegister ctx va n => Sys2Proof.Machine.execRowTableRegister ctx va n s
  | .engineReset e => Sys2Proof.Machine.execEngineReset e s
  | .linkReset port => Sys2Proof.Machine.execLinkReset port s
  | .cxlMemAccess r => Sys2Proof.Machine.execCxlMemAccess r s
  | .timeFlit m => Sys2Proof.Machine.execTimeFlit m s
  | .timeMasterSelect mdl => Sys2Proof.Machine.execTimeMasterSelect mdl s
  | .timeMasterLost => Sys2Proof.Machine.execTimeMasterLost s
  | .timeResync m => Sys2Proof.Machine.execTimeResync m s
  | .stationControlFlit port m => Sys2Proof.Machine.execStationControlFlit port m s
  | .invalidFlit port kind => Sys2Proof.Machine.execInvalidFlit port kind s
  | .routeTableLoad peer ports => Sys2Proof.Machine.execRouteTableLoad peer ports s
  | .doeImageLoad slotB img => Sys2Proof.Machine.execDoeImageLoad slotB img s
  | .getMeasurements => Sys2Proof.Machine.execGetMeasurements s
  | .challenge nonce => Sys2Proof.Machine.execChallenge nonce s
  | .keyExchange req => Sys2Proof.Machine.execKeyExchange req s
  | .finish req => Sys2Proof.Machine.execFinish req s
  | .getVersion => Sys2Proof.Machine.execGetVersion s
  | .firmwareUpdate => Sys2Proof.Machine.execFirmwareUpdate s
  | .firmwareHeartbeat => Sys2Proof.Machine.execFirmwareHeartbeat s
  | .firmwareWatchdogExpiry => Sys2Proof.Machine.execFirmwareWatchdogExpiry s
  | .antiRollbackUpdate version signature => Sys2Proof.Machine.execAntiRollbackUpdate version signature s
  | .lifecycleAdvance signature => Sys2Proof.Machine.execLifecycleAdvance signature s
  | .registerWrite r => Sys2Proof.Machine.execRegisterWrite r s
  | .bankAllocate cl bank ctx mode => Sys2Proof.Machine.execBankAllocate cl bank ctx mode s
  | .unitFailure cl core => Sys2Proof.Machine.execUnitFailure cl core s
  | .stationRestartComplete => Sys2Proof.Machine.execStationRestartComplete s

end Sys2Proof.Machine
end

