-- ==== Sys2Proof/Machine/Deadline.lean ====
section
/-!
DEFINITION. What time brings at its moment whether or not an event says so (R494): the cycles and the grants of the matrix engine (R122, R123), those of the factor sequencer
(R141) and of the casting engines (R461), the drains of 80 µs and 10 ms (R259, R274), the reassignment of 50 µs (R260), the reservation after
128 µs (R235), interval boundaries with their merges, the allocator, the grants 8 µs later and the link frames (R241, R252, R255), retraining within
5 ms (R283), restart within 50 ms (R281), the watchdog of 10 ms (R296), and the epochs (R264). Everything else that R494 lists may take any time.
-/
namespace Sys2Proof.Machine

/-- An event that may be tried. -/
abbrev Move := State → Option State

/-- An event, or the state as it is where the event cannot occur. No event that is tried so moves the clock or the inputs. -/
def State.try (s : State) (m : Move) : State :=
  { (m s).getD s with ticks := s.ticks, gBase := s.gBase, gTick := s.gTick, gLag := s.gLag, turns := s.turns }

/-! ## The moments -/

/-- The tick at which a cycle of a cluster begins. -/
def Cluster.tickOf (c : Cluster) (n : Nat) : Nat := c.cycTick + (n - c.cycBase) * poolCycle c.pool

/-- The sequencer of a cluster starts the command whose turn it is in the cycle after its posting, and completes a matrix when it is due. -/
def State.factorTimes (s : State) (c : Cluster) : List Nat :=
  ((s.factorHead c).map fun k => if k.started then k.due else c.tickOf (k.cycle + 1)).toList

/-- A pass with all its rows reads its scale bytes and cast blocks in its last compute cycle (R121), and ends. -/
def State.endTimes (s : State) (c : Cluster) (p : Pass) : List Nat :=
  s.passEnd c.id p :: (if p.sets.any MSet.unread then [s.computeEnd c.id p - s.cycle c.id] else [])

/-- A pass ends, and takes rows in each cycle in which a FIFO has some that it misses. -/
def State.passTimes (s : State) (c : Cluster) : List Nat :=
  (c.draining.toList.flatMap fun p => s.endTimes c p) ++ (c.pass.toList.map fun p =>
    let missing := p.streams.filter fun t => t.need != 0
    if missing.isEmpty then s.endTimes c p
    else if c.owes || missing.any fun t => decide (0 < s.rowsThere c.id t.fifo t.grp t.q) then [c.cycleStart s.ticks 1] else []).flatten

/-- The moments at which an entry that waits in the table can come to be granted, besides those at which something happens that it waits for: the
cycle after its posting, the end of its hold-back and of its 4,096 cycles (R122), the cycle from which the next pass may fill (R123), and the next
cycles of DUTY (R259). -/
def State.grantTimes (s : State) (c : Cluster) : List Nat :=
  if c.sets.isEmpty then [] else
  (c.sets.flatMap fun x => [c.tickOf (x.cycle + 1), c.tickOf (x.cycle + 16 * x.desc.form.fwait), c.tickOf (x.cycle + 4097)]) ++
    (c.pass.toList.map fun p => s.computeEnd c.id p - 5 * s.cycle c.id) ++
    (if s.dutyOpen c.id then [] else [c.cycleStart s.ticks (64 - c.cycles s.ticks % 64)])

/-- The moments of a cluster: its engines, the end of a reassignment, and 10 ms in a pool faster than CEIL. -/
def State.clusterTimes (s : State) (c : Cluster) : List Nat :=
  s.factorTimes c ++ s.passTimes c ++ s.grantTimes c ++ (c.moving.map fun m => m.2).toList ++ (c.fastSince.map fun t => t + 10000000 * 24).toList

/-- The end of a block of each casting engine. -/
def State.castTimes (s : State) : List Nat := s.castQueues.flatMap fun q => (q.2.filter fun k => k.due != 0).map fun k => k.due

/-- 80 µs after a context has begun to stop. -/
def Context.stopTimes (c : Context) : List Nat :=
  match c.state with
  | .stopping _ t => [t + 80000 * 24]
  | _ => []

/-- 128 µs after blocks of a launch that waits have become eligible. -/
def State.reserveTimes (s : State) (l : Launch) : List Nat :=
  if l.waiting then
    (l.accepted :: ((s.producer l).map fun p => p.complete.map fun c => c.2).getD []).map fun t => t + 128000 * 24
  else []

/-- The first tick at which GTIME has reached a value (R188, R291); at most the present one where it has. -/
def State.tickAt (s : State) (g : Nat) : Nat :=
  let d := g - s.gBase
  s.gTick + 24 * (d + min s.gLag ((d - 1) / 999))

/-- The GTIMEs of a context: its next boundary, or the end of the merge that is open (R241, R252). -/
def Context.boundaryTimes (c : Context) (mdl : Nat) : List Nat :=
  if c.mergeOpen then (c.merge.map fun m => m.boundary + if c.leader = mdl then 3000 else 4000).toList
  else if c.loop.ivl = 0 then [] else [c.loop.nextBoundary]

/-- The GTIMEs of a partition that has contexts: its grants come into force, or its next allocation, which waits for the boundaries that are open
(R241). -/
def State.allocationTimes (s : State) (part : Nat) (p : Part) : List Nat :=
  if (s.contextsOf part).isEmpty then []
  else match p.grantsDue with
    | some g => [g]
    | none => if s.boundaryOpen part then [] else [p.nextAlloc]

/-- The GTIMEs of the resource loops. A frame counts where it changes a context's slots. -/
def State.loopTimes (s : State) : List Nat :=
  (s.contexts.flatMap fun (x : Nat × Context) => x.2.boundaryTimes s.moduleNo) ++
    (((List.range s.parts.length).zip s.parts).flatMap fun x => s.allocationTimes x.1 x.2) ++
    (if s.slotsNow.contexts = s.contexts then [] else [s.nextFrame])

/-- Every moment at which something is due. What GTIME has passed over, a step of it forward (R291), is due now. -/
def State.dueTimes (s : State) : List Nat :=
  (((s.clusters.flatMap fun (x : Nat × Cluster) => s.clusterTimes x.2) ++ s.castTimes ++
    (s.contexts.flatMap fun (x : Nat × Context) => x.2.stopTimes) ++ s.launches.flatMap fun l => s.reserveTimes l).filter
      fun d => decide (s.ticks < d)) ++ s.loopTimes.map fun g => max s.ticks (s.tickAt g)

/-- The first of them before a tick. -/
def State.nextDue (s : State) (t : Nat) : Option Nat := leastBy id (s.dueTimes.filter fun d => decide (d < t))

/-! ## What happens then -/

/-- The bitmaps of the sets whose other conditions hold are read (R122). -/
def State.readBitmaps (cl : Nat) (s : State) : State :=
  ((((s.cluster? cl).map fun c => c.sets).getD []).map fun x => x.id).foldl (fun s i => s.try (onBitmapRead cl i)) s

/-- The events of a cluster that are tried when they are due: a pass that has drained completes before the next one takes rows, a matrix before the
next command starts (R123, R134); bitmaps are read and the anchor is granted as soon as they may be (R122). -/
def dueCluster (cl : Nat) (s : State) : State :=
  let s1 := ((s.try (State.readSides cl)).try (onPassComplete cl)).try (onPassComplete cl)
  let s1 := (s1.readBitmaps cl).try (onPassGrant cl)
  let s2 := (s1.try (onFactorMatrixComplete cl)).try (onFactorCommandStart cl)
  (s2.try (onThrottleDrainTimeout cl)).try (onPoolReassignDone cl)

/-- What is due of the loops: merges that end, boundaries, grants that come into force, allocations, and the frame (R241, R252, R255). -/
def State.runLoops (s : State) : State :=
  let s1 := (s.contexts.map fun (x : Nat × Context) => x.1).foldl
    (fun s c => ((s.try (onMergeCountDeadline c)).try (onMergeResultDeadline c)).try (onLoopBoundary c)) s
  let s2 := (List.range s1.parts.length).foldl (fun s p => (s.try (onGrantsInForce p)).try (onAllocation p)) s1
  s2.try onLinkFrameStart

/-- Everything that is due at the present tick. -/
def State.runDue (s : State) : State :=
  let s1 := (s.clusters.map fun (x : Nat × Cluster) => x.1).foldl (fun s cl => dueCluster cl s) s
  let s2 := (s1.castQueues.map fun (q : Nat × List CastCmd) => q.1).foldl (fun s d => s.try (onCastBlockComplete d)) s1
  let s3 := (s2.contexts.map fun (x : Nat × Context) => x.1).foldl (fun s c => s.try (onPreemptDrainTimeout c)) s2
  ((s3.launches.map fun l => l.id).foldl (fun s l => s.try fun s => some (s.reserveAll l s.clusters.length)) s3).runLoops

/-- The station has been restarting for 50 ms. -/
def State.restartOverdue (s : State) : Bool :=
  match s.station.mode with
  | .restarting since _ => decide (since + 50000000 ≤ s.now)
  | _ => false

/-- The watchdog of an update has not been answered within its 10 ms. -/
def State.watchdogOverdue (s : State) : Bool := (s.station.mode.watchdog.map fun t => decide (t < s.now)).getD false

/-- The last moment before another, of those a period apart from a first one on. -/
def lastBefore (first period now : Nat) : Nat := first + period * ((now - 1 - first) / period)

/-- The allocations that have passed in a partition without contexts: they form no grants (R241). -/
def Part.skip (p : Part) (now : Nat) : Part :=
  if p.nextAlloc < now then
    let b := lastBefore p.nextAlloc 16384 now
    { p with nextAlloc := b + 16384, grantsDue := if now ≤ b + 8000 then some (b + 8000) else none }
  else { p with grantsDue := p.grantsDue.filter fun g => decide (now ≤ g) }

/-- A retraining that has taken 5 ms is over (R283). The frames that have passed change no slot, and the allocations in partitions without contexts
form no grants: they are only counted. -/
def State.skip (s : State) : State :=
  { s with ports := s.ports.map fun (p : Port) => p.settle s.now,
           nextFrame := if s.nextFrame < s.now then lastBefore s.nextFrame 1024 s.now + 1024 else s.nextFrame,
           parts := ((List.range s.parts.length).zip s.parts).map fun x => if (s.contextsOf x.1).isEmpty then x.2.skip s.now else x.2 }

/-- What must be over by the present tick: epochs that ended are charged (R264), a retraining is over by 5 ms, a restart of the station by 50 ms, and
an update by its watchdog. -/
def State.overdue (s : State) : State :=
  let s1 := s.settleEpochs
  let s2 := if s1.restartOverdue then s1.try onStationRestartComplete else s1
  let s3 := if s2.watchdogOverdue then s2.try onFirmwareWatchdogExpiry else s2
  s3.skip

/-- The clock at a tick. -/
def State.clockAt (s : State) (t : Nat) : State := { s.notEligible t with ticks := t }.overdue

/-! ## Time passes -/

/-- Time goes on to a tick, with every moment before it at which something is due. What is due at that tick itself may come as an event there, and
comes by itself when time goes on. -/
def State.runTo (t : Nat) : Nat → State → State
  | 0, s => s.clockAt t
  | n + 1, s =>
    let s1 := s.runDue
    match s1.nextDue t with
    | some d => (s1.clockAt d).runTo t n
    | none => s1.clockAt t

/-- The state after some ticks (log 2). -/
def State.pass (s : State) (dt : Nat) : State := if dt = 0 then s else s.runTo (s.ticks + dt) dt

end Sys2Proof.Machine
end

