-- ==== Sys2Proof/Machine/Schedule.lean ====
section
/-!
DEFINITION. The events that the part itself brings about, in the order in which the model's own schedule tries them (log 1), each as the call of
its meaning. What an outside party does, and what a failure does, comes only from State.turns.
-/
namespace Sys2Proof.Machine

/-- Events of the memory side. -/
def State.memoryEvents (s : State) : List Move :=
  (s.pending.map fun w => onWriteVisible w.id) ++
  (s.flights.map fun f =>
    [onMemoryResponse f.id, onWriteAck f.id] ++
      (f.lines.map fun l => [onHomeLoadRequest f.id l, onHomeWriteArrival f.id l,
        onOwnedLineRequest f.cluster l, onUpdateOnlyRequest f.cluster l]).flatten).flatten

/-- Events of paths that wait. -/
def State.pathEvents (s : State) : List Move :=
  (s.groups.map fun g => onAbortDue g.id) ++
  (s.groups.map fun g => [false, true].map fun b =>
    [onFenceRelease g.id b, onIcacheFill g.id b, onQueueWake g.id b, onBankcfgDone g.id b,
     onBarrierPoll g.id b, onCwaitRelease g.id b, onYieldHoldEnd g.id b, onIssuePromotion g.id b]).flatten.flatten

/-- Events of tiles, tuples and translations. -/
def State.homeEvents (s : State) : List Move :=
  (s.swaps.map fun w => onSwapCopyComplete w.id) ++ (s.fetches.map fun f => onTileArrival f.id) ++
    (s.tupleReqs.map fun r => [onTupleDepositAtHome r.id, onTupleTakeAtHome r.id, onTupleResultDelivery r.id]).flatten ++
    (s.shootdowns.map fun d => onShootdownComplete d.id) ++ (s.peerLeases.map fun l => onPeerRecallAck l.id) ++
    ((s.peerLeases.filter fun l => l.asked).filterMap fun l =>
      (s.contexts.find? fun (c : Nat × Context) => c.2.vf == l.vf).map fun c => onPeerTranslationRequest s.moduleNo c.1 l.page) ++
    ((s.peerGrants ++ s.peerLeases).map fun l => onPeerLeaseExpiry l.id)

/-- Events of engines. -/
def State.engineEvents (s : State) : List Move :=
  (s.clusters.map fun (x : Nat × Cluster) =>
    (if x.2.pass.isSome || x.2.draining.isSome || x.2.owes then [onPassComplete x.1] else []) ++
    (x.2.sets.map fun k => [onBitmapRead x.1 k.id, onFusionWaitExpiry x.1 k.id, onArbiterAgePromotion x.1 k.id]).flatten ++
    (if x.2.sets.isEmpty then [] else [onPassGrant x.1]) ++
    (if x.2.factor.isEmpty then [] else [onFactorMatrixComplete x.1, onFactorCommandStart x.1]) ++
    (x.2.copies.map fun k => onCopyComplete x.1 k.id)).flatten ++
  (s.castQueues.map fun (q : Nat × List CastCmd) => onCastBlockComplete q.1)

/-- Events of queues, launches and blocks. -/
def State.launchEvents (s : State) : List Move :=
  (match s.nextQueue with
   | some k => [onLaunchRecordRead (k / 16) (k % 16)]
   | none => []) ++
  ((List.range s.parts.length).filterMap fun p => (s.nextBlock p).map fun x => onBlockPlace x.1.id x.2) ++
  s.launches.filterMap (fun l => s.reserveEvent l) ++
  (s.launches.map fun l =>
    ((l.complete.filter fun c => !l.bitsSet.contains c.1).map fun c => onBitmapBitSet l.id c.1) ++
      if l.finished then [] else [onLaunchComplete l.id]).flatten

/-- Events of loops, allocators and context moves. -/
def State.loopEvents (s : State) : List Move :=
  (s.contexts.map fun (x : Nat × Context) =>
    [onLoopBoundary x.1, onMergeCountDeadline x.1, onMergeResultDeadline x.1,
     onPreemptDrainComplete x.1, onPreemptDrainTimeout x.1]).flatten ++
  ((List.range s.parts.length).map fun p => [onGrantsInForce p, onAllocation p]).flatten ++
  [onLinkFrameStart]

/-- Events of clusters, ports and the station. -/
def State.unitEvents (s : State) : List Move :=
  (s.clusters.map fun (x : Nat × Cluster) =>
    (if x.2.fastSince.isSome then
      [onThrottleDrainTimeout x.1] else []) ++
    (if x.2.moving.isNone && s.clusterEmpty x.1 x.2 then ((s.poolFor x.1 x.2).map fun p => onPoolReassign x.1 p).toList else []) ++
    (if x.2.moving.isSome then [onPoolReassignDone x.1] else []) ++
    ((List.range 4).filter fun i => decide (0 < x.2.epochsDue i s.ticks)).map fun i =>
      onEnergyEpochEnd x.1 i).flatten ++
  ((List.range s.ports.length).map fun p => onPortRetrainDone p) ++
  (s.rowResets.map fun r => onRowResetFlag r.vf) ++ [onFirmwareWatchdogExpiry, onStationRestartComplete]

/-- Every event that may come of itself. -/
def State.ownEvents (s : State) : List Move :=
  s.memoryEvents ++ s.pathEvents ++ s.homeEvents ++ s.engineEvents ++ s.launchEvents ++ s.loopEvents ++ s.unitEvents

end Sys2Proof.Machine
end

