-- ==== Sys2Proof/Machine/Step.lean ====
section
/-!
DEFINITION. One step of the machine (log 1): a host command that has waited for the station, else the next input, else an event the part brings about of itself, else one word of
the path that the next busy core chooses, else a cycle in which nothing happens. Placing a word where the step fetches.
-/
namespace Sys2Proof.Machine

/-- One word of a path: a join is reached instead of issuing (R36); else the word at the program counter is fetched, decoded and
executed, and a pattern that is no instruction raises ILLEGAL (R73). -/
def runPath (s : State) (g : Group) (slot : Bool) (p : Path) : Host.Outcome State Fault Refusal :=
  if s.atJoin g p then exec (.reachJoin g.id slot) s
  else
    match s.fetch g p with
    | (s1, .word w) =>
      match decode w with
      | .ok i => exec i (s1.readyFor g slot)
      | .error _ => .next (s1.trapPath g.id slot .illegal p.lanes 0)
    | (s1, f) => .next (s1.fetchStop g slot p f)

/-- One word that a core issues in this cycle (R13, R50); nothing where it has none left, or where a word of the same cycle has
stopped the path. -/
def issueCore (s : State) (cl core : Nat) : Host.Outcome State Fault Refusal :=
  match s.takePlan cl core with
  | (s1, some (g, slot, p)) => runPath s1 g slot p
  | (s1, none) => .next s1

/-- The part left to itself: an event that is due, a word, or an idle cycle. -/
def runFree (s : State) : Host.Outcome State Fault Refusal :=
  match s.ownEvents.findSome? fun e => e s with
  | some t => .next t
  | none =>
    match s.openPlan, s.busyCore s.nextCore with
    | some (cl, core), _ => issueCore s cl core
    | none, some c => issueCore { s.pass (s.cycle (c / 4)) with nextCore := c + 1 } (c / 4) (c % 4)
    | none, none => .next (s.pass 12)

/-- One step. -/
def step (s : State) : Host.Outcome State Fault Refusal :=
  match s.heldNext, s.turns with
  | some c, _ => c.exec { s with held := s.held.erase c }
  | none, [] => runFree s
  | none, .wait dt :: ts => .next ({ s with turns := ts }.pass dt)
  | none, .event dt e :: ts => if e.isWord then .refused .wordAsInput else exec e ({ s with turns := ts }.pass dt)
  | none, .issue dt cl core :: ts => issueCore ({ s with turns := ts }.pass dt) cl core
  | none, .hostRead vf off :: ts => .next ({ s with turns := ts }.hostRead vf off)
  | none, .stationRead r :: ts => .next ({ s with turns := ts }.stationRead r)
  | none, .ahead g slot :: ts => .next ({ s with turns := ts }.issueAhead g slot)
  | none, .early g slot c va n :: ts => .next ({ s with turns := ts }.loadEarly g slot c va n)
  | none, .miss g slot :: ts =>
    .next ({ s with turns := ts }.modGroup g fun (g : Group) => g.modPath slot fun (p : Path) =>
      if p.wait == Wait.ready then { p with wait := .icache } else p)

/-- A core's choice of this cycle set to one path. -/
def State.planFor (s : State) (cl core gid : Nat) (slot : Bool) : State :=
  s.modCluster cl fun c => { c with plan := some ⟨c.cycles s.ticks, core, [(gid, slot)]⟩ }

/-- The word put where a chosen path fetches, and that path's turn. -/
def placeAt (s : State) (w : Word) (c : Nat) : Option State :=
  match s.choose (c / 4) (c % 4) with
  | some (g, slot, p) => (s.fetchKey g p).map fun key =>
    { (s.putWord key w).planFor (c / 4) (c % 4) g.id slot with turns := [.issue 0 (c / 4) (c % 4)], held := [] }
  | none => none

/-- The state with a word stored where step fetches its next instruction (log 4). -/
def State.withFetchWord (s : State) (_nbits w : Nat) : State :=
  let x := BitVec.ofNat 32 w
  let boot := { ((s.boot).putWord 0x60000 x).planFor 0 0 0 false with turns := [.issue 0 0 0], held := [] }
  match s.busyCore s.nextCore with
  | some c => (placeAt s x c).getD boot
  | none => boot

end Sys2Proof.Machine
end

