-- ==== Sys2Proof/Safety.lean ====
section
/-!
DEFINITION. What counts as a well-kept state and as a run without a stop, and what a word that completes leaves, in the terms the
claims use.
-/
namespace Sys2Proof.Machine

/-- A step goes on to a next state. -/
def Runs (s : State) : Prop := ∃ t, step s = .next t

/-- The memory of a state keeps its canonical form. -/
def MemOk (s : State) : Prop := s.mem.wf = true

/-- A byte as every reader at its home sees it now (R192). -/
def State.visible (s : State) (key : Nat) : Byte := s.mature.mem.byte key

/-! ## What a word that completes leaves -/

/-- The path p of a group g is the one whose word is executed. -/
def State.At (s : State) (g : Group) (slot : Bool) (p : Path) : Prop := s.here = some (g, slot, p)

/-- A word of g has completed: g' stands in place of g with its path p', the context is charged one event of a class, and every other
group, every byte of memory and every other field of the state are as before. -/
structure Completes (s t : State) (g g' : Group) (slot : Bool) (p' : Path) (cls : Nat) : Prop where
  group : t.group? g.id = some g'
  path : g'.path slot = some p'
  others : ∀ i, i ≠ g.id → t.group? i = s.group? i
  energy : t.contexts = (s.charge g.ctx cls 1).contexts
  memory : ∀ a, t.mem.byte a = s.mem.byte a
  rest : t = { s with groups := t.groups, contexts := t.contexts }

/-- g' differs from g in the executing path alone. -/
def Group.OnlyPath (g g' : Group) (slot : Bool) : Prop :=
  g' = { g with path0 := g'.path0, path1 := g'.path1 } ∧ g'.path (!slot) = g.path (!slot)

/-- g' differs from g in the executing path and in group registers. -/
def Group.OnlyGroupRegs (g g' : Group) (slot : Bool) : Prop :=
  g' = { g with g := g'.g, path0 := g'.path0, path1 := g'.path1 } ∧ g'.path (!slot) = g.path (!slot)

/-- g' differs from g in the executing path and in vector registers; accHit records the writes to accumulators that no MWAIT covers. -/
def Group.OnlyVectorRegs (g g' : Group) (slot : Bool) : Prop :=
  g' = { g with v := g'.v, accHit := g'.accHit, path0 := g'.path0, path1 := g'.path1 } ∧ g'.path (!slot) = g.path (!slot) ∧
    (g.accRuns = [] → g'.accHit = g.accHit)

/-- A word that writes no register and goes on at p'. -/
def Moves (s t : State) (g : Group) (slot : Bool) (p' : Path) (cls : Nat) : Prop :=
  ∃ g', Completes s t g g' slot p' cls ∧ g.OnlyPath g' slot

/-- A word that writes x to g[d] and goes on at p'. -/
def WritesG (s t : State) (g : Group) (slot : Bool) (p' : Path) (d : Nat) (x : Word) (cls : Nat) : Prop :=
  ∃ g', Completes s t g g' slot p' cls ∧ g.OnlyGroupRegs g' slot ∧ ∀ r, g'.greg r = if r = d then x else g.greg r

/-- A lane word writes `vals` to its destination: v[D] in the active lanes (not under NW, and not an accumulator that no MWAIT covers),
or a row of a queue; its queue effects come first. -/
def WritesLanes (s t : State) (g : Group) (slot : Bool) (p : Path) (o : Operands) (nw : Bool) (cls : Nat)
    (vals : Nat → Word) : Prop :=
  ∃ g',
    Completes (s.queueEffect g p.mask o.a o.d vals) t g g' slot
      (p.done s.ticks p.nextPc (chainLane o.chain o.readsLatch (lanesFrom vals) p.mask)) cls ∧
    g.OnlyVectorRegs g' slot ∧
    ∀ r i, i < 32 → g'.vreg r i =
      if o.d = .v r ∧ nw = false ∧ p.mask.getLsbD i = true ∧ g.accBusy r i = false then vals i else g.vreg r i

/-- The path at the word after this one, out of any chain. -/
def Path.after (p : Path) (s : State) : Path := p.done s.ticks p.nextPc Chain.none

end Sys2Proof.Machine
end

