-- ==== Sys2Proof/Certificates/Slice0/Obligations.lean ====
section
/-!
DEFINITION. The statements for the provers, with the tables they range over. A table lists constructors of Instr with what the spec's
entry for each computes, written from the entry.
-/
namespace Sys2Proof.Claims
open Sys2Proof.Machine

/-! ## What the entries of the lane-set words compute -/

/-- Lane words of two sources: constructor, the word for v1, v2, v3 (for v3, v5 in the tables of one source; for g1, g2, g3 in those of
uniform words), energy class, result (R307, R315, R354, R355, R358, R360, R361, R363, R364, R378, R386,
R410, R462). -/
def laneTwo : List ((LaneR → Instr) × Word × Nat × (Word → Word → Word)) :=
  [ (.iadd, 0x00008103, 1, fun a b => a + b),
    (.isub, 0x00808103, 1, fun a b => a - b),
    (.imul, 0x01808103, 1, fun a b => a * b),
    (.imulhs, 0x02008103, 1, fun a b => (a.signExtend 64 * b.signExtend 64).extractLsb' 32 32),
    (.imulhn, 0x02808103, 1, fun a b => (a.setWidth 64 * b.setWidth 64).extractLsb' 32 32),
    (.and, 0x04008103, 1, fun a b => a &&& b),
    (.or, 0x04808103, 1, fun a b => a ||| b),
    (.xor, 0x05008103, 1, fun a b => a ^^^ b),
    (.andn, 0x05808103, 1, fun a b => a &&& (b ^^^ 0xFFFFFFFF)),
    (.shl, 0x06008103, 1, fun a b => BitVec.ofNat 32 (a.toNat * 2 ^ b.toNat)),
    (.shr, 0x06808103, 1, fun a b => BitVec.ofNat 32 (a.toNat / 2 ^ b.toNat)),
    (.sra, 0x07008103, 1, fun a b => BitVec.ofInt 32 (a.toInt / 2 ^ b.toNat)),
    (.imins, 0x08008103, 1, fun a b => if a.toInt ≤ b.toInt then a else b),
    (.imaxs, 0x08808103, 1, fun a b => if a.toInt ≤ b.toInt then b else a),
    (.iminn, 0x09008103, 1, fun a b => if a.toNat ≤ b.toNat then a else b),
    (.imaxn, 0x09808103, 1, fun a b => if a.toNat ≤ b.toNat then b else a),
    (.icmpeq, 0x0A008103, 1, fun a b => if a = b then 1 else 0),
    (.icmpne, 0x0A808103, 1, fun a b => if a = b then 0 else 1),
    (.icmplt, 0x0B008103, 1, fun a b => if a.toInt < b.toInt then 1 else 0),
    (.icmple, 0x0B808103, 1, fun a b => if a.toInt ≤ b.toInt then 1 else 0),
    (.icmpltn, 0x0C008103, 1, fun a b => if a.toNat < b.toNat then 1 else 0),
    (.icmplen, 0x0C808103, 1, fun a b => if a.toNat ≤ b.toNat then 1 else 0),
    (.mix, 0x1F808103, 1, fun a b =>
      let r := fun (x c m : Word) => ((x + b + c) ^^^ ((x + b + c) >>> 16)) * m
      let x := r (r (r (r a 0x5B1E7A93 0xB5A34C6D) 0x3C4D91E5 0x7E192F8B) 0x9F026B37 0xD3C45A27) 0x71A8D4C9 0x48E7B1F5
      x ^^^ (x >>> 15)) ]

/-- Floating-point lane words of two sources. -/
def laneFloatTwo : List ((LaneR → Instr) × Word × Nat × (Word → Word → Word)) :=
  [ (.fadd, 0x0E008103, 2, fadd), (.fsub, 0x0E808103, 2, fun a b => fadd a (b ^^^ 0x80000000)), (.fmul, 0x0F008103, 2, fmul),
    (.fmin, 0x10008103, 2, fmin), (.fmax, 0x10808103, 2, fmax),
    (.fcmpeq, 0x11008103, 2, fun a b => if fcmpEq a b then 1 else 0),
    (.fcmplt, 0x11808103, 2, fun a b => if fcmpLt a b then 1 else 0),
    (.fcmple, 0x12008103, 2, fun a b => if fcmpEq a b || fcmpLt a b then 1 else 0),
    (.fcmpun, 0x12808103, 2, fun a b => if isNaN a || isNaN b then 1 else 0),
    (.badd2, 0x13008103, 2, badd2), (.bmul2, 0x13808103, 2, bmul2) ]

/-- Accumulating lane words: they read D (R315, R357, R362, R406). -/
def laneThree : List ((LaneR → Instr) × Word × Nat × (Word → Word → Word → Word)) :=
  [ (.imad, 0x03008103, 1, fun a b d => a * b + d),
    (.sel, 0x0D008103, 1, fun a b d => if d = 0 then b else a),
    (.ffma, 0x0F808103, 2, ffma),
    (.bfma2, 0x14008103, 2, bfma2),
    (.bdot2, 0x14808103, 2, bdot2) ]

/-- Lane words of one source: integer words with results of their own (R303, R331, R336, R381). -/
def laneOne : List ((LaneU → Instr) × Word × Nat × (Word → Word)) :=
  [ (.mov, 0x0D818280, 1, fun a => a),
    (.neg, 0x0D818281, 1, fun a => 0 - a),
    (.not, 0x0D818282, 1, fun a => a ^^^ 0xFFFFFFFF),
    (.abs, 0x0D818283, 1, fun a => BitVec.ofNat 32 a.toInt.natAbs),
    (.clz, 0x0D818284, 1, fun a => BitVec.ofNat 32 (if a = 0 then 32 else 31 - Nat.log2 a.toNat)),
    (.popc, 0x0D818285, 1, fun a => BitVec.ofNat 32 ((List.range 32).countP fun i => a.getLsbD i)),
    (.brev, 0x0D818286, 1, fun a => a.reverse) ]

/-- Floating-point lane words of one source: conversions, special functions, roundings (R86 to R88, R326, R335, R346, R350 to R353,
R359, R373, R384, R397, R404, R405, R411, R412, R422, R425). -/
def laneFloatOne : List ((LaneU → Instr) × Word × Nat × (Word → Word)) :=
  [ (.fneg, 0x0D818288, 2, fun a => if isNaN a then 0x7FC00000 else a ^^^ 0x80000000),
    (.fabs, 0x0D818289, 2, fun a => if isNaN a then 0x7FC00000 else a &&& 0x7FFFFFFF),
    (.f2i, 0x0D818290, 2, f2i .nearest), (.f2iz, 0x0D818291, 2, f2i .toZero), (.f2n, 0x0D818292, 2, f2n .nearest), (.f2nz, 0x0D818293, 2, f2n .toZero),
    (.i2f, 0x0D818294, 2, i2f), (.n2f, 0x0D818295, 2, n2f), (.f2bf, 0x0D818296, 2, f2bf), (.bf2f, 0x0D818297, 2, bf2f), (.bf2fh, 0x0D818298, 2, fun a => bf2f (a >>> 16)),
    (.rcp, 0x0D8182A0, 3, rcp), (.rsq, 0x0D8182A1, 3, rsq), (.sqrt, 0x0D8182A2, 3, fsqrt), (.exp2, 0x0D8182A3, 3, exp2), (.log2, 0x0D8182A4, 3, log2f), (.sin, 0x0D8182A5, 3, sinf), (.cos, 0x0D8182A6, 3, cosf),
    (.tanh, 0x0D8182A7, 3, tanhf),
    (.floor, 0x0D8182A8, 2, toIntegral .down), (.ceil, 0x0D8182A9, 2, toIntegral .up), (.trunc, 0x0D8182AA, 2, toIntegral .toZero), (.rint, 0x0D8182AB, 2, toIntegral .nearest),
    (.dq8, 0x1A818280, 2, dq8) ]

/-- Immediate shifts (R409). -/
def laneShifts : List ((LaneS → Instr) × (Word → Nat → Word)) :=
  [ (.shli, fun a n => BitVec.ofNat 32 (a.toNat * 2 ^ n)),
    (.shri, fun a n => BitVec.ofNat 32 (a.toNat / 2 ^ n)),
    (.srai, fun a n => BitVec.ofInt 32 (a.toInt / 2 ^ n)),
    (.rotli, fun a n => if n = 0 then a else BitVec.ofNat 32 (a.toNat * 2 ^ n) ||| BitVec.ofNat 32 (a.toNat / 2 ^ (32 - n))) ]

/-! ## What the entries of the uniform words compute -/

/-- Uniform words of two sources (R436, R438, R442, R444, R448, R449, R453). -/
def uniTwo : List ((UniR → Instr) × Word × (Word → Word → Word)) :=
  [ (.uadd, 0x80010203, fun a b => a + b),
    (.usub, 0x81010203, fun a b => a - b),
    (.umul, 0x83010203, fun a b => a * b),
    (.umulhs, 0x84010203, fun a b => (a.signExtend 64 * b.signExtend 64).extractLsb' 32 32),
    (.umulhn, 0x85010203, fun a b => (a.setWidth 64 * b.setWidth 64).extractLsb' 32 32),
    (.uand, 0x86010203, fun a b => a &&& b),
    (.uor, 0x87010203, fun a b => a ||| b),
    (.uxor, 0x88010203, fun a b => a ^^^ b),
    (.uandn, 0x89010203, fun a b => a &&& (b ^^^ 0xFFFFFFFF)),
    (.ushl, 0x8A010203, fun a b => BitVec.ofNat 32 (a.toNat * 2 ^ b.toNat)),
    (.ushr, 0x8B010203, fun a b => BitVec.ofNat 32 (a.toNat / 2 ^ b.toNat)),
    (.usra, 0x8C010203, fun a b => BitVec.ofInt 32 (a.toInt / 2 ^ b.toNat)),
    (.umins, 0x8E010203, fun a b => if a.toInt ≤ b.toInt then a else b),
    (.umaxs, 0x8F010203, fun a b => if a.toInt ≤ b.toInt then b else a),
    (.uminn, 0x90010203, fun a b => if a.toNat ≤ b.toNat then a else b),
    (.umaxn, 0x91010203, fun a b => if a.toNat ≤ b.toNat then b else a),
    (.ucmpeq, 0x92010203, fun a b => if a = b then 1 else 0),
    (.ucmpne, 0x93010203, fun a b => if a = b then 0 else 1),
    (.ucmplt, 0x94010203, fun a b => if a.toInt < b.toInt then 1 else 0),
    (.ucmple, 0x95010203, fun a b => if a.toInt ≤ b.toInt then 1 else 0),
    (.ucmpltn, 0x96010203, fun a b => if a.toNat < b.toNat then 1 else 0),
    (.ucmplen, 0x97010203, fun a b => if a.toNat ≤ b.toNat then 1 else 0),
    (.ufadd, 0x9E010203, fadd),
    (.ufmul, 0x9F010203, fmul) ]

/-- Uniform words that read g[D] as well (R444, R451). -/
def uniThree : List ((UniR → Instr) × Word × (Word → Word → Word → Word)) :=
  [ (.usel, 0x98010203, fun a b d => if d = 0 then b else a), (.uffma, 0xA0010203, ffma) ]

/-- Uniform words of one source (R441, R443). -/
def uniOne : List ((UniU → Instr) × Word × (Word → Word)) :=
  [ (.umov, 0x99010200, fun a => a),
    (.uneg, 0x99010201, fun a => 0 - a),
    (.unot, 0x99010202, fun a => a ^^^ 0xFFFFFFFF),
    (.uclz, 0x99010204, fun a => BitVec.ofNat 32 (if a = 0 then 32 else 31 - Nat.log2 a.toNat)),
    (.upopc, 0x99010205, fun a => BitVec.ofNat 32 ((List.range 32).countP fun i => a.getLsbD i)),
    (.ubrev, 0x99010206, fun a => a.reverse),
    (.uffs, 0x99010207, fun a => BitVec.ofNat 32 (((List.range 32).find? fun i => a.getLsbD i).getD 32)),
    (.uf2i, 0x99010210, f2i .nearest),
    (.ui2f, 0x99010214, i2f) ]

/-- Immediate uniform shifts (R452). -/
def uniShifts : List ((UniS → Instr) × (Word → Nat → Word)) :=
  [ (.ushli, fun a n => BitVec.ofNat 32 (a.toNat * 2 ^ n)),
    (.ushri, fun a n => BitVec.ofNat 32 (a.toNat / 2 ^ n)),
    (.usrai, fun a n => BitVec.ofInt 32 (a.toInt / 2 ^ n)),
    (.urotli, fun a n => if n = 0 then a else BitVec.ofNat 32 (a.toNat * 2 ^ n) ||| BitVec.ofNat 32 (a.toNat / 2 ^ (32 - n))) ]

/-- The path of a word that stays in its chain, with the result in its set's latch. -/
def chained (s : State) (p : Path) (o : Operands) (x : Word) : Path := p.done s.ticks p.nextPc (chainUni o.chain o.readsLatch x)

/-! ## Forms that stand inside their meanings -/

/-- LID: D alone is a register (R372). -/
def lidForm (o : LaneD) : Form :=
  { d := .vd o.d 1, a := .absent, b := .absent, accepts := regOnly, chain := true, uniSet := false, u := false, nw := o.nw }

/-- LWR: D a vector field, A a group field (R56, R375). -/
def lwrForm (o : LaneSel) : Form :=
  { d := .vd o.d 1, a := .a8 true o.a, b := .absent, accepts := regOnly, chain := false, uniSet := false, u := false, nw := false }

/-- A word without registers that accepts no prefix (R69). -/
def bareForm : Form := formCtl .absent .absent .absent noPfx

/-- A turn taken from the inputs, with the time before it. -/
def turned (s : State) (ts : List Turn) (dt : Nat) : State := { s with turns := ts }.pass dt

/-- The value of a finite FP32 magnitude in units of 2^-149, from its 31 bits (R84). -/
def magnitude (bits : Nat) : Nat :=
  if bits < 2 ^ 23 then bits else (2 ^ 23 + bits % 2 ^ 23) * 2 ^ (bits / 2 ^ 23 - 1)

/-- Neither an infinity nor a NaN (R84). -/
def IsFinite (w : Word) : Prop := field w 0 31 < 0x7F800000

/-- The exact value of a finite FP32 word in units of 2^-149 (R84). -/
def exactly (w : Word) : Int := if w.msb then -(magnitude (field w 0 31) : Int) else magnitude (field w 0 31)

/-- A half of a word as FP32: the BF16 element in bits lo + 15 to lo (R88). -/
def halfAt (w : Word) (lo : Nat) : Word := BitVec.ofNat 32 (field w lo 16 * 65536)

/-- rne_f32 of n/den, with the sign that an exact zero takes (R8, R84). -/
def rounded (n : Int) (den : Nat) (minusZero : Bool) : Word :=
  BitVec.ofNat 32 ((if n < 0 ∨ n = 0 ∧ minusZero = true then 2 ^ 31 else 0) + roundMag 23 n.natAbs den)

/-- rne_bf16 of n/den: 16 bits (R8, R88). -/
def roundedHalf (n : Int) (den : Nat) (minusZero : Bool) : Nat :=
  (if n < 0 ∨ n = 0 ∧ minusZero = true then 2 ^ 15 else 0) + roundMag 7 n.natAbs den

/-- k is the integer nearest to n/den, an even one where two are nearest (R86). -/
def NearestInt (k n : Int) (den : Nat) : Prop :=
  2 * (n - k * den).natAbs ≤ den ∧ (2 * (n - k * den).natAbs = den → k % 2 = 0)

/-- The rows of KD8 codes (R89): the lowest code, the width f of the fraction, and E + 6. -/
def kd8Rows : List (Nat × Nat × Nat) :=
  [(0x40, 5, 6), (0x60, 5, 5), (0x20, 4, 7), (0x30, 4, 4), (0x10, 3, 8), (0x18, 3, 3), (0x08, 2, 9), (0x0C, 2, 2), (0x04, 1, 10),
   (0x06, 1, 1), (0x02, 0, 11), (0x03, 0, 0)]

/-- The exact value of a KD8 code from 0x00 to 0x7F in units of 1 / (32 × 10^6): 10^E × (1 + 9F / 2^f), and 10^6 for 0x01 (R90). -/
def kd8Units (c : Nat) : Nat :=
  match kd8Rows.find? fun r => decide (r.1 ≤ c) && decide (c < r.1 + 2 ^ r.2.1) with
  | some (base, f, e) => 10 ^ e * (32 + 9 * (c - base) * 2 ^ (5 - f))
  | none => if c = 1 then 10 ^ 6 * 32000000 else 0

/-- rne_f32(10^s) (R92). -/
def tenTo (s : Int) : Word := rounded (10 ^ s.toNat : Nat) (10 ^ (-s).toNat) false

/-- |x| > 10^6 × 10^s of a word that is no NaN (R95). -/
def Above (x : Word) (s : Int) : Prop :=
  field x 0 31 = 0x7F800000 ∨
    field x 0 31 < 0x7F800000 ∧ 10 ^ (6 + s.toNat) * 2 ^ 149 < magnitude (field x 0 31) * 10 ^ (-s).toNat

/-- The KD8 code nearest to n/den of a sign, ties to the code whose bit 0 is 0 (R91). -/
def NearestCode (code : Nat) (neg : Bool) (n den : Nat) : Prop :=
  ∃ c, c < 128 ∧ code = (if c = 0 then 0 else if neg then 128 + c else c) ∧
    let dist := fun k => (((n * 32000000 : Nat) : Int) - ((kd8Units k * den : Nat) : Int)).natAbs
    ∀ k, k < 128 → dist c ≤ dist k ∧ (dist c = dist k → k ≠ c → c % 2 = 0)

/-- The lanes of a mask in lane i's run of G lanes, in ascending order (R95). -/
def scaleGroup (G : Nat) (m : Mask) (i : Nat) : List Nat := (lanesOf m).filter fun l => l / G = i / G

/-- What QNT8 writes in an active lane from A and B with scale groups of G lanes (R94, R95). -/
def IsQnt8 (G : Nat) (m : Mask) (a b : Nat → Word) (i : Nat) (w : Word) : Prop :=
  ∃ (l0 : Nat) (ls : List Nat) (s : Int) (r : Nat), scaleGroup G m i = l0 :: ls ∧ s = (((b l0).extractLsb' 8 8).toInt + r) ∧ r ≤ 3 ∧
    (∀ k, k < r → s - r + k < 127 ∧ ∃ l ∈ l0 :: ls, Above (a l) (s - r + k)) ∧
    (r = 3 ∨ 127 ≤ s ∨ ∀ l ∈ l0 :: ls, ¬Above (a l) s) ∧
    ∃ code sat, w.toNat = r * 2 ^ 17 + sat * 2 ^ 16 + (s % 256).toNat * 2 ^ 8 + code ∧
      (0x7F800000 < field (a i) 0 31 → code = 0x80 ∧ sat = 0) ∧
      (Above (a i) s → code = (if (a i).msb then 0x81 else 0x01) ∧ sat = 1) ∧
      (IsFinite (a i) → ¬Above (a i) s →
        sat = 0 ∧ NearestCode code (a i).msb (magnitude (field (a i) 0 31) * 10 ^ (-s).toNat) (2 ^ 149 * 10 ^ s.toNat))

/-! ## What the memory words ask for (R143, R144, R309, R369, R399, R414, R439, R440, R445, R454) -/

/-- LD. -/
def ldWord (o : LaneVM) (r : Operands) (g : Group) (p : Path) : MemWord :=
  { kind := .load, mf := o.mf.toNat, size := accessSize o.mf, ar := g.addr o.ar.toNat, single := o.u, off := laneOffset r g,
    data := fun _ => [], cmp := fun _ => 0, dst := if o.u then .bcast r.d.num p.lanes else .lanes r.d.num, cls := if o.u then 0 else 1 }

/-- ST. -/
def stWord (o : LaneVM) (r : Operands) (g : Group) : MemWord :=
  { kind := .store, mf := o.mf.toNat, size := accessSize o.mf, ar := g.addr o.ar.toNat, single := o.u, off := laneOffset r g,
    data := runBytes g r.d (accessRegs o.mf) (accessSize o.mf), cmp := fun _ => 0, dst := .nowhere, cls := if o.u then 0 else 1 }

/-- ATOM. -/
def atomWord (o : LaneVM) (r : Operands) (g : Group) (p : Path) : MemWord :=
  let bs := runBytes g (if o.u then .g r.d.num else r.d) (atomRegs o.mf) (4 * atomRegs o.mf)
  { kind := .atom, mf := o.mf.toNat, size := atomSize o.mf, ar := g.addr o.ar.toNat, single := o.u, off := laneOffset r g,
    data := fun i => if o.mf.toNat = 10 then (bs i).drop 4 else bs i, cmp := fun i => if o.mf.toNat = 10 then leNat ((bs i).take 4) else 0,
    dst := if o.u then .bcast r.d.num (p.lanes &&& ~~~g.helper) else .lanes r.d.num, cls := if o.u then 0 else 1 }

/-- RED. -/
def redWord (o : LaneVM) (r : Operands) (g : Group) : MemWord :=
  { kind := .red, mf := o.mf.toNat, size := atomSize o.mf, ar := g.addr o.ar.toNat, single := o.u, off := laneOffset r g,
    data := runBytes g r.d (atomRegs o.mf) (4 * atomRegs o.mf), cmp := fun _ => 0, dst := .nowhere, cls := if o.u then 0 else 1 }

/-- ULD. -/
def uldWord (o : UniM) (r : Operands) (g : Group) : MemWord :=
  { kind := .load, mf := o.mf.toNat, size := accessSize o.mf, ar := g.addr o.ar.toNat, single := true,
    off := fun _ => sextNat o.imm.toNat 9 * accessSize o.mf + pfxOffset r.ps, data := fun _ => [], cmp := fun _ => 0,
    dst := .uni r.d.num, cls := 0 }

/-- UST. -/
def ustWord (o : UniM) (r : Operands) (g : Group) : MemWord :=
  { kind := .store, mf := o.mf.toNat, size := accessSize o.mf, ar := g.addr o.ar.toNat, single := true,
    off := fun _ => sextNat o.imm.toNat 9 * accessSize o.mf + pfxOffset r.ps,
    data := runBytes g r.d (accessRegs o.mf) (accessSize o.mf), cmp := fun _ => 0, dst := .nowhere, cls := 0 }

/-- UATOM. -/
def uatomWord (o : UniM) (r : Operands) (g : Group) : MemWord :=
  let bs := runBytes g r.d (atomRegs o.mf) (4 * atomRegs o.mf) 0
  { kind := .atom, mf := o.mf.toNat, size := atomSize o.mf, ar := g.addr o.ar.toNat, single := true,
    off := fun _ => sextNat o.imm.toNat 9 * atomSize o.mf + pfxOffset r.ps,
    data := fun _ => if o.mf.toNat = 10 then bs.drop 4 else bs, cmp := fun _ => if o.mf.toNat = 10 then leNat (bs.take 4) else 0,
    dst := .uni r.d.num, cls := 0 }

/-- Every lane's access reached plain memory: nothing traps, no page is missing, no tile is away (R144, R145, R208, R212). -/
def AllPlain (ls : List LaneX) : Prop := ∀ l ∈ ls, ∃ key, l.x = .mem key

/-- The lanes of a memory word that perform their access, with the address and the key each reached (R25). -/
def liveLanes (w : MemWord) (g : Group) (p : Path) (ls : List LaneX) : List LaneX := ls.filter fun l => w.performs g p l.lane

/-- The state in which a memory word forms its accesses: a releasing word has dropped what its path had loaded before (R197). -/
def afterRelease (s : State) (g : Group) (slot : Bool) (ps : Prefixes) : State :=
  if (memOrder ps).getLsbD 1 then s.setGroup (g.modPath slot Path.forget) else s

/-- The checks of a memory word before its accesses (R144, R145, R195, R197, R198). A scope above SCOPE.MAX raises SCOPE_DENIED, and does so where
the address register is invalid too (log 28); an invalid one raises ADDRESS; a word that releases waits for its release; and a trap among the
lanes is raised with the lanes and the address of R145, every active lane where one access stands for all. -/
def ChecksFirst (i : Instr) (s : State) (g : Group) (slot : Bool) (p : Path) (ps : Prefixes) (w : MemWord) : Prop :=
  let waits := (memOrder ps).getLsbD 1 = true ∧ p.released = false ∧ s.released g (memScope ps) = false
  (s.scopeMax g < (memScope ps).toNat → exec i s = .next (s.trapPath g.id slot .scopeDenied p.lanes 0)) ∧
  ((memScope ps).toNat ≤ s.scopeMax g → w.ar.valid = false → exec i s = .next (s.trapPath g.id slot .address p.lanes 0)) ∧
  ((memScope ps).toNat ≤ s.scopeMax g → w.ar.valid = true → waits → exec i s = .next (s.parkPath g.id slot (.release (memScope ps)))) ∧
  (∀ s1 ls c m a, (memScope ps).toNat ≤ s.scopeMax g → w.ar.valid = true → ¬waits →
    ((afterRelease s g slot ps).mature.dropReplays g.id slot).reachLanes g w.kind.access w.ar w.size w.off (w.lanes p) = (s1, ls) →
    laneTrap ls = some (.trap c m a) → exec i s = .next (s1.trapPath g.id slot c (if w.single then p.lanes else m) a))

/-- The partials of an update-only line after a contribution that meets none of another place, width or code (R200). -/
def contributed (code width : Nat) (ps : List Partial) (off x : Nat) : List Partial :=
  if ps.any fun p => p.off == off && p.width == width && p.code == code then
    ps.map fun p => if p.off == off && p.width == width && p.code == code then { p with data := atomOp code p.data x 0 } else p
  else ps ++ [⟨off, width, code, x⟩]

/-- The accesses of a word are all to one line, and none meets a held partial, or another access, of another place, width or code. -/
structure OneLine (w : MemWord) (live : List LaneX) (held : List Partial) (n : Nat) : Prop where
  line : ∀ x ∈ live, ∃ key, x.x = .mem key ∧ key / 128 = n
  held : ∀ q ∈ held, ∀ x ∈ live, ∀ key, x.x = .mem key → q.off < key % 128 + w.size → key % 128 < q.off + q.width →
    q.off = key % 128 ∧ q.width = w.size ∧ q.code = w.mf
  apart : ∀ x ∈ live, ∀ y ∈ live, ∀ k l, x.x = .mem k → y.x = .mem l → k % 128 < l % 128 + w.size → l % 128 < k % 128 + w.size → k = l

/-- A memory word may go out: its scope is allowed, its address register is valid, what it releases has been released, and every lane's
address reaches plain memory (R144, R195, R198). -/
structure GoesOut (s : State) (g : Group) (slot : Bool) (p : Path) (ps : Prefixes) (w : MemWord) (s1 : State) (ls : List LaneX) : Prop where
  scope : (memScope ps).toNat ≤ s.scopeMax g
  valid : w.ar.valid = true
  release : (memOrder ps).getLsbD 1 = true → p.released = true ∨ s.released g (memScope ps) = true
  reached : ((afterRelease s g slot ps).mature.dropReplays g.id slot).reachLanes g w.kind.access w.ar w.size w.off (w.lanes p) = (s1, ls)
  plain : AllPlain ls
  some_lane : liveLanes w g p ls ≠ []

/-- The request of a memory word is out: one access for each performing lane, at the address and with the data the word gave, and no
register of the group has changed. -/
structure Posted (t : State) (g : Group) (slot : Bool) (p : Path) (w : MemWord) (ls : List LaneX) (f : Flight) : Prop where
  posted : f ∈ t.flights
  owner : f.grp = g.id ∧ f.slot = slot
  asks : f.kind = w.kind ∧ f.mf = w.mf ∧ f.size = w.size ∧ f.dst = w.dst
  lanes : f.accs.map (fun a => (a.lane, a.va, Xlat.mem a.key, a.data, a.cmp)) =
    (liveLanes w g p ls).map fun l => (l.lane, l.va, l.x, w.data l.lane, w.cmp l.lane)

/-- The registers of a group in a state are those of another group. -/
def SameRegs (t : State) (g : Group) : Prop :=
  ∃ x, t.group? g.id = some x ∧ x.v = g.v ∧ x.g = g.g ∧ x.trap = g.trap ∧ x.stack = g.stack ∧ x.areg = g.areg

/-- The path of a group waits on something. -/
def Waits (t : State) (gid : Nat) (slot : Bool) (w : Wait) : Prop :=
  ∃ x q, t.group? gid = some x ∧ x.path slot = some q ∧ q.wait = w

/-- The path of a group stands at the word after, its word complete; of what it has loaded before its words (log 3), some may be dropped. -/
def GoesOn (t : State) (gid : Nat) (slot : Bool) (p : Path) (s : State) : Prop :=
  ∃ x e, t.group? gid = some x ∧ x.path slot = some { p.after s with early := e }

/-- Lanes of a scratchpad word: one stands for all where it makes a single access. -/
def scratchLanesOf (single : Bool) (p : Path) : List Nat := if single then [0] else lanesOf p.lanes

/-- A scratchpad word's accesses are sound: every lane's address is in its member and aligned, and every member has started (R147, R148). -/
def ScratchSound (s : State) (g : Group) (ls : List LaneX) : Prop := laneTrap ls = none ∧ s.absentMember g ls = none

/-- A byte of a block's scratchpad that no lane of a store writes. -/
def Untouched (s : State) (g : Group) (size : Nat) (ls : List LaneX) (bid o : Nat) : Prop :=
  ∀ l ∈ ls, ∀ b, s.memberBlock g (memberOf l.va) = some b → b.id = bid → o < offsetOf l.va ∨ offsetOf l.va + size ≤ o

/-- The path at the word after, its next word not before the n cycles of its bank accesses have passed (R149). -/
def afterBanks (p : Path) (s : State) (g : Group) (n : Nat) : Path :=
  match s.cluster? g.cluster with
  | some c => if n ≤ 1 then p.after s else { p.after s with busyUntil := c.cycleStart s.ticks n, readyAt := c.cycleStart s.ticks n }
  | none => p.after s

/-- The lanes of a scratchpad store that write: helper lanes do not (R25, R416). -/
def storing (g : Group) (p : Path) (single : Bool) (ls : List LaneX) : List LaneX :=
  ls.filter fun l => if single then p.lanes &&& ~~~g.helper != 0 else !g.helper.getLsbD l.lane

/-- A byte of a block's scratchpad after the lanes of a store in ascending order: a lane that stores to it leaves its own (R193, R416). -/
def storedByte (s : State) (g : Group) (data : Nat → List Byte) (ls : List LaneX) (bid o : Nat) (old : Byte) : Byte :=
  ls.foldl (fun x l =>
    match s.memberBlock g (memberOf l.va) with
    | some b => if b.id = bid ∧ offsetOf l.va ≤ o then ((data l.lane)[o - offsetOf l.va]?).getD x else x
    | none => x) old

/-- A scratchpad store of a word has been performed: the path goes on with its registers as they are, memory is as before, every byte that no
lane stores to is as before, and every byte of a block without a factor command's arrays is what the lanes leave in it. -/
structure ScratchStored (s t : State) (g : Group) (slot : Bool) (p : Path) (single : Bool) (size : Nat) (data : Nat → List Byte)
    (ls : List LaneX) : Prop where
  path : ∃ x, t.group? g.id = some x ∧
    x.path slot = some (afterBanks p s g (s.bankCycles g ((storing g p single ls).map fun l => (l.va, size))))
  regs : SameRegs t g
  memory : ∀ a, t.mem.byte a = s.mem.byte a
  frame : (∀ l ∈ ls, ∀ b, s.memberBlock g (memberOf l.va) = some b → s.block? b.id = some b) → ∀ k b, s.block? k = some b →
    ∃ b', t.block? k = some b' ∧ (∀ o, Untouched s g size ls k o → b'.scratch.byte o = b.scratch.byte o) ∧
      (b.claims = [] → ∀ o, b'.scratch.byte o = storedByte s g data (storing g p single ls) k o (b.scratch.byte o))

/-- The form of TRW's window is the word's; the block of its address has started (R148). -/
def WindowReady (s : State) (g : Group) (w : WinReg) : Prop := w.valid = true ∧ (s.memberBlock g (memberOf w.addr.toNat)).isSome = true

/-- A barrier word at an address of the group's gang: its block, its bytes as a number, no poison (R319 to R321). -/
structure BarrierAt (s : State) (g : Group) (p : Path) (x : Nat) (b : Block) (w : Nat) : Prop where
  block : s.barrierAt g p x = .ok b
  stored : s.block? b.id = some b
  word : leNat (b.scratch.bytes (offsetOf x) 8) = w
  formed : barMalformed w = false
  clean : firstPoison b.psn (offsetOf x) 8 = none
  free : b.claims = []

/-- The barrier word after an arrival of count c: EXPECT stays; the arrival that completes it clears ARRIVED and flips PHASE (R322). -/
def Arrived (t : State) (b : Block) (x w c : Nat) : Prop :=
  ∃ b', t.block? b.id = some b' ∧
    let w' := leNat (b'.scratch.bytes (offsetOf x) 8)
    barExpect w' = barExpect w ∧
    (barArrived w + c = barExpect w → barArrived w' = 0 ∧ barPhase w' = !barPhase w) ∧
    (barArrived w + c ≠ barExpect w → barArrived w' = barArrived w + c ∧ barPhase w' = barPhase w) ∧
    ∀ o, o < offsetOf x ∨ offsetOf x + 8 ≤ o → b'.scratch.byte o = b.scratch.byte o

/-- The path of a group waits for a barrier's phase to differ from one, in its core's file or polling (R323). -/
def WaitsAt (t : State) (g : Group) (slot : Bool) (b : Block) (x : Nat) (phase : Bool) : Prop :=
  ∃ poll, Waits t g.id slot (.barrier b.id (offsetOf x) phase poll)


/-- The path of a group is q. -/
def PathIs (t : State) (gid : Nat) (slot : Bool) (q : Path) : Prop := ∃ x, t.group? gid = some x ∧ x.path slot = some q

/-- A request of the host that needs the station's firmware finds it in charge (R281, R293, R296). -/
def Served (s : State) : Prop := s.station.inCharge = true

/-- A command of the factor sequencer has been posted: it stands in posting order, the group counts one operation more, its arrays are claimed and
the sequencer sees their bytes, and the path has gone on. -/
structure FactorPosted (s t : State) (g : Group) (slot : Bool) (p : Path) (c : Cluster) (solve : Bool) (w : List Word) : Prop where
  command : ∃ c' k, t.cluster? g.cluster = some c' ∧ c'.factor = insertBy FactorCmd.postKey k c.factor ∧ k.grp = g.id ∧
    k.block = g.block ∧ k.ctx = g.ctx ∧ k.solve = solve ∧ k.desc = w ∧ k.next = 0 ∧ k.started = false ∧ k.psn = false ∧
    k.cycle = s.cycleNo g.cluster ∧ k.rank = g.postRank ∧
    ∀ b, s.block? g.block = some b → ∃ b', t.block? g.block = some b' ∧
      b'.claims = b.claims ++ (facDesc solve w).arrays.map (fun r => { cmd := k.id, grp := g.id, off := r.1, len := r.2, done := false }) ∧
      (b.claims = [] → ∀ r ∈ (facDesc solve w).arrays, ∀ o, r.1 ≤ o → o < r.1 + r.2 → b'.shadow.byte o = b.scratch.byte o)
  group : ∃ g', t.group? g.id = some g' ∧ g'.path slot = some (p.after s) ∧ g'.outstanding = g.outstanding + 1 ∧ g'.g = g.g ∧ g'.v = g.v
  memory : ∀ a, t.mem.byte a = s.mem.byte a

/-- The outputs of matrix m of a command and its status word, at the places of R132. -/
structure Outputs (mem : Memory) (d : FacDesc) (m : Nat) (x : Fac) (status : Word) : Prop where
  matrix : d.solve = false → ∀ i j, i < d.n → j < d.n → (d.op = 1 ∨ j ≤ i) →
    leNat (mem.bytes (d.mofs + 4 * (d.n * d.n * m + i + d.n * j)) 4) = (wordOf (x.at d.n i j)).toNat
  rhs : d.solve = true → ∀ i c, i < d.n → c < d.nrhs →
    leNat (mem.bytes (d.rofs + 4 * (d.n * d.nrhs * m + i + d.n * c)) 4) = (wordOf (x.rhs d.n i c)).toNat
  pivots : d.solve = false → d.op = 1 → ∀ j, j < d.n → mem.byte (d.pofs + d.n * m + j) = BitVec.ofNat 8 ((x.piv[j]?).getD 0)
  status : leNat (mem.bytes (d.sofs + 4 * m) 4) = status.toNat

/-- A matrix of a command is complete. Its outputs and status word stand where no input is poisoned, no pivot byte is out of range, no other group
has written into the arrays and they do not overlap (R133, R135, R136, R139); CHOL leaves the strictly upper triangle, and nothing outside the
matrix's own arrays changes. -/
structure MatrixDone (s t : State) (cl : Nat) (c : Cluster) (k : FactorCmd) (b : Block) (g : Group) : Prop where
  results : let d := k.form
    let x := d.run (d.load b.shadow k.next)
    ∃ b', t.block? k.block = some b' ∧ b'.scratch = b.scratch ∧
      (∀ o, (∀ r ∈ d.parts k.next, o < r.1 ∨ r.1 + r.2 ≤ o) → d.op ≤ 1 ∨ d.solve = true → b'.shadow.byte o = b.shadow.byte o) ∧
      (b.hits = [] → (∀ r ∈ d.reads k.next, firstPoison b.psn r.1 r.2 = none) → x.wild = false → d.overlap k.next = [] →
        d.op ≤ 1 ∨ d.solve = true →
        Outputs b'.shadow d k.next x (x.status (s.taking k.ctx)) ∧
        (d.solve = false → d.op = 0 → ∀ i j, i < j → j < d.n → ∀ o, o < 4 →
          b'.shadow.byte (d.mofs + 4 * (d.n * d.n * k.next + i + d.n * j) + o) =
            b.shadow.byte (d.mofs + 4 * (d.n * d.n * k.next + i + d.n * j) + o))) ∧
      (k.form.batch ≤ k.next + 1 → ∀ q ∈ b'.claims, q.cmd = k.id → q.done = true)
  energy : t.contexts = ((s.took k.ctx).charge k.ctx 9 k.form.n).contexts
  next : let bad := k.psn || (k.form.reads k.next).any fun r => (firstPoison b.psn r.1 r.2).isSome
    k.next + 1 < k.form.batch → ∃ c', t.cluster? cl = some c' ∧ c'.factor = mapIf (fun x => x.id == k.id)
      (fun _ => { k with psn := bad, next := k.next + 1, due := k.due + k.form.cycles * s.cycle cl,
                         started := ((s.ctx? k.ctx).map fun x => x.state == .live).getD false }) c.factor
  last : let bad := k.psn || (k.form.reads k.next).any fun r => (firstPoison b.psn r.1 r.2).isSome
    k.form.batch ≤ k.next + 1 → ∃ c' g', t.cluster? cl = some c' ∧ c'.factor = c.factor.filter (fun x => x.id != k.id) ∧
      t.group? k.grp = some g' ∧ g'.outstanding = g.outstanding - 1 ∧ g'.psnOps = g.psnOps + if bad then 1 else 0

/-- The 64-bit sum of R101: x × 2^f less the products, clamped after each. -/
def clampedSum (f : Nat) (x : Int) (ps : List Int) : Int := ps.foldl (fun s p => max (-2 ^ 63) (min (2 ^ 63 - 1) (s - p))) (x * 2 ^ f)

/-- No input of a set of a pass is poisoned (R127). -/
structure CleanSet (s : State) (q : Pass) (x : MSet) (g : Group) : Prop where
  noted : x.psn = false
  rows : ∀ r ∈ q.rowsFor x.id true ++ q.rowsFor x.id false, r.psn = (false, false)
  bytes : ∀ i ∈ x.quarters, i ∉ (x.side.getD (s.sideOf g x)).taint

/-- An element is a zero. -/
def IsZeroElem (x : Fp) : Prop := x = .fin false 0 ∨ x = .fin true 0

/-- A product with a zero factor is left out (R117). -/
def productOf (x y : Fp) : List Fp :=
  match x, y with
  | .fin _ 0, _ => []
  | _, .fin _ 0 => []
  | _, _ => [fpMul x y]

/-- The products of slice kc (R117). -/
def productsOf (a b : Operand) (kc : Nat) : List Fp :=
  if b.present kc then (List.range 8).flatMap fun j => productOf (a.elem (8 * kc + j)) (b.elem (8 * kc + j)) else []

/-- The magnitudes of finite products. -/
def magnitudesOf (ps : List Fp) : List Nat := ps.map fun p => match p with
  | .fin _ n => n
  | _ => 0

/-- t of a slice whose products are not empty (R117): the exponent of the largest magnitude is taken, and each is cut at 64 places below it. -/
def slicePart (ps : List Fp) : Word :=
  if Fp.nan ∈ ps ∨ Fp.inf true ∈ ps ∧ Fp.inf false ∈ ps then 0x7FC00000
  else if Fp.inf false ∈ ps then 0x7F800000
  else if Fp.inf true ∈ ps then 0xFF800000
  else
    let e := (magnitudesOf ps).foldl (fun m n => max m (Nat.log2 n)) 0
    let cut := fun (n : Nat) => (n - n % 2 ^ (e - 64) : Nat)
    let sum : Int := ps.foldl (fun t p => match p with
      | .fin neg n => if neg then t - cut n else t + cut n
      | _ => t) 0
    ftz (rneF32 u2 (.fin (decide (sum < 0)) sum.natAbs))

/-- Slice kc added to an accumulator (R117). -/
def addSlice (scaled : Bool) (a b : Operand) (acc : Word) (kc : Nat) : Word :=
  let ps := productsOf a b kc
  let t := slicePart ps
  let u := if scaled then ftz (Machine.fmul t (tenPow (a.scale kc + b.scale kc))) else t
  if ps = [] ∨ t = 0 ∨ t = 0x80000000 ∨ u = 0 ∨ u = 0x80000000 then acc else ftz (Machine.fadd acc u)

/-- An output (R117). -/
def sumOfSlices (scaled : Bool) (slices : Nat) (a b : Operand) (init : Word) : Word :=
  let w := (List.range slices).foldl (addSlice scaled a b) (ftz init)
  if isNaN w then 0x7FC00000 else w

/-- A queue of a function. -/
def QueueIs (t : State) (vf q : Nat) (x : SubQueue) : Prop := ∃ v, t.vf? vf = some v ∧ v.queues[q]? = some x

/-- A context comes to a state of its life. -/
def Becomes (t : State) (cid : Nat) (k : CtxState) : Prop := ∃ c, t.ctx? cid = some c ∧ c.state = k
end Sys2Proof.Claims

section
open Sys2Proof Sys2Proof.Machine Sys2Proof.Claims

/-- R53 to R73: the decoder reads every well-formed instruction back from its word, with every operand at every value its encoding
admits. -/
def Obligations.DecodeReadsBackEveryWord : Prop :=
  ∀ i w, encode i = some w → wellFormed i = true → decode w = .ok i

/-- R53 to R73: a pattern that decodes is the word of a well-formed instruction, so that no bit of it is passed over. -/
def Obligations.DecodedPatternIsItsWord : Prop :=
  ∀ w i, decode w = .ok i → encode i = some w ∧ wellFormed i = true

/-- Words written out in the spec: the all-zero and the all-ones word (R73), and the examples of R303, R307, R327, R328, R309, R360,
R398, R417, R420, R434, R436, R447, R155, R68.

R73: the opcodes that R58 and R63 leave out, and PFX kind 0b11, are no instructions, whatever the rest of the word. -/
def Obligations.SpecWordsDecode : Prop :=
  (decode 0x00000000 = .ok (.iadd ⟨false, false, 0, 0, 0⟩) ∧
   decode 0xFFFFFFFF = .error .badValue ∧
   decode 0x0D818283 = .ok (.abs ⟨false, false, 3, 5⟩) ∧
   decode 0x04008103 = .ok (.and ⟨false, false, 1, 2, 3⟩) ∧
   decode 0x05808103 = .ok (.andn ⟨false, false, 1, 2, 3⟩) ∧
   decode 0x010383FF = .ok (.iaddi ⟨false, false, 7, 7, 0x7F⟩) ∧
   decode 0x1B010184 = .ok (.bperm ⟨false, false, 2, 3, 4⟩) ∧
   decode 0xA8000003 = .ok (.bra 3) ∧
   decode 0x1E020320 = .ok (.atom ⟨false, 4, 6, 2, 0⟩) ∧
   decode 0x80010203 = .ok (.uadd ⟨1, 2, 3⟩) ∧
   decode 0x820404FF = .ok (.uaddi ⟨4, 4, 0xFF⟩) ∧
   decode 0x9A280007 = .ok (.uli ⟨40, 7⟩) ∧
   decode 0xE1050002 = .ok (.sysrd ⟨5, 2⟩) ∧
   decode 0xE2000520 = .ok (.syswr ⟨5, 0x20⟩) ∧
   decode 0xD4011400 = .ok (.twset ⟨1, 20⟩) ∧
   decode 0xC8011415 = .ok (.qbind ⟨1, 20, 21⟩) ∧
   decode 0xFF400014 = .ok (.pfxImm 20) ∧
   decode 0xFFA80000 = .ok (.pfxMem ⟨5, 0, 0, 0⟩)) ∧
  ((∀ w : Word, w.getLsbD 31 = false → fOp6 w = 0x31 → ∃ e, decode w = .error e) ∧
   ∀ w : Word, w.getLsbD 31 = true →
     (0x22 ≤ (fOp7 w).toNat ∧ (fOp7 w).toNat ≤ 0x27 ∨ (fOp7 w).toNat = 0x3F ∨ 0x4A ≤ (fOp7 w).toNat ∧ (fOp7 w).toNat ≤ 0x4F ∨
       (fOp7 w).toNat = 0x56 ∨ (fOp7 w).toNat = 0x57 ∨ 0x5B ≤ (fOp7 w).toNat ∧ (fOp7 w).toNat ≤ 0x5F ∨
       0x63 ≤ (fOp7 w).toNat ∧ (fOp7 w).toNat ≤ 0x7E ∨ (fOp7 w).toNat = 0x7F ∧ w.extractLsb' 22 2 = 3) →
     ∃ e, decode w = .error e)

/-- The turns of a step. A command of the host that has waited for the station is served before anything else once an image is in charge (R296,
log 48). A core's turn with the path that its choices of the cycle name, at no join, executes the word its fetch finds,
after the sibling path has lost its latches (R46) and accumulators that no MWAIT covers read new values (R120), and the path is the one
that executes; a pattern that is no instruction raises ILLEGAL (R73); a path at its join reaches it instead (R36); a core without a choice
left does nothing; an external event and elapsed time are turns of their own (log 1).

Left to itself, the part takes the first event that is due, else what is left of a core's choices of the cycle, else a word of the next
busy core after that core's cycle, else lets a cycle of the uncore clock pass (the model's own schedule, log 1).

R13, R50: what a core chooses in a cycle. Every choice is an eligible path. At most two of those that issue go to the vector pipes, from
different groups, and at most one to the uniform pipe; and no eligible path at no join ranks before every choice of its pipe. -/
def Obligations.StepRunsDecodedWord : Prop :=
  ((∀ (s s0 : State) dt cl core ts g slot p s1 w,
     s.heldNext = none → s.turns = .issue dt cl core :: ts → (turned s ts dt).takePlan cl core = (s0, some (g, slot, p)) →
     s0.atJoin g p = false → s0.fetch g p = (s1, .word w) →
     (∀ i, decode w = .ok i → step s = exec i (s1.readyFor g slot)) ∧
     (∀ e, decode w = .error e → step s = .next (s1.trapPath g.id slot .illegal p.lanes 0))) ∧
   (∀ (s1 : State) g slot p, s1.group? g.id = some g → g.path slot = some p → (∀ a ∈ g.accRuns, a.quarter < 4) →
     ∃ g', (s1.readyFor g slot).At g' slot p ∧ g'.g = g.g ∧ g'.stack = g.stack ∧ g'.trap = g.trap ∧
       (∀ o, g'.path (!slot) = some o → o.chain = Chain.none) ∧
       ∀ r i, i < 32 → g.accBusy r i = false → g'.vreg r i = g.vreg r i) ∧
   (∀ (s s0 : State) dt cl core ts g slot p, s.heldNext = none →
     s.turns = .issue dt cl core :: ts → (turned s ts dt).takePlan cl core = (s0, some (g, slot, p)) → s0.atJoin g p = true →
     step s = exec (.reachJoin g.id slot) s0) ∧
   (∀ (s s0 : State) dt cl core ts, s.heldNext = none → s.turns = .issue dt cl core :: ts →
     (turned s ts dt).takePlan cl core = (s0, none) → step s = .next s0) ∧
   (∀ (s : State) dt e ts, s.heldNext = none → s.turns = .event dt e :: ts → e.isWord = false → step s = exec e (turned s ts dt)) ∧
   (∀ (s : State) dt ts, s.heldNext = none → s.turns = .wait dt :: ts → step s = .next (turned s ts dt)) ∧
   (∀ (s : State) c bs cs, s.station.inCharge = true → s.held = bs ++ c :: cs → (∀ b ∈ bs, b.waits s = true) → c.waits s = false →
     step s = c.exec { s with held := bs ++ cs })) ∧
  ((∀ (s t : State), s.heldNext = none → s.turns = [] → (s.ownEvents.findSome? fun e => e s) = some t → step s = .next t) ∧
   (∀ (s : State), s.heldNext = none → s.turns = [] → (s.ownEvents.findSome? fun e => e s) = none →
     (∀ cl core, s.openPlan = some (cl, core) → step s = issueCore s cl core) ∧
     (∀ c, s.openPlan = none → s.busyCore s.nextCore = some c →
       step s = issueCore { s.pass (s.cycle (c / 4)) with nextCore := c + 1 } (c / 4) (c % 4)) ∧
     (s.openPlan = none → s.busyCore s.nextCore = none → step s = .next (s.pass 12)))) ∧
  (∀ (s : State) cl core,
     let l := s.picks cl core
     let lane := l.filter fun c => !s.atJoin c.1 c.2.2 && !s.uniformNext c
     let uni := l.filter fun c => !s.atJoin c.1 c.2.2 && s.uniformNext c
     let key := fun (c : Candidate) => s.issueKey c.1 c.2.1 c.2.2
     (∀ c ∈ l, c ∈ s.candidates cl core) ∧ lane.length ≤ 2 ∧ (lane.map fun c => c.1.id).Nodup ∧ uni.length ≤ 1 ∧
     ∀ c ∈ s.candidates cl core, s.atJoin c.1 c.2.2 = false →
       ∃ x ∈ (if s.uniformNext c then uni else lane), keyLe (key x) (key c) = true)

/-- R29, R53, R208: a path's next word is the four bytes, little-endian, at the launch's code base plus its offset; a page of another
kind, an address outside the canonical range and a misaligned one trap. That a poisoned byte of the word raises POISON is the model's
reading (log 25): R208 gives a fetch POISON for a table entry, R279 speaks of loads. -/
def Obligations.FetchReadsTheCodeWord : Prop :=
  ∀ (s : State) (g : Group) (p : Path) (l : Launch),
    s.launch? g.launch = some l →
    let va := l.lpb.codeBase + p.wordPc.toNat
    (canonicalRange va 4 = false → s.fetch g p = (s, .trap .address)) ∧
    (canonicalRange va 4 = true → va % 4 ≠ 0 → s.fetch g p = (s, .trap .misaligned)) ∧
    (∀ s1 key, canonicalRange va 4 = true → va % 4 = 0 → s.mature.translate g.ctx g.secure .fetch va = (s1, .mem key) →
      let s2 := s1.recall (key / 128)
      (firstPoison s2.poison key 4 = none →
        s.fetch g p = (s2, .word (s2.mem.byte (key + 3) ++ s2.mem.byte (key + 2) ++ s2.mem.byte (key + 1) ++ s2.mem.byte key))) ∧
      (∀ a, firstPoison s2.poison key 4 = some a → s.fetch g p = (s2, .trap .poison))) ∧
    (∀ s1 r c, canonicalRange va 4 = true → va % 4 = 0 → s.mature.translate g.ctx g.secure .fetch va = (s1, .fault r c) →
      s.fetch g p = (s1, .trap c))

/-- Every word of the instruction set answers a next state wherever a path is selected: its effect, its trap or its park; and every event
answers one in every state: its effect, or nothing where it cannot occur (log 48). -/
def Obligations.EveryWordGoesOn : Prop :=
  (∀ i (s : State), i.isWord = true → s.here.isSome = true → ∃ t, exec i s = .next t) ∧
  ∀ i (s : State), i.isWord = false → ∃ t, exec i s = .next t

/-- R56, R57, R27: without a prefix, the fields of a plain lane word name the vector registers of their values, or under U = 1 the group
registers in A and B; a number out of bounds raises REG_BOUNDS.

R62, R27: without a prefix, the fields of a uniform word name the group registers of their values.

R28, R66: a REG prefix with REL on A adds the signed value of g[IDX] to A's number, and the sum is checked against the bounds; an
index outside the allocation raises REG_BOUNDS.

R69, R70, R44: three prefixes, two of one kind, and a prefix of a kind the word does not accept make the word ILLEGAL; so does
NW = 1 on a word that no chain takes. -/
def Obligations.FieldsNameRegisters : Prop :=
  (∀ (g : Group) (p : Path) (o : LaneR), p.pfx = [] → o.d.toNat < 0xF4 → o.a.toNat < 0xF4 → o.b.toNat < 0x7C →
     (o.u = false → o.d.toNat < g.vCount ∧ o.a.toNat < g.vCount ∧ o.b.toNat < g.vCount →
       (formR o regOnly).operands g p =
         .ok ⟨.v o.d.toNat, .v o.a.toNat, .v o.b.toNat, Prefixes.none, some p.chainNow, false⟩) ∧
     (o.u = false → ¬(o.d.toNat < g.vCount ∧ o.a.toNat < g.vCount ∧ o.b.toNat < g.vCount) →
       (formR o regOnly).operands g p = .error (.trap .regBounds p.lanes 0)) ∧
     (o.u = true → o.nw = false → o.d.toNat < g.vCount ∧ o.a.toNat < g.gCount ∧ o.b.toNat < g.gCount →
       (formR o regOnly).operands g p =
         .ok ⟨.v o.d.toNat, .g o.a.toNat, .g o.b.toNat, Prefixes.none, none, false⟩) ∧
     (o.u = true → o.nw = false → ¬(o.d.toNat < g.vCount ∧ o.a.toNat < g.gCount ∧ o.b.toNat < g.gCount) →
       (formR o regOnly).operands g p = .error (.trap .regBounds p.lanes 0)) ∧
     (o.u = true → o.nw = true → (formR o regOnly).operands g p = .error (.trap .illegal p.lanes 0))) ∧
  (∀ (g : Group) (p : Path) (o : UniR), p.pfx = [] → o.d.toNat < 0xFC → o.a.toNat < 0xFC → o.b.toNat < 0xFC →
     let f := formUni (.ud o.d 1) (.us o.a) (.us o.b) regOnly
     (o.d.toNat < g.gCount ∧ o.a.toNat < g.gCount ∧ o.b.toNat < g.gCount →
       f.operands g p = .ok ⟨.g o.d.toNat, .g o.a.toNat, .g o.b.toNat, Prefixes.none, some p.chainNow, false⟩) ∧
     (¬(o.d.toNat < g.gCount ∧ o.a.toNat < g.gCount ∧ o.b.toNat < g.gCount) →
       f.operands g p = .error (.trap .regBounds p.lanes 0))) ∧
  (∀ (g : Group) (p : Path) (o : LaneR) (q : PfxReg), p.pfx = [.reg q] → o.u = false → o.nw = false → q.rel = 2 → q.dh = 0 →
     q.ah = 0 → q.bh = 0 → q.b8 = false → o.d.toNat < 0xF4 → o.a.toNat < 0xF4 → o.b.toNat < 0xF4 → o.d.toNat < g.vCount →
     o.b.toNat < g.vCount →
     let e : Int := o.a.toNat + (g.greg q.idx.toNat).toInt
     (q.idx.toNat < g.gCount → 0 ≤ e → e < g.vCount →
       (formR o regOnly).operands g p = .ok ⟨.v o.d.toNat, .v e.toNat, .v o.b.toNat, ⟨some q, none, none⟩, none, false⟩) ∧
     (g.gCount ≤ q.idx.toNat ∨ e < 0 ∨ g.vCount ≤ e →
       (formR o regOnly).operands g p = .error (.trap .regBounds p.lanes 0))) ∧
  (∀ (f : Form) (g : Group) (p : Path) (ok : Prefixes → Bool),
     (3 ≤ p.pfx.length ∨ (∃ a b, p.pfx = [.reg a, .reg b]) ∨ (∃ a b, p.pfx = [.imm a, .imm b]) ∨
       (∃ a b, p.pfx = [.mem a, .mem b]) ∨ (∃ a, .reg a ∈ p.pfx) ∧ f.accepts.reg = false ∨
       (∃ a, .imm a ∈ p.pfx) ∧ f.accepts.imm = false ∨ (∃ a, .mem a ∈ p.pfx) ∧ f.accepts.mem = false ∨
       f.nw = true ∧ (f.u = true ∨ f.chain = false)) →
     f.operands g p ok = .error (.trap .illegal p.lanes 0))

/-- R43, R45: l0 to l3 in A read the latest results of the path's chain while they are valid and fewer than eight chain words before
have read latches; else the word raises ILLEGAL_LATCH.

R43, R45: after a lane-set chain word l0 holds its result and each older result moves one latch on; a chain ends after its 64th
word, so the word after it finds no latch valid. -/
def Obligations.LatchesReadTheChain : Prop :=
  (∀ (g : Group) (p : Path) (o : LaneR) (n : Nat), p.pfx = [] → o.u = false → o.d.toNat < 0xF4 → o.d.toNat < g.vCount → n < 4 →
     o.a.toNat = 0xFC + n → o.b.toNat < 0x7C → o.b.toNat < g.vCount →
     (n < p.chainNow.lane.length → p.chainNow.latchRun < 8 →
       ∃ r, (formR o regOnly).operands g p = .ok r ∧ r.chain = some p.chainNow ∧ r.readsLatch = true ∧ r.d = .v o.d.toNat ∧
         ∀ i x, (p.chainNow.lane[n]?).bind (fun l => l.vals[i]?) = some x → r.laneSrc g none r.a i = x) ∧
     (¬(n < p.chainNow.lane.length ∧ p.chainNow.latchRun < 8) →
       (formR o regOnly).operands g p = .error (.trap .illegalLatch p.lanes 0))) ∧
  ((∀ (c : Chain) reads vals m,
     let c1 := chainLane (some c) reads vals m
     c1.lane[0]? = some ⟨vals, m⟩ ∧ (∀ n, n < 3 → c1.lane[n + 1]? = c.lane[n]?) ∧ c1.uni = c.uni ∧ c1.len = c.len + 1) ∧
   (∀ (c : Chain) reads x,
     let c1 := chainUni (some c) reads x
     c1.uni[0]? = some x ∧ (∀ n, n < 3 → c1.uni[n + 1]? = c.uni[n]?) ∧ c1.lane = c.lane ∧ c1.len = c.len + 1) ∧
   (∀ p : Path, 64 ≤ p.chain.len → p.chainNow.lane = [] ∧ p.chainNow.uni = [] ∧ p.chainNow.len = 0))

/-- R49, R155, R157, R390: a word that pops a queue takes its oldest row, and from a multicast FIFO the oldest that this subscriber has not
taken; without a binding of the role it raises QUEUE; without a row, without room where it pushes, or past the 2W rows that the FIFO moves in
a cycle (R154), the path parks. A word that pops one queue and pushes another issues only where both conditions hold; where A and D name the same
queue, the pop condition alone applies. The words R300, R317 and R374 raise QUEUE alone here, so that a row's poison raises nothing (log 32). -/
def Obligations.QueueConditions : Prop :=
  ∀ (s : State) (g : Group) (m : Mask) (q : Nat),
    (s.fifoOf g q = none → queueCheck s g m (some q) none = .error (.trap .queue m 0) ∧
      queueCheck s g m none (some q) = .error (.trap .queue m 0)) ∧
    (∀ f role, s.fifoOf g q = some (f, role) →
      let cyc := s.cycleNo g.cluster
      (role.getLsbD 1 = false → queueCheck s g m (some q) none = .error (.trap .queue m 0)) ∧
      (role.getLsbD 0 = false → queueCheck s g m none (some q) = .error (.trap .queue m 0)) ∧
      (role.getLsbD 0 = true → queueCheck s g m none (some q) =
        if f.rows.length < f.depth ∧ f.accepts cyc = true then .ok none else .error (.park (.queue none (some q)))) ∧
      (role.getLsbD 1 = true → f.mc = false →
        (f.rows = [] ∨ f.delivers cyc = false → queueCheck s g m (some q) none = .error (.park (.queue (some q) none))) ∧
        (∀ r rs, f.rows = r :: rs → f.delivers cyc = true →
          queueCheck s g m (some q) none = .ok (some r))) ∧
      (∀ rd, role.getLsbD 1 = true → f.mc = true → f.reader? g.id q = some rd → f.base ≤ rd.pos →
        (f.base + f.rows.length ≤ rd.pos ∨ f.delivers cyc = false →
          queueCheck s g m (some q) none = .error (.park (.queue (some q) none))) ∧
        (∀ r, f.rows[rd.pos - f.base]? = some r → f.delivers cyc = true → queueCheck s g m (some q) none = .ok (some r)))) ∧
    queueCheck s g m none none = .ok none ∧
    (∀ q2, q2 ≠ q →
      (queueCheck s g m (some q) none = .error (.trap .queue m 0) ∨ queueCheck s g m none (some q2) = .error (.trap .queue m 0) →
        queueCheck s g m (some q) (some q2) = .error (.trap .queue m 0)) ∧
      (∀ r, queueCheck s g m (some q) none = .ok r → queueCheck s g m none (some q2) = .ok none →
        queueCheck s g m (some q) (some q2) = .ok r) ∧
      (∀ r, queueCheck s g m (some q) none = .ok r → queueCheck s g m none (some q2) = .error (.park (.queue none (some q2))) →
        queueCheck s g m (some q) (some q2) = .error (.park (.queue (some q) (some q2)))) ∧
      (∀ x, queueCheck s g m (some q) none = .error (.park (.queue (some q) none)) → queueCheck s g m none (some q2) = x →
        x ≠ .error (.trap .queue m 0) → queueCheck s g m (some q) (some q2) = .error (.park (.queue (some q) (some q2))))) ∧
    (∀ f role, s.fifoOf g q = some (f, role) →
      (role ≠ 3 → queueCheck s g m (some q) (some q) = .error (.trap .queue m 0)) ∧
      (∀ r, role = 3 → queueCheck s g m (some q) none = .ok r → queueCheck s g m (some q) (some q) = .ok r) ∧
      (role = 3 → queueCheck s g m (some q) none = .error (.park (.queue (some q) none)) →
        queueCheck s g m (some q) (some q) = .error (.park (.queue (some q) (some q)))))

/-- R48, R154: a pushed row goes behind the rows of the queue's FIFO, and a popped one leaves its head, each counted in the cycle's rate; no
other FIFO of the cluster changes.

R157: a row pushed into a multicast FIFO goes behind the others and stays while a subscriber has yet to take it; a pop moves the popping
subscriber's position by one and no other's, and the oldest rows leave that all N subscribers have taken, a retired one counting.

R48: the row a word pushes holds lane i's result in its active lanes and zero in the others. -/
def Obligations.QueueRowsMoveInOrder : Prop :=
  (∀ (s : State) (g : Group) (q : Nat) (f : Fifo) (role : BitVec 2), s.fifoOf g q = some (f, role) → f.mc = false →
     let cyc := s.cycleNo g.cluster
     (∀ r, (s.pushRow g q r).fifoOf g q =
       some ({ f with rows := f.rows ++ [r], rate := (cyc, (f.moved cyc).1 + 1, (f.moved cyc).2) }, role)) ∧
     (f.bound ≠ [] → (s.popRow g q).fifoOf g q =
       some ({ f with rows := f.rows.drop 1, base := f.base + 1, rate := (cyc, (f.moved cyc).1, (f.moved cyc).2 + 1) }, role)) ∧
     (∀ r k x rk, k ≠ f.first → s.cluster? g.cluster = some x → x.fifo? k = some rk → rk.bound ≠ [] →
       ((s.pushRow g q r).cluster? g.cluster).bind (fun c => c.fifo? k) = some rk ∧
       ((s.popRow g q).cluster? g.cluster).bind (fun c => c.fifo? k) = some rk) ∧
     (∀ r a, (s.pushRow g q r).mem.byte a = s.mem.byte a ∧ (s.popRow g q).mem.byte a = s.mem.byte a)) ∧
  (∀ (s : State) (g : Group) (q : Nat) (f : Fifo) (role : BitVec 2), s.fifoOf g q = some (f, role) → f.mc = true → f.bound ≠ [] →
     let taken := fun (x : Fifo) (pos : Nat) => f.subs ≤ (x.readers.filter fun r => r.retired || decide (pos < r.pos)).length
     let leaves := fun (x : Fifo) (rows : List Row) => ∃ n, n ≤ rows.length ∧ x.rows = rows.drop n ∧ x.base = f.base + n ∧
       (∀ k, k < n → taken x (f.base + k)) ∧ (n < rows.length → ¬taken x (f.base + n))
     (∀ r, ∃ x, (s.pushRow g q r).fifoOf g q = some (x, role) ∧ x.readers = f.readers ∧ leaves x (f.rows ++ [r])) ∧
     (∃ x, (s.popRow g q).fifoOf g q = some (x, role) ∧ leaves x f.rows ∧
       x.readers = f.readers.map fun r => if r.grp = g.id ∧ r.q = q ∧ r.retired = false then { r with pos := r.pos + 1 } else r)) ∧
  (∀ (m : Mask) (vals : Nat → Word), (pushedRow m vals).psn = (false, false) ∧ (pushedRow m vals).data.length = 32 ∧
     ∀ i, i < 32 → (pushedRow m vals).data[i]? = some (if m.getLsbD i then vals i else 0))

/-- The results of the lane words of two integer sources (R307, R360, R361, R363, R364, R378, R386, R410, R462), with their frame: a
path at such a word whose operands and queues are there completes, with the table's function of the two sources in every active lane.

The results of the floating-point lane words of two sources (R315, R354, R355, R358), with their frame.

The accumulating lane words IMAD, SEL, FFMA, BFMA2 and BDOT2 read D as a third source, a vector register, or the group register of
that number under U = 1 (R44, R299, R315, R357, R362, R406); with D out of the group registers under U = 1 they raise REG_BOUNDS.

Completes: IADD, ISUB, IMUL, IMULHS, IMULHN, IMAD, AND, OR, XOR, ANDN, SHL, SHR, SRA, IMINS, IMAXS, IMINN, IMAXN, ICMPEQ, ICMPNE, ICMPLT,
ICMPLE, ICMPLTN, ICMPLEN, SEL, FADD, FSUB, FMUL, FFMA, FMIN, FMAX, FCMPEQ, FCMPLT, FCMPLE, FCMPUN, BADD2, BMUL2, BFMA2, BDOT2, MIX (the
conclusion is that exec answers this next state). -/
def Obligations.LaneSourceResults : Prop :=
  (∀ e ∈ laneTwo, encode (e.1 ⟨false, false, 1, 2, 3⟩) = some e.2.1 ∧ ∀ (o : LaneR) (s : State) g slot p r row, s.At g slot p → (formR o regOnly).operands g p = .ok r →
     queueCheck s g p.lanes r.a.queue? r.d.queue? = .ok row →
     ∃ t, exec (e.1 o) s = .next t ∧
       WritesLanes s t g slot p r o.nw (if o.u then 0 else e.2.2.1) fun i => e.2.2.2 (r.laneSrc g row r.a i) (r.laneSrc g row r.b i)) ∧
  (∀ e ∈ laneFloatTwo, encode (e.1 ⟨false, false, 1, 2, 3⟩) = some e.2.1 ∧ ∀ (o : LaneR) (s : State) g slot p r row, s.At g slot p → (formR o regOnly).operands g p = .ok r →
     queueCheck s g p.lanes r.a.queue? r.d.queue? = .ok row →
     ∃ t, exec (e.1 o) s = .next t ∧
       WritesLanes s t g slot p r o.nw (if o.u then 0 else e.2.2.1) fun i => e.2.2.2 (r.laneSrc g row r.a i) (r.laneSrc g row r.b i)) ∧
  (∀ e ∈ laneThree, encode (e.1 ⟨false, false, 1, 2, 3⟩) = some e.2.1 ∧ ∀ (o : LaneR) (s : State) g slot p r row, s.At g slot p → (formR o regOnly).operands g p = .ok r →
     (o.u = false ∨ r.d.num < g.gCount → queueCheck s g p.lanes r.a.queue? r.d.queue? = .ok row →
       ∃ t, exec (e.1 o) s = .next t ∧
         WritesLanes s t g slot p r o.nw (if o.u then 0 else e.2.2.1) fun i =>
           e.2.2.2 (r.laneSrc g row r.a i) (r.laneSrc g row r.b i) (if o.u then g.greg r.d.num else g.vreg r.d.num i)) ∧
     (o.u = true → g.gCount ≤ r.d.num → exec (e.1 o) s = .next (s.trapPath g.id slot .regBounds p.lanes 0)))

/-- The results of the lane words of one integer source (R303, R331, R336, R381), with their frame.

The results of the floating-point lane words of one source (R86 to R88, R326, R335, R338, R346, R350 to R353, R359, R373, R384,
R397, R404, R405, R411, R412, R422, R425), with their frame.

Completes: MOV, NEG, NOT, ABS, CLZ, POPC, BREV, FNEG, FABS, F2I, F2IZ, F2N, F2NZ, I2F, N2F, F2BF, BF2F, BF2FH, RCP, RSQ, SQRT, EXP2, LOG2,
SIN, COS, TANH, FLOOR, CEIL, TRUNC, RINT, DQ8 (the conclusion is that exec answers this next state). -/
def Obligations.LaneUnaryResults : Prop :=
  (∀ e ∈ laneOne, encode (e.1 ⟨false, false, 3, 5⟩) = some e.2.1 ∧ ∀ (o : LaneU) (s : State) g slot p r row, s.At g slot p → (formA o.u o.nw o.d o.a regOnly).operands g p = .ok r →
     queueCheck s g p.lanes r.a.queue? r.d.queue? = .ok row →
     ∃ t, exec (e.1 o) s = .next t ∧
       WritesLanes s t g slot p r o.nw (if o.u then 0 else e.2.2.1) fun i => e.2.2.2 (r.laneSrc g row r.a i)) ∧
  (∀ e ∈ laneFloatOne, encode (e.1 ⟨false, false, 3, 5⟩) = some e.2.1 ∧ ∀ (o : LaneU) (s : State) g slot p r row, s.At g slot p →
     (formA o.u o.nw o.d o.a regOnly).operands g p = .ok r → queueCheck s g p.lanes r.a.queue? r.d.queue? = .ok row →
     ∃ t, exec (e.1 o) s = .next t ∧
       WritesLanes s t g slot p r o.nw (if o.u then 0 else e.2.2.1) fun i => e.2.2.2 (r.laneSrc g row r.a i))

/-- IADDI, the four immediate shifts, QMUL, BPERM, LID and QNT8 (R67, R102, R327, R360, R372, R391, R392, R409), with their frame.

BPERM byte by byte (R327); the scale, the rises and the code that QNT8 writes (R89 to R91, R94, R95), and the value that DQ8 reads of a code
(R92, R346).

Completes: IADDI, QMUL, SHLI, SHRI, SRAI, ROTLI, LID, QNT8, BPERM (the conclusion is that exec answers this next state). -/
def Obligations.LaneImmediateResults : Prop :=
  (∀ (o : LaneI) (s : State) g slot p r row, s.At g slot p → (formA o.u o.nw o.d o.a regImm).operands g p = .ok r →
    queueCheck s g p.lanes r.a.queue? r.d.queue? = .ok row →
    ∃ t, exec (.iaddi o) s = .next t ∧
      WritesLanes s t g slot p r o.nw (if o.u then 0 else 1) fun i =>
        BitVec.ofInt 32 ((r.laneSrc g row r.a i).toInt + signedImm r.ps o.imm.toNat 7)) ∧
  (∀ e ∈ laneShifts, ∀ (o : LaneS) (s : State) g slot p r row, s.At g slot p →
    (formA o.u o.nw o.d o.a regOnly).operands g p = .ok r → queueCheck s g p.lanes r.a.queue? r.d.queue? = .ok row →
    ∃ t, exec (e.1 o) s = .next t ∧
      WritesLanes s t g slot p r o.nw (if o.u then 0 else 1) fun i => e.2 (r.laneSrc g row r.a i) o.s.toNat) ∧
  (∀ (o : LaneR) (s : State) g slot p r row, s.At g slot p → (formR o regImm).operands g p qmulOk = .ok r →
    queueCheck s g p.lanes r.a.queue? r.d.queue? = .ok row →
    ∃ t, exec (.qmul o) s = .next t ∧
      WritesLanes s t g slot p r o.nw (if o.u then 0 else 1) fun i =>
        qmulWord ((r.ps.imm.map fun v => v.toNat).getD 16) (r.laneSrc g row r.a i) (r.laneSrc g row r.b i)) ∧
  (∀ (o : LaneR) (s : State) g slot p r row, s.At g slot p → (formR o regImm).operands g p bpermOk = .ok r →
    queueCheck s g p.lanes r.a.queue? r.d.queue? = .ok row →
    ∃ t, exec (.bperm o) s = .next t ∧
      WritesLanes s t g slot p r o.nw (if o.u then 0 else 1) fun i =>
        bpermWord ((r.ps.imm.map fun v => v.toNat).getD 0x3210) (r.laneSrc g row r.a i) (r.laneSrc g row r.b i)) ∧
  (∀ (o : LaneD) (s : State) g slot p r row, s.At g slot p → (lidForm o).operands g p = .ok r →
    queueCheck s g p.lanes none r.d.queue? = .ok row →
    ∃ t, exec (.lid o) s = .next t ∧
      WritesLanes s t g slot p { r with a := .absent } o.nw 1 fun i => BitVec.ofNat 32 i) ∧
  (∀ (o : CrossR) (s : State) g slot p r row, s.At g slot p →
    (formR ⟨false, o.nw, o.d, o.a, o.b⟩ regImm).operands g p qnt8Ok = .ok r →
    queueCheck s g p.lanes r.a.queue? r.d.queue? = .ok row →
    ∃ t, exec (.qnt8 o) s = .next t ∧
      WritesLanes s t g slot p r o.nw 2
        (qnt8Lanes ((r.ps.imm.map fun v => v.toNat).getD 32) p.mask (r.laneSrc g row r.a) (r.laneSrc g row r.b))) ∧
  (∀ sel (a b : Word) k, k < 4 →
    let x := sel / 2 ^ (4 * k) % 16
    (x < 4 → field (bpermWord sel a b) (8 * k) 8 = field a (8 * x) 8) ∧
    (4 ≤ x → x < 8 → field (bpermWord sel a b) (8 * k) 8 = field b (8 * (x - 4)) 8) ∧
    (8 ≤ x → field (bpermWord sel a b) (8 * k) 8 = 0)) ∧
  (∀ G (m : Mask) a b i, (G = 8 ∨ G = 16 ∨ G = 32) → i < 32 → m.getLsbD i = true → IsQnt8 G m a b i (qnt8Lanes G m a b i)) ∧
  (∀ a : Word,
    let c := field a 0 8
    (c = 0 → dq8 a = 0) ∧ (c = 128 → dq8 a = 0x7FC00000) ∧
    (c ≠ 0 → c ≠ 128 →
      dq8 a = fmul (rounded (if 128 < c then -(kd8Units (c - 128) : Int) else kd8Units c) 32000000 false) (tenTo (a.extractLsb' 8 8).toInt)))

/-- The cross-lane words (R104, R394 to R396, R407, R408): lane i takes the source of the lane that SHFL's operand, the mask or distance,
or the quad gives; a lane beyond the end takes its own, and a lane that is absent gives 0.

BALLOT, LRD and LWR (R317, R374, R375) between vector registers and group registers, with their frame.

Completes: SHFL, SHFLX, SHFLUP, SHFLDN, QSWZ, QSUM, BALLOT, LRD, LWR (the conclusion is that exec answers this next state). -/
def Obligations.CrossLaneResults : Prop :=
  ((∀ (o : CrossR) (s : State) g slot p r row, s.At g slot p → (formR ⟨false, o.nw, o.d, o.a, o.b⟩ regOnly).operands g p = .ok r →
     queueCheck s g p.lanes r.a.queue? r.d.queue? = .ok row →
     ∃ t, exec (.shfl o) s = .next t ∧
       WritesLanes (s.took g.ctx) t g slot p r o.nw 4 fun i =>
         crossSrc s g r row ((r.laneSrc g row r.b i).toNat % 32)) ∧
   (∀ (o : CrossS) (s : State) g slot p r row, s.At g slot p → (formA false o.nw o.d o.a regOnly).operands g p = .ok r →
     queueCheck s g p.lanes r.a.queue? r.d.queue? = .ok row →
     (∃ t, exec (.shflx o) s = .next t ∧
       WritesLanes (s.took g.ctx) t g slot p r o.nw 4 fun i => crossSrc s g r row (i ^^^ o.s.toNat)) ∧
     (∃ t, exec (.shflup o) s = .next t ∧
       WritesLanes (s.took g.ctx) t g slot p r o.nw 4 fun i =>
         crossSrc s g r row (if o.s.toNat ≤ i then i - o.s.toNat else i)) ∧
     (∃ t, exec (.shfldn o) s = .next t ∧
       WritesLanes (s.took g.ctx) t g slot p r o.nw 4 fun i =>
         crossSrc s g r row (if i + o.s.toNat < 32 then i + o.s.toNat else i))) ∧
   (∀ (o : CrossQ) (s : State) g slot p r row, s.At g slot p → (formA false o.nw o.d o.a regOnly).operands g p = .ok r →
     queueCheck s g p.lanes r.a.queue? r.d.queue? = .ok row →
     ∃ t, exec (.qswz o) s = .next t ∧
       WritesLanes (s.took g.ctx) t g slot p r o.nw 4 fun i =>
         crossSrc s g r row (if o.bcast then i - i % 4 + o.l.toNat else i ^^^ o.l.toNat)) ∧
   (∀ (o : CrossSum) (s : State) g slot p r row, s.At g slot p → (formA false o.nw o.d o.a regOnly).operands g p = .ok r →
     queueCheck s g p.lanes r.a.queue? r.d.queue? = .ok row →
     ∃ t, exec (.qsum o) s = .next t ∧
       WritesLanes (s.took g.ctx) t g slot p r o.nw 4 fun i =>
         let x := fun k => crossSrc s g r row (i - i % 4 + k)
         if o.f32 then Machine.fadd (Machine.fadd (x 0) (x 1)) (Machine.fadd (x 2) (x 3)) else x 0 + x 1 + x 2 + x 3) ∧
   (∀ (s : State) g r row k, (∀ n, r.a ≠ Loc.latch n) →
     crossSrc s g r row k = if g.present k then r.laneSrc g row r.a k else 0)) ∧
  ((∀ (o : LaneBallot) (s : State) g slot p r row, s.At g slot p → (formGroupD o.d o.a).operands g p = .ok r →
     queueCheck s g p.lanes r.a.queue? none = .ok row →
     ∃ t m, exec (.ballot o) s = .next t ∧
       WritesG (s.queueEffect g p.mask r.a .absent fun _ => 0) t g slot (p.after s) r.d.num m 4 ∧
       ∀ i, i < 32 → m.getLsbD i = (p.mask.getLsbD i && !g.helper.getLsbD i && r.laneSrc g row r.a i != 0)) ∧
   (∀ (o : LaneSel) (s : State) g slot p r row, s.At g slot p → (formGroupD o.d o.a).operands g p = .ok r →
     queueCheck s g p.lanes r.a.queue? none = .ok row →
     ∃ t, exec (.lrd o) s = .next t ∧
       WritesG (s.queueEffect g p.mask r.a .absent fun _ => 0) t g slot (p.after s) r.d.num
         (if g.present o.l.toNat then r.laneSrc g row r.a o.l.toNat else 0) 4) ∧
   (∀ (o : LaneSel) (s : State) g slot p r row, s.At g slot p → (lwrForm o).operands g p = .ok r →
     queueCheck s g p.lanes none r.d.queue? = .ok row →
     ∃ t g', exec (.lwr o) s = .next t ∧
       Completes (s.queueEffect g (laneBit o.l.toNat) .absent r.d fun _ => g.greg r.a.num) t g g' slot (p.after s) 4 ∧
       g.OnlyVectorRegs g' slot ∧
       ∀ k i, i < 32 → g'.vreg k i =
         if r.d = .v k ∧ i = o.l.toNat ∧ g.present i = true ∧ g.accBusy k i = false then g.greg r.a.num else g.vreg k i))

/-- R8: rounding n/den to FP32 gives the nearest finite value, at a tie the one whose last bit is 0, and an infinity exactly from
2^128 − 2^103 on; rounding to BF16 likewise, from 2^128 − 2^119 on.

R84, R88, R315, R316, R354, R357: FADD, FSUB, FMUL, FFMA, and so UFADD, UFMUL and UFFMA, and the BF16 pair operations round the exact result of
finite sources once, an exact zero being −0 where every term is a zero of negative sign; an infinite term gives its infinity.

R86, R88, R326, R335, R351, R359, R384, R404, R425: I2F, N2F and F2BF round once, BF2F and BF2FH are exact, and FLOOR, CEIL, TRUNC and RINT give the
integer that their name says, with the sign of the source. -/
def Obligations.RoundingIsNearestEven : Prop :=
  (∀ n den : Nat, 0 < den →
    let b := roundMag 23 n den
    let dist := fun c => (((n * 2 ^ 149 : Nat) : Int) - ((magnitude c * den : Nat) : Int)).natAbs
    (b = 255 * 2 ^ 23 ↔ den * (2 ^ 128 - 2 ^ 103) ≤ n) ∧
    (b ≠ 255 * 2 ^ 23 → b < 255 * 2 ^ 23 ∧
      ∀ c, c < 255 * 2 ^ 23 → dist b ≤ dist c ∧ (dist b = dist c → c ≠ b → b % 2 = 0))) ∧
  (∀ n den : Nat, 0 < den →
    let b := roundMag 7 n den
    let dist := fun c => (((n * 2 ^ 149 : Nat) : Int) - ((magnitude (c * 65536) * den : Nat) : Int)).natAbs
    (b = 255 * 2 ^ 7 ↔ den * (2 ^ 128 - 2 ^ 119) ≤ n) ∧
    (b ≠ 255 * 2 ^ 7 → b < 255 * 2 ^ 7 ∧
      ∀ c, c < 255 * 2 ^ 7 → dist b ≤ dist c ∧ (dist b = dist c → c ≠ b → b % 2 = 0))) ∧
  (∀ a b d : Word, IsFinite a → IsFinite b → IsFinite d →
    Machine.fadd a b = rounded (exactly a + exactly b) (2 ^ 149) (a.msb && b.msb) ∧
    Machine.fadd a (b ^^^ 0x80000000) = rounded (exactly a - exactly b) (2 ^ 149) (a.msb && !b.msb) ∧
    Machine.fmul a b = rounded (exactly a * exactly b) (2 ^ 298) (a.msb != b.msb) ∧
    Machine.ffma a b d = rounded (exactly a * exactly b + exactly d * 2 ^ 149) (2 ^ 298) ((a.msb != b.msb) && d.msb)) ∧
  (∀ a b d : Word, field a 0 31 = 0x7F800000 →
    (IsFinite b → Machine.fadd a b = a ∧ Machine.fadd b a = a) ∧
    (IsFinite b ∨ field b 0 31 = 0x7F800000 → field b 0 31 ≠ 0 →
      let x : Word := if a.msb == b.msb then 0x7F800000 else 0xFF800000
      Machine.fmul a b = x ∧ Machine.fmul b a = x ∧ (IsFinite d → Machine.ffma a b d = x ∧ Machine.ffma b a d = x)) ∧
    (IsFinite b → IsFinite d → Machine.ffma b d a = a)) ∧
  (∀ (a b d : Word) lo, lo = 0 ∨ lo = 16 →
    let x := halfAt a lo
    let y := halfAt b lo
    let z := halfAt d lo
    (IsFinite x → IsFinite y → IsFinite z →
      field (badd2 a b) lo 16 = roundedHalf (exactly x + exactly y) (2 ^ 149) (x.msb && y.msb) ∧
      field (bmul2 a b) lo 16 = roundedHalf (exactly x * exactly y) (2 ^ 298) (x.msb != y.msb) ∧
      field (bfma2 a b d) lo 16 =
        roundedHalf (exactly x * exactly y + exactly z * 2 ^ 149) (2 ^ 298) ((x.msb != y.msb) && z.msb)) ∧
    (isNaN x = true ∨ isNaN y = true → field (badd2 a b) lo 16 = 0x7FC0 ∧ field (bmul2 a b) lo 16 = 0x7FC0 ∧
      field (bfma2 a b d) lo 16 = 0x7FC0 ∧ bdot2 a b d = 0x7FC00000)) ∧
  (∀ a b d : Word, IsFinite (halfAt a 0) → IsFinite (halfAt a 16) → IsFinite (halfAt b 0) → IsFinite (halfAt b 16) → IsFinite d →
    bdot2 a b d = rounded (exactly (halfAt a 0) * exactly (halfAt b 0) + exactly (halfAt a 16) * exactly (halfAt b 16) + exactly d * 2 ^ 149)
      (2 ^ 298) (((halfAt a 0).msb != (halfAt b 0).msb) && ((halfAt a 16).msb != (halfAt b 16).msb) && d.msb)) ∧
  (∀ a : Word, Machine.i2f a = rounded a.toInt 1 false ∧ Machine.n2f a = rounded a.toNat 1 false ∧
    (IsFinite a → (Machine.f2bf a).toNat = roundedHalf (exactly a) (2 ^ 149) a.msb) ∧
    (isNaN a = true → Machine.f2bf a = 0x7FC0) ∧ (a = 0x7F800000 → Machine.f2bf a = 0x7F80) ∧ (a = 0xFF800000 → Machine.f2bf a = 0xFF80) ∧
    Machine.bf2f a = (if isNaN (halfAt a 0) then 0x7FC00000 else halfAt a 0) ∧
    Machine.bf2f (a >>> 16) = (if isNaN (halfAt a 16) then 0x7FC00000 else halfAt a 16)) ∧
  (∀ (m : IntRound) (a : Word),
    (isNaN a = true → toIntegral m a = 0x7FC00000) ∧ (field a 0 31 = 0x7F800000 → toIntegral m a = a) ∧
    (IsFinite a → ∃ k : Int, IsFinite (toIntegral m a) ∧ exactly (toIntegral m a) = k * 2 ^ 149 ∧ (toIntegral m a).msb = a.msb ∧
      (m = .down → k * 2 ^ 149 ≤ exactly a ∧ exactly a < (k + 1) * 2 ^ 149) ∧
      (m = .up → (k - 1) * 2 ^ 149 < exactly a ∧ exactly a ≤ k * 2 ^ 149) ∧
      (m = .toZero → k.natAbs = (exactly a).natAbs / 2 ^ 149) ∧ (m = .nearest → NearestInt k (exactly a) (2 ^ 149))))

/-- R84, R85: with a NaN source, and for ∞ − ∞ and 0 × ∞, the FP32 operations give the canonical NaN; FMIN and FMAX return the source
that is a number, and every comparison but FCMPUN is false.

R86: F2I and F2N round to nearest, ties to even, or toward zero as their name says, saturate at the ends of their range, and give 0 for a NaN.

The results that R337, R338, R350, R373, R397, R405, R411, R412 and R422 fix exactly: RCP and SQRT are rounded correctly; powers of four under RSQ,
integers under EXP2 and powers of two under LOG2 give their exact values; beyond the range EXP2 gives +∞ and +0; TANH is ±1 from 10 on; and SIN, COS
and TANH stay within [−1, 1]. -/
def Obligations.FloatSpecialCases : Prop :=
  ((∀ a b d : Word, isNaN a = true ∨ isNaN b = true →
     Machine.fadd a b = 0x7FC00000 ∧ Machine.fsub a b = 0x7FC00000 ∧ Machine.fmul a b = 0x7FC00000 ∧ Machine.ffma a b d = 0x7FC00000 ∧
       fcmpEq a b = false ∧ fcmpLt a b = false ∧ fcmpLe a b = false ∧ fcmpUn a b = true) ∧
   (∀ a b d : Word, isNaN d = true → Machine.ffma a b d = 0x7FC00000) ∧
   (∀ a b : Word, isNaN a = true → isNaN b = false →
     Machine.fmin a b = b ∧ Machine.fmax a b = b ∧ Machine.fmin b a = b ∧ Machine.fmax b a = b) ∧
   (∀ a b : Word, isNaN a = true → isNaN b = true → Machine.fmin a b = 0x7FC00000 ∧ Machine.fmax a b = 0x7FC00000) ∧
   Machine.fadd 0x7F800000 0xFF800000 = 0x7FC00000 ∧ Machine.fmul 0 0x7F800000 = 0x7FC00000 ∧
   (∀ a : Word, isNaN a = true →
     Machine.fneg a = 0x7FC00000 ∧ Machine.fabs a = 0x7FC00000 ∧ Machine.rcp a = 0x7FC00000 ∧ Machine.rsq a = 0x7FC00000 ∧
       fsqrt a = 0x7FC00000 ∧ Machine.exp2 a = 0x7FC00000 ∧ log2f a = 0x7FC00000 ∧ sinf a = 0x7FC00000 ∧ cosf a = 0x7FC00000 ∧
       tanhf a = 0x7FC00000)) ∧
  (∀ (m : IntRound) (a : Word),
     (isNaN a = true → Machine.f2i m a = 0 ∧ Machine.f2n m a = 0) ∧
     (a = 0x7F800000 → Machine.f2i m a = 0x7FFFFFFF ∧ Machine.f2n m a = 0xFFFFFFFF) ∧
     (a = 0xFF800000 → Machine.f2i m a = 0x80000000 ∧ Machine.f2n m a = 0) ∧
     (∀ neg n, fpOf a = .fin neg n → m = .toZero →
       Machine.f2n m a = (if neg then 0 else BitVec.ofNat 32 (min (n / 2 ^ 149) 0xFFFFFFFF)) ∧
       (Machine.f2i m a).toInt = (if neg then -((min (n / 2 ^ 149) 0x80000000 : Nat) : Int) else ((min (n / 2 ^ 149) 0x7FFFFFFF : Nat) : Int))) ∧
     (IsFinite a → m = .nearest → ∃ k, NearestInt k (exactly a) (2 ^ 149) ∧ (Machine.f2i m a).toInt = max (-(2 ^ 31)) (min (2 ^ 31 - 1) k) ∧
       ((Machine.f2n m a).toNat : Int) = max 0 (min (2 ^ 32 - 1) k))) ∧
  (∀ a : Word, IsFinite a →
     (exactly a ≠ 0 → Machine.rcp a =
       BitVec.ofNat 32 ((if a.msb then 2 ^ 31 else 0) + roundMag 23 (2 ^ 149) (magnitude (field a 0 31)))) ∧
     (0 < exactly a → IsFinite (fsqrt a) ∧
       let x := field (fsqrt a) 0 31
       (fsqrt a).msb = false ∧ (magnitude (x - 1) + magnitude x) ^ 2 ≤ 4 * magnitude (field a 0 31) * 2 ^ 149 ∧
         4 * magnitude (field a 0 31) * 2 ^ 149 ≤ (magnitude x + magnitude (x + 1)) ^ 2) ∧
     (exactly a < 0 → fsqrt a = 0x7FC00000 ∧ Machine.rsq a = 0x7FC00000 ∧ log2f a = 0x7FC00000) ∧
     (∀ j, j % 2 = 1 → exactly a = (2 ^ j : Nat) → IsFinite (Machine.rsq a) ∧ exactly (Machine.rsq a) = (2 ^ ((447 - j) / 2) : Nat)) ∧
     (∀ k : Int, -149 ≤ k → k ≤ 127 → exactly a = k * 2 ^ 149 →
       IsFinite (Machine.exp2 a) ∧ exactly (Machine.exp2 a) = (2 ^ (149 + k).toNat : Nat)) ∧
     (128 * 2 ^ 149 ≤ exactly a → Machine.exp2 a = 0x7F800000) ∧ (exactly a ≤ -151 * 2 ^ 149 → Machine.exp2 a = 0) ∧
     (∀ j : Nat, exactly a = (2 ^ j : Nat) → IsFinite (log2f a) ∧ exactly (log2f a) = ((j : Int) - 149) * 2 ^ 149 ∧
       (j = 149 → log2f a = 0)) ∧
     (0x41200000 ≤ field a 0 31 → tanhf a = if a.msb then 0xBF800000 else 0x3F800000) ∧
     (field (sinf a) 0 31 ≤ 0x3F800000 ∧ field (cosf a) 0 31 ≤ 0x3F800000 ∧ field (tanhf a) 0 31 ≤ 0x3F800000)) ∧
  (Machine.rcp 0 = 0x7F800000 ∧ Machine.rcp 0x80000000 = 0xFF800000 ∧ Machine.rcp 0x7F800000 = 0 ∧ Machine.rcp 0xFF800000 = 0x80000000 ∧
   fsqrt 0x80000000 = 0x80000000 ∧ fsqrt 0x7F800000 = 0x7F800000 ∧ fsqrt 0xBF800000 = 0x7FC00000 ∧
   Machine.rsq 0 = 0x7F800000 ∧ Machine.rsq 0x80000000 = 0xFF800000 ∧ Machine.rsq 0x7F800000 = 0 ∧
   fsqrt 0xFF800000 = 0x7FC00000 ∧ Machine.rsq 0xFF800000 = 0x7FC00000 ∧ log2f 0xFF800000 = 0x7FC00000 ∧ fsqrt 0 = 0 ∧
   Machine.exp2 0 = 0x3F800000 ∧ Machine.exp2 0x80000000 = 0x3F800000 ∧ sinf 0 = 0 ∧ sinf 0xFF800000 = 0x7FC00000 ∧ cosf 0x7F800000 = 0x7FC00000 ∧
   Machine.exp2 0xFF800000 = 0 ∧ Machine.exp2 0x7F800000 = 0x7F800000 ∧
   log2f 0 = 0xFF800000 ∧ log2f 0x80000000 = 0xFF800000 ∧ log2f 0x7F800000 = 0x7F800000 ∧ log2f 0xBF800000 = 0x7FC00000 ∧
   sinf 0x80000000 = 0x80000000 ∧ sinf 0x7F800000 = 0x7FC00000 ∧ cosf 0 = 0x3F800000 ∧ cosf 0x80000000 = 0x3F800000 ∧
   cosf 0xFF800000 = 0x7FC00000 ∧
   tanhf 0x7F800000 = 0x3F800000 ∧ tanhf 0xFF800000 = 0xBF800000 ∧
   (∀ a : Word, field a 0 31 ≤ 0x39800000 → tanhf a = a) ∧
   (∀ a : Word, field a 0 31 < 0x7F800000 → sinf (a ^^^ 0x80000000) = sinf a ^^^ 0x80000000 ∧
     tanhf (a ^^^ 0x80000000) = tanhf a ^^^ 0x80000000))

/-- The results of the uniform words of two sources, and of USEL and UFFMA, which read g[D] too (R436, R438, R442, R444, R448, R449,
R451, R453), with their frame: g[D] and the path alone.

The results of the uniform words of one source and of the immediate uniform shifts (R441, R443, R452), with their frame.

UADDI, ULI, ULIH and UQMUL (R67, R436, R447, R450), with their frame.

UADD64 and USUB64 (R3, R435, R437): the pair from g[D] takes the sum or difference of two pairs modulo 2^64, low word first, and
the latch takes the low word.

Completes: UADD, USUB, UADDI, UMUL, UMULHS, UMULHN, UAND, UOR, UXOR, UANDN, USHL, USHR, USRA, USHLI, USHRI, USRAI, UROTLI, UMINS, UMAXS,
UMINN, UMAXN, UCMPEQ, UCMPNE, UCMPLT, UCMPLE, UCMPLTN, UCMPLEN, USEL, UMOV, UNEG, UNOT, UCLZ, UPOPC, UBREV, UFFS, UF2I, UI2F, ULI, ULIH,
UADD64, USUB64, UFADD, UFMUL, UFFMA, UQMUL (the conclusion is that exec answers this next state). -/
def Obligations.UniformResults : Prop :=
  ((∀ e ∈ uniTwo, encode (e.1 ⟨1, 2, 3⟩) = some e.2.1 ∧ ∀ (o : UniR) (s : State) g slot p r, s.At g slot p →
     (formUni (.ud o.d 1) (.us o.a) (.us o.b) regOnly).operands g p = .ok r →
     ∃ t, exec (e.1 o) s = .next t ∧
       WritesG s t g slot (chained s p r (e.2.2 (r.uniSrc g r.a) (r.uniSrc g r.b))) r.d.num
         (e.2.2 (r.uniSrc g r.a) (r.uniSrc g r.b)) 0) ∧
   (∀ e ∈ uniThree, encode (e.1 ⟨1, 2, 3⟩) = some e.2.1 ∧ ∀ (o : UniR) (s : State) g slot p r, s.At g slot p →
     (formUni (.ud o.d 1) (.us o.a) (.us o.b) regOnly).operands g p = .ok r →
     ∃ t, exec (e.1 o) s = .next t ∧
       WritesG s t g slot (chained s p r (e.2.2 (r.uniSrc g r.a) (r.uniSrc g r.b) (g.greg r.d.num))) r.d.num
         (e.2.2 (r.uniSrc g r.a) (r.uniSrc g r.b) (g.greg r.d.num)) 0)) ∧
  ((∀ e ∈ uniOne, encode (e.1 ⟨1, 2⟩) = some e.2.1 ∧ ∀ (o : UniU) (s : State) g slot p r, s.At g slot p →
     (formUni (.ud o.d 1) (.us o.a) .absent regOnly).operands g p = .ok r →
     ∃ t, exec (e.1 o) s = .next t ∧
       WritesG s t g slot (chained s p r (e.2.2 (r.uniSrc g r.a))) r.d.num (e.2.2 (r.uniSrc g r.a)) 0) ∧
   (∀ e ∈ uniShifts, ∀ (o : UniS) (s : State) g slot p r, s.At g slot p →
     (formUni (.ud o.d 1) (.us o.a) .absent regOnly).operands g p = .ok r →
     ∃ t, exec (e.1 o) s = .next t ∧
       WritesG s t g slot (chained s p r (e.2 (r.uniSrc g r.a) o.s.toNat)) r.d.num (e.2 (r.uniSrc g r.a) o.s.toNat) 0)) ∧
  ((∀ (o : UniI) (s : State) g slot p r, s.At g slot p → (formUni (.ud o.d 1) (.us o.a) .absent regImm).operands g p = .ok r →
     ∃ t x, exec (.uaddi o) s = .next t ∧ WritesG s t g slot (chained s p r x) r.d.num x 0 ∧
       x = BitVec.ofInt 32 ((r.uniSrc g r.a).toInt + signedImm r.ps o.imm.toNat 8)) ∧
   (∀ (o : UniL) (s : State) g slot p r, s.At g slot p → (formUni (.ud o.d 1) .absent .absent regImm).operands g p uliOk = .ok r →
     ∃ t x, exec (.uli o) s = .next t ∧ WritesG s t g slot (chained s p r x) r.d.num x 0 ∧
       (r.ps.imm = none → x.toNat = o.imm.toNat) ∧ (∀ v, r.ps.imm = some v → x.toNat = v.toNat % 65536 * 65536 + o.imm.toNat)) ∧
   (∀ (o : UniL) (s : State) g slot p r, s.At g slot p → (formUni (.ud o.d 1) .absent .absent regOnly).operands g p = .ok r →
     ∃ t x, exec (.ulih o) s = .next t ∧ WritesG s t g slot (chained s p r x) r.d.num x 0 ∧
       x.toNat = o.imm.toNat * 65536 + (g.greg r.d.num).toNat % 65536) ∧
   (∀ (o : UniR) (s : State) g slot p r, s.At g slot p →
     (formUni (.ud o.d 1) (.us o.a) (.us o.b) regImm).operands g p qmulOk = .ok r →
     ∃ t x, exec (.uqmul o) s = .next t ∧ WritesG s t g slot (chained s p r x) r.d.num x 0 ∧
       x = qmulWord ((r.ps.imm.map fun v => v.toNat).getD 16) (r.uniSrc g r.a) (r.uniSrc g r.b))) ∧
  (∀ (o : UniR) (s : State) g slot p r, s.At g slot p →
     (formUni (.ud o.d 2) (.ud o.a 2) (.ud o.b 2) regOnly).operands g p = .ok r →
     let pair := fun k => (g.greg (k + 1)).toNat * 2 ^ 32 + (g.greg k).toNat
     (∃ t g' lo hi, exec (.uadd64 o) s = .next t ∧ Completes s t g g' slot (chained s p r lo) 0 ∧ g.OnlyGroupRegs g' slot ∧
       (∀ k, g'.greg k = if k = r.d.num then lo else if k = r.d.num + 1 then hi else g.greg k) ∧
       hi.toNat * 2 ^ 32 + lo.toNat = (pair r.a.num + pair r.b.num) % 2 ^ 64) ∧
     (∃ t g' lo hi, exec (.usub64 o) s = .next t ∧ Completes s t g g' slot (chained s p r lo) 0 ∧ g.OnlyGroupRegs g' slot ∧
       (∀ k, g'.greg k = if k = r.d.num then lo else if k = r.d.num + 1 then hi else g.greg k) ∧
       hi.toNat * 2 ^ 32 + lo.toNat = (pair r.a.num + 2 ^ 64 - pair r.b.num) % 2 ^ 64))

/-- BRA, BRZ, BRNZ, JMP and CALL (R31, R328, R332, R333, R365): the path goes to the target of its form, or on to the next word where
its condition fails; CALL writes the offset of the word after it; a target outside 0 to 2^32 − 4 raises ADDRESS.

RET (R402): to the offset in g[R]; zero raises NULL_RETURN, and an offset that is no multiple of 4 ADDRESS.

Completes: BRA, BRZ, BRNZ, CALL, JMP, RET (the conclusion is that exec answers this next state). -/
def Obligations.BranchesMoveThePath : Prop :=
  ((∀ off (s : State) g slot p r, s.At g slot p → (formCtl .absent .absent .absent immOnly).operands g p = .ok r →
     let x : Int := p.wordPc.toNat + 4 * signedImm r.ps off.toNat 24
     (0 ≤ x ∧ x ≤ 2 ^ 32 - 4 → ∃ t, exec (.bra off) s = .next t ∧
       Moves s t g slot (p.done s.ticks (BitVec.ofInt 32 x) Chain.none) 12) ∧
     (¬(0 ≤ x ∧ x ≤ 2 ^ 32 - 4) → exec (.bra off) s = .next (s.trapPath g.id slot .address p.lanes 0))) ∧
   (∀ (o : UniJ) (s : State) g slot p r, s.At g slot p → (formCtl (.us o.r) .absent .absent regImm).operands g p = .ok r →
     let x : Int := p.wordPc.toNat + 4 * signedImm r.ps o.off.toNat 16
     let y : Int := (g.greg r.d.num).toNat + 4 * signedImm r.ps o.off.toNat 16
     (g.greg r.d.num = 0 → (0 ≤ x ∧ x ≤ 2 ^ 32 - 4 → ∃ t, exec (.brz o) s = .next t ∧
         Moves s t g slot (p.done s.ticks (BitVec.ofInt 32 x) Chain.none) 12) ∧
       ∃ t, exec (.brnz o) s = .next t ∧ Moves s t g slot (p.after s) 12) ∧
     (g.greg r.d.num ≠ 0 → (0 ≤ x ∧ x ≤ 2 ^ 32 - 4 → ∃ t, exec (.brnz o) s = .next t ∧
         Moves s t g slot (p.done s.ticks (BitVec.ofInt 32 x) Chain.none) 12) ∧
       ∃ t, exec (.brz o) s = .next t ∧ Moves s t g slot (p.after s) 12) ∧
     (g.greg r.d.num = 0 → ¬(0 ≤ x ∧ x ≤ 2 ^ 32 - 4) → exec (.brz o) s = .next (s.trapPath g.id slot .address p.lanes 0)) ∧
     (g.greg r.d.num ≠ 0 → ¬(0 ≤ x ∧ x ≤ 2 ^ 32 - 4) → exec (.brnz o) s = .next (s.trapPath g.id slot .address p.lanes 0)) ∧
     ((g.greg r.d.num).toNat % 4 = 0 → 0 ≤ y ∧ y ≤ 2 ^ 32 - 4 → ∃ t, exec (.jmp o) s = .next t ∧
       Moves s t g slot (p.done s.ticks (BitVec.ofInt 32 y) Chain.none) 12) ∧
     ((g.greg r.d.num).toNat % 4 ≠ 0 ∨ ¬(0 ≤ y ∧ y ≤ 2 ^ 32 - 4) →
       exec (.jmp o) s = .next (s.trapPath g.id slot .address p.lanes 0))) ∧
   (∀ (o : UniL) (s : State) g slot p r, s.At g slot p → (formCtl (.ud o.d 1) .absent .absent regImm).operands g p = .ok r →
     let x : Int := p.wordPc.toNat + 4 * signedImm r.ps o.imm.toNat 16
     (0 ≤ x ∧ x ≤ 2 ^ 32 - 4 → ∃ t, exec (.call o) s = .next t ∧
       WritesG s t g slot (p.done s.ticks (BitVec.ofInt 32 x) Chain.none) r.d.num (p.wordPc + 4) 12) ∧
     (¬(0 ≤ x ∧ x ≤ 2 ^ 32 - 4) → exec (.call o) s = .next (s.trapPath g.id slot .address p.lanes 0)))) ∧
  (∀ x (s : State) g slot p r, s.At g slot p → (formCtl (.us x) .absent .absent regOnly).operands g p = .ok r →
     let w := g.greg r.d.num
     (w ≠ 0 → w.toNat % 4 = 0 → ∃ t, exec (.ret x) s = .next t ∧ Moves s t g slot (p.done s.ticks w Chain.none) 12) ∧
     (w = 0 → exec (.ret x) s = .next (s.trapPath g.id slot .nullReturn p.lanes 0)) ∧
     (w.toNat % 4 ≠ 0 → exec (.ret x) s = .next (s.trapPath g.id slot .address p.lanes 0)))

/-- BRD (R33, R330): no lane of the mask taken goes on, all of them branch, and some of them split: the lanes taken form a path at the
target, in the other slot where it is empty and else as a PATH entry, and the others go on; a full stack raises DIVSTACK.

JSET (R32, R367): a JOIN entry with the path's mask and its old join is pushed, and becomes the path's join; a full stack raises
DIVSTACK.

Completes: BRD, JSET (the conclusion is that exec answers this next state). -/
def Obligations.DivergentBranchSplits : Prop :=
  (∀ (o : UniJ) (s : State) g slot p r, s.At g slot p → (formCtl (.us o.r) .absent .absent regImm).operands g p = .ok r →
     let m := p.mask &&& g.greg r.d.num
     let x : Int := p.wordPc.toNat + 4 * signedImm r.ps o.off.toNat 16
     (m = 0 → ∃ t, exec (.brd o) s = .next t ∧ Moves s t g slot (p.after s) 12) ∧
     (m ≠ 0 → m = p.mask → 0 ≤ x ∧ x ≤ 2 ^ 32 - 4 → ∃ t, exec (.brd o) s = .next t ∧
       Moves s t g slot (p.done s.ticks (BitVec.ofInt 32 x) Chain.none) 12) ∧
     (m ≠ 0 → m ≠ p.mask → 0 ≤ x ∧ x ≤ 2 ^ 32 - 4 →
       (g.path (!slot) = none → ∃ t g', exec (.brd o) s = .next t ∧
         Completes s t g g' slot ({ p with mask := p.mask ^^^ m }.after s) 12 ∧
         g'.path (!slot) = some (Path.start (BitVec.ofInt 32 x) m p.join s.ticks) ∧
         g' = { g with path0 := g'.path0, path1 := g'.path1 }) ∧
       (g.path (!slot) ≠ none → g.sp ≠ g.stackCap → ∃ t g', exec (.brd o) s = .next t ∧
         Completes s t g g' slot ({ p with mask := p.mask ^^^ m }.after s) 12 ∧
         g'.path (!slot) = g.path (!slot) ∧ g'.stack = g.stack ++ [pathEntry (BitVec.ofInt 32 x) m p.join] ∧
         g' = { g with path0 := g'.path0, path1 := g'.path1, stack := g'.stack, stackPsn := stackWrite g.stackPsn g.sp }) ∧
       (g.path (!slot) ≠ none → g.sp = g.stackCap → exec (.brd o) s = .next (s.trapPath g.id slot .divstack p.lanes 0))) ∧
     (m ≠ 0 → ¬(0 ≤ x ∧ x ≤ 2 ^ 32 - 4) → exec (.brd o) s = .next (s.trapPath g.id slot .address p.lanes 0))) ∧
  (∀ off (s : State) g slot p r, s.At g slot p → (formCtl .absent .absent .absent immOnly).operands g p (jsetOk off) = .ok r →
     let x : Int := p.wordPc.toNat + 4 * signedImm r.ps off.toNat 24
     (0 ≤ x ∧ x ≤ 2 ^ 32 - 4 →
       (g.sp ≠ g.stackCap → ∃ t g', exec (.jset off) s = .next t ∧
         Completes s t g g' slot ({ p with join := some g.sp }.after s) 12 ∧
         g'.stack = g.stack ++ [joinEntry (BitVec.ofInt 32 x) p.mask p.join] ∧ g'.path (!slot) = g.path (!slot) ∧
         g' = { g with path0 := g'.path0, path1 := g'.path1, stack := g'.stack, stackPsn := stackWrite g.stackPsn g.sp }) ∧
       (g.sp = g.stackCap → exec (.jset off) s = .next (s.trapPath g.id slot .divstack p.lanes 0))) ∧
     (¬(0 ≤ x ∧ x ≤ 2 ^ 32 - 4) → exec (.jset off) s = .next (s.trapPath g.id slot .address p.lanes 0)))

/-- JMPV and RETV (R34, R366, R403): the lanes go to the offsets in v[R]. The lanes of the lowest target keep the slot; those of the
next take the other slot where it is empty; the others become PATH entries in ascending order. A target that is no multiple of 4
raises MISALIGNED in its lanes, and under RETV a zero NULL_RETURN; more pushes than there are free entries raise DIVSTACK.

Completes: JMPV, RETV (the conclusion is that exec answers this next state). -/
def Obligations.VectorJumpsGroupByTarget : Prop :=
  ∀ x (s : State) g slot p r, s.At g slot p → (formV x).operands g p = .ok r →
    let at_ := fun i => g.vreg r.d.num i
    let entry := fun w => pathEntry w (lanesAt p.mask at_ w) p.join
    (∀ w ws, (∀ i, i < 32 → p.mask.getLsbD i = true → (at_ i).toNat % 4 = 0) → targetsOf p.mask at_ = w :: ws →
      (g.path (!slot) ≠ none → g.sp + ws.length ≤ g.stackCap → ∃ t g', exec (.jmpv x) s = .next t ∧
        Completes s t g g' slot ({ p with mask := lanesAt p.mask at_ w }.done s.ticks w Chain.none) 12 ∧
        g'.path (!slot) = g.path (!slot) ∧ g'.stack = g.stack ++ ws.map entry) ∧
      (∀ w2 ws2, g.path (!slot) = none → ws = w2 :: ws2 → g.sp + ws2.length ≤ g.stackCap → ∃ t g', exec (.jmpv x) s = .next t ∧
        Completes s t g g' slot ({ p with mask := lanesAt p.mask at_ w }.done s.ticks w Chain.none) 12 ∧
        g'.path (!slot) = some (Path.start w2 (lanesAt p.mask at_ w2) p.join s.ticks) ∧ g'.stack = g.stack ++ ws2.map entry) ∧
      (g.path (!slot) = none → ws = [] → g.sp ≤ g.stackCap → ∃ t g', exec (.jmpv x) s = .next t ∧
        Completes s t g g' slot ({ p with mask := lanesAt p.mask at_ w }.done s.ticks w Chain.none) 12 ∧
        g'.path (!slot) = none ∧ g'.stack = g.stack) ∧
      ((g.path (!slot) ≠ none ∧ g.stackCap < g.sp + ws.length ∨
          g.path (!slot) = none ∧ ws ≠ [] ∧ g.stackCap < g.sp + (ws.length - 1)) →
        exec (.jmpv x) s = .next (s.trapPath g.id slot .divstack p.lanes 0))) ∧
    ((∀ i, i < 32 → p.mask.getLsbD i = true → at_ i ≠ 0) → exec (.retv x) s = exec (.jmpv x) s) ∧
    (∀ i, i < 32 → p.mask.getLsbD i = true → at_ i = 0 →
      exec (.retv x) s =
        .next (s.trapPath g.id slot .nullReturn (maskOf ((lanesOf p.mask).filter fun k => at_ k == 0)) 0)) ∧
    (∀ i, i < 32 → p.mask.getLsbD i = true → (at_ i).toNat % 4 ≠ 0 →
      exec (.jmpv x) s =
        .next (s.trapPath g.id slot .misaligned (maskOf ((lanesOf p.mask).filter fun k => (at_ k).toNat % 4 != 0)) 0))

/-- NOP, YIELD and BEAT (R238, R385, R463): NOP advances; after YIELD the next word is held for 16 cycles of its core; BEAT adds its
count to the context's beats of the interval, or at a boundary that is due to those of the next one, saturating at 0xFFFFFFFF (R239), unless every
lane of the path is a helper.

R65, R72: a prefix word waits before its word: it joins the prefixes issued so far, the program counter of the next boundary stays, a
promotion has been used (R50), and nothing else of the state changes.

Completes: NOP, YIELD, BEAT, PFX_REG, PFX_IMM, PFX_MEM (the conclusion is that exec answers this next state). -/
def Obligations.NopYieldBeatEffects : Prop :=
  ((∀ (s : State) g slot p r, s.At g slot p → bareForm.operands g p = .ok r →
     ∃ t, exec .nop s = .next t ∧ Moves s t g slot (p.after s) 12) ∧
   (∀ (s : State) g slot p r, s.At g slot p → bareForm.operands g p = .ok r →
     ∃ t, exec .yield s = .next t ∧
       Moves s t g slot { p.after s with holdUntil := s.ticks + 16 * s.cycle g.cluster, readyAt := s.ticks + 16 * s.cycle g.cluster }
         12) ∧
   (∀ n (s : State) g slot p r c, s.At g slot p → bareForm.operands g p = .ok r → s.ctx? g.ctx = some c →
     (p.mask &&& ~~~g.helper = 0 → ∃ t, exec (.beat n) s = .next t ∧ Moves s t g slot (p.after s) 12) ∧
     (p.mask &&& ~~~g.helper ≠ 0 → ∃ t, exec (.beat n) s = .next t ∧
       Moves (s.modCtx g.ctx fun c => { c with loop :=
         if c.loop.ivl ≠ 0 ∧ c.loop.nextBoundary ≤ s.now then { c.loop with late := min 0xFFFFFFFF (c.loop.late + n.toNat) }
         else { c.loop with beats := min 0xFFFFFFFF (c.loop.beats + n.toNat) } }) t g slot (p.after s) 12))) ∧
  (∀ (s : State) g slot p, s.At g slot p →
     let waits := fun (t : State) (x : Pfx) =>
       t = s.setGroup (g.modPath slot fun q => { q with pfx := q.pfx ++ [x], promoted := false }) ∧
         t.group? g.id = some (g.modPath slot fun q => { q with pfx := q.pfx ++ [x], promoted := false }) ∧ ∀ a, t.mem.byte a = s.mem.byte a
     (∀ q, ∃ t, exec (.pfxReg q) s = .next t ∧ waits t (.reg q)) ∧
     (∀ v, ∃ t, exec (.pfxImm v) s = .next t ∧ waits t (.imm v)) ∧
     (∀ q, ∃ t, exec (.pfxMem q) s = .next t ∧ waits t (.mem q)))

/-- R268, R269: taking a trap writes TRAP.CAUSE, TRAP.PC, TRAP.MASK and TRAP.ADDR and sets HANDLER, keeps the path's mask and join, SP
and the other path in the return record, stops the sibling, and the path goes on at TRAP.VEC with no join, its mask unchanged. (The return
record also keeps the path as it was and the moment, for a trap of slot 0 in the same cycle, R270.)

TRAP (R269, R423): TRAP_INSN with the word's number in INFO, and TRAP.PC at the word after it.

ERET (R271): in handler mode, with the stack and the other slot as at delivery, the path goes on at TRAP.PC with the mask and join
of the return record, HANDLER clears, and the stopped sibling is released; outside handler mode it raises PRIV.

Completes: TRAP, ERET (the conclusion is that exec answers this next state). -/
def Obligations.TrapDeliversToTheHandler : Prop :=
  (∀ (s : State) g slot p c cause mask addr, s.group? g.id = some g → g.path slot = some p → s.ctx? g.ctx = some c →
     c.trapVec ≠ 0 → g.trap.handler = false →
     let t := s.trapPath g.id slot cause mask addr
     ∃ g' p', t.group? g.id = some g' ∧ g'.path slot = some p' ∧
       g'.trap = { cause := cause.code, info := 0, slot := slot, handler := true, pc := p.pc, mask := mask,
                   addr := BitVec.ofNat 64 addr } ∧
       g'.ret = some { mask := p.mask, join := p.join, sp := g.sp, other := g.path (!slot), at_ := s.ticks, own := p } ∧
       p'.pc = c.trapVec ∧ p'.mask = p.mask ∧ p'.join = none ∧ p'.pfx = [] ∧ p'.wait = .ready ∧ p'.chain = Chain.none ∧
       (∀ o, g'.path (!slot) = some o → o.stopped = true) ∧
       (∀ r, g'.greg r = g.greg r) ∧ (∀ r i, g'.vreg r i = g.vreg r i) ∧ g'.stack = g.stack ∧ g'.exited = g.exited ∧
       (∀ i, i ≠ g.id → t.group? i = s.group? i) ∧ t = { s with groups := t.groups }) ∧
  (∀ n (s : State) g slot p r c, s.At g slot p → bareForm.operands g p = .ok r → s.ctx? g.ctx = some c → c.trapVec ≠ 0 →
     g.trap.handler = false →
     ∃ t g' p', exec (.trap n) s = .next t ∧ t.group? g.id = some g' ∧ g'.path slot = some p' ∧
       g'.trap = { cause := 0x0E, info := n, slot := slot, handler := true, pc := p.wordPc + 4, mask := p.lanes, addr := 0 } ∧
       p'.pc = c.trapVec ∧ p'.mask = p.mask ∧ (∀ r, g'.greg r = g.greg r) ∧ t.contexts = (s.charge g.ctx 12 1).contexts) ∧
  (∀ (s : State) g slot p r, s.At g slot p → bareForm.operands g p = .ok r →
     (∀ k, g.ret = some k → g.trap.handler = true → g.sp = k.sp → g.otherAsAtDelivery slot = true →
       ∃ t g', exec .eret s = .next t ∧
         Completes s t g g' slot { p.done s.ticks g.trap.pc Chain.none with mask := k.mask, join := k.join } 12 ∧
         g'.trap = { g.trap with handler := false } ∧ g'.ret = none ∧
         (∀ o, g'.path (!slot) = some o → o.stopped = false) ∧ ∀ r, g'.greg r = g.greg r) ∧
     (∀ k c, g.ret = some k → g.trap.handler = true → (g.sp ≠ k.sp ∨ g.otherAsAtDelivery slot = false) → s.ctx? g.ctx = some c →
       c.state = .live → ∃ t, exec .eret s = .next t ∧ t.ctx? g.ctx =
         some { c with state := .stopping .fault s.ticks, loop := { c.loop with downs := c.loop.downs ++ [(s.now, none)] } }) ∧
     (g.trap.handler = false → exec .eret s = .next (s.trapPath g.id slot .priv p.mask 0)))

/-- R270, R272: of two traps of a group in one cycle that of slot 0 is delivered: a trap of slot 1 in the cycle in which that of slot 0 was
delivered has no effect, and its word is executed again; and a trap of slot 0 in the cycle in which that of slot 1 was delivered takes its
place, slot 1 standing at its word as the stopped sibling. Another trap in handler mode, or one with TRAP.VEC = 0, writes the TRAP registers and is a context fault: a live context stops, each of its groups
stops at its next boundary, and the driver receives the report and its interrupt. -/
def Obligations.UnhandledTrapFaultsTheContext : Prop :=
  ∀ (s : State) g slot p c cause mask addr, s.group? g.id = some g → g.path slot = some p → s.ctx? g.ctx = some c →
    c.state = .live →
    let t := s.trapPath g.id slot cause mask addr
    let late := g.trap.handler && slot && p.stopped && s.sameCycle g
    (late = true → t = s.setGroup (g.modPath slot fun q => { q with pfx := [], chain := Chain.none, wait := .ready })) ∧
    (∀ k o, slot = false → g.trap.handler = true → g.trap.slot = true → g.ret = some k → s.sameCycle g = true → c.trapVec ≠ 0 →
      g.path true = some o → o.pc = c.trapVec → o.pfx = [] → o.chain = Chain.none →
      ∃ x q, t.group? g.id = some x ∧ x.path false = some q ∧ q.pc = c.trapVec ∧ q.mask = p.mask ∧ q.join = none ∧ q.stopped = false ∧
        x.path true = some { k.own with pfx := [], chain := Chain.none, wait := .ready, ahead := [], stopped := true } ∧
        x.trap = { cause := cause.code, info := 0, slot := false, handler := true, pc := p.pc, mask := mask,
                   addr := BitVec.ofNat 64 addr }) ∧
    (late = false → s.undoOther g slot = g → (c.trapVec = 0 ∨ g.trap.handler = true) →
    t.ctx? g.ctx = some { c with state := .stopping .fault s.ticks, loop := { c.loop with downs := c.loop.downs ++ [(s.now, none)] } } ∧
    (∀ x, t.group? g.id = some x → x.stopping = true ∧ x.trap.cause = cause.code ∧ x.trap.pc = p.pc ∧ x.trap.mask = mask) ∧
    (∀ i x y, s.group? i = some x → x.ctx = g.ctx → t.group? i = some y → y.stopping = true) ∧
    ∃ r, t.outbox = s.outbox ++ [.contextReport g.ctx r 0, .msix c.vf 2])

/-- SYSRD (R417 to R419): g[D] takes the register, and nothing else of the group but the path and the snapshots of GTIME and EN
changes. A SYSRD that has issued behind a load of its path, for which it does not wait, takes what it read then (log 3).

R244, R266, R268, R418, R419: what each register number reads.

Completes: SYSRD (the conclusion is that exec answers this next state). -/
def Obligations.SystemReadWritesTheRegister : Prop :=
  (∀ (o : UniSysRd) (s : State) g slot p r, wellFormed (.sysrd o) = true → s.At g slot p →
     (formCtl (.ud o.d 1) .absent .absent regOnly).operands g p = .ok r →
     ∃ t g', exec (.sysrd o) s = .next t ∧ Completes s t g g' slot (p.after s) 12 ∧
       (∀ k, k ≠ r.d.num → g'.greg k = g.greg k) ∧
       ((∀ a ∈ p.ahead, a.pc ≠ p.pc) →
         g'.greg r.d.num = s.sysReg g o.n.toNat ∧
         (o.n = 0x00 → g'.timeSnap.toNat = s.now / 2 ^ 32 % 2 ^ 32 ∧ g'.enSnap = g.enSnap) ∧
         (o.n = 0x40 → g'.timeSnap = g.timeSnap ∧ ∀ c, s.ctx? g.ctx = some c →
           g'.enSnap.toNat = c.energy.toNat / 2 ^ 32 + if c.sat then 2 ^ 16 else 0) ∧
         (o.n ≠ 0x00 → o.n ≠ 0x40 → g'.timeSnap = g.timeSnap ∧ g'.enSnap = g.enSnap)) ∧
       (∀ a x as, p.ahead = a :: as → a.pc = p.pc → a.val = some x →
         g'.greg r.d.num = x ∧ g'.timeSnap = g.timeSnap ∧ g'.enSnap = g.enSnap) ∧
       g' = { g with g := g'.g, path0 := g'.path0, path1 := g'.path1, timeSnap := g'.timeSnap, enSnap := g'.enSnap }) ∧
  (∀ (s : State) g c, s.ctx? g.ctx = some c →
     (s.sysReg g 0x00).toNat = s.now % 2 ^ 32 ∧ s.sysReg g 0x01 = g.timeSnap ∧ (s.sysReg g 0x02).toNat = g.ctx % 2 ^ 32 ∧
     (s.sysReg g 0x03).toNat = g.vf % 2 ^ 32 ∧ (s.sysReg g 0x05).toNat = g.cluster % 2 ^ 32 ∧
     (s.sysReg g 0x06).toNat = g.core % 2 ^ 32 ∧ (s.sysReg g 0x07).toNat = g.slot % 2 ^ 32 ∧
     (s.sysReg g 0x0B).toNat = g.index % 2 ^ 32 ∧ (s.sysReg g 0x20).toNat = c.loop.tgt.toNat ∧
     (s.sysReg g 0x21).toNat = c.loop.meas.toNat ∧ (s.sysReg g 0x24).toNat = c.loop.kp.toNat ∧
     (s.sysReg g 0x25).toNat = c.loop.ki.toNat ∧ (s.sysReg g 0x28).toNat = c.loop.base.toNat ∧
     (s.sysReg g 0x29).toNat = c.loop.flags.toNat ∧ (s.sysReg g 0x40).toNat = c.energy.toNat % 2 ^ 32 ∧
     (s.sysReg g 0x50).toNat = g.trap.cause.toNat + 2 ^ 8 * g.trap.info.toNat + (if g.trap.slot then 2 ^ 16 else 0) +
       (if g.trap.handler then 2 ^ 17 else 0) ∧
     s.sysReg g 0x51 = g.trap.pc ∧ s.sysReg g 0x52 = g.trap.mask ∧ s.sysReg g 0x53 = g.trap.addr.extractLsb' 0 32 ∧
     s.sysReg g 0x54 = g.trap.addr.extractLsb' 32 32 ∧ s.sysReg g 0x55 = c.trapVec ∧
     (s.sysReg g 0x60).toNat = c.vpsReq.toNat ∧ (s.sysReg g 0x61).toNat = c.vpsCur.toNat ∧
     (s.sysReg g 0x04).toNat = c.part % 2 ^ 32 ∧
     (s.sysReg g 0x22).toInt = c.loop.integ.bmod (2 ^ 32) ∧
     (s.sysReg g 0x23).toNat = c.loop.level.toNat + ((c.loop.lo.zip c.loop.hi).map fun x => x.2 - x.1).sum % 65536 * 65536 ∧
     (s.sysReg g 0x26).toInt = c.loop.imin.bmod (2 ^ 32) ∧ (s.sysReg g 0x27).toInt = c.loop.imax.bmod (2 ^ 32) ∧
     (s.sysReg g 0x2A).toNat = (if c.loop.ivl = 0 then 0 else 2 ^ (c.loop.ivl + 10)) % 2 ^ 32 ∧
     (s.sysReg g 0x2B).toNat = (if c.loop.ivl ≠ 0 ∧ c.loop.nextBoundary ≤ s.now then c.loop.late else c.loop.beats) % 2 ^ 32 ∧
     (∀ j, j < 5 → (∀ x, c.loop.pos[j]? = some x → (s.sysReg g (0x2C + j)).toNat = x % 65536) ∧
       ∀ x, c.loop.ask[j]? = some x → (s.sysReg g (0x31 + j)).toNat = x % 65536) ∧
     (s.sysReg g 0x41).toNat = g.enSnap.toNat % 2 ^ 16 + (if g.enSnap.getLsbD 16 then 2 ^ 31 else 0) ∧
     (∀ v, s.vf? g.vf = some v → (s.sysReg g 0x70).toNat = v.scopeMax % 2 ^ 32) ∧
     (∀ l b, s.launch? g.launch = some l → s.block? g.block = some b →
       (s.sysReg g 0x0C).toNat = b.member % 2 ^ 32 ∧ (s.sysReg g 0x0D).toNat = l.lpb.threads % 2 ^ 32 ∧
       (s.sysReg g 0x0E).toNat = l.lpb.gx % 2 ^ 32 ∧ (s.sysReg g 0x0F).toNat = l.lpb.gy % 2 ^ 32 ∧
       (s.sysReg g 0x10).toNat = l.lpb.gz % 2 ^ 32 ∧
       (l.lpb.gx < 2 ^ 32 → l.lpb.gy < 2 ^ 32 → l.lpb.gz < 2 ^ 32 → b.index < l.lpb.gx * l.lpb.gy * l.lpb.gz →
         let x := (s.sysReg g 0x08).toNat
         let y := (s.sysReg g 0x09).toNat
         b.index = x + l.lpb.gx * (y + l.lpb.gy * (s.sysReg g 0x0A).toNat) ∧ x < l.lpb.gx ∧ y < l.lpb.gy)))

/-- SYSWR (R418, R420, R421): TRAP.PC and TRAP.MASK in handler mode, TRAP.PC with bits 1:0 clear; LOOP.TGT and VPS.REQ in either mode;
every other number, and the TRAP registers outside handler mode, raise PRIV.

Completes: SYSWR (the conclusion is that exec answers this next state). -/
def Obligations.SystemWriteEffects : Prop :=
  ∀ (o : UniSysWr) (s : State) g slot p r, wellFormed (.syswr o) = true → s.At g slot p → (formCtl .absent (.us o.a) .absent regOnly).operands g p = .ok r →
    let w := g.greg r.a.num
    (∀ k, r.a = .g k →
      (o.n = 0x51 → g.trap.handler = true → ∃ t g', exec (.syswr o) s = .next t ∧ Completes s t g g' slot (p.after s) 12 ∧
        g'.trap = { g.trap with pc := w &&& 0xFFFFFFFC } ∧ ∀ k, g'.greg k = g.greg k) ∧
      (o.n = 0x52 → g.trap.handler = true → ∃ t g', exec (.syswr o) s = .next t ∧ Completes s t g g' slot (p.after s) 12 ∧
        g'.trap = { g.trap with mask := w } ∧ ∀ k, g'.greg k = g.greg k) ∧
      (∀ c, o.n = 0x60 → s.ctx? g.ctx = some c → c.vpsStamp.1 < s.now → ∃ t c', exec (.syswr o) s = .next t ∧
        t.ctx? g.ctx = some c' ∧ c'.vpsReq = w.extractLsb' 0 3 ∧ c'.loop = c.loop ∧ GoesOn t g.id slot p s ∧ SameRegs t g) ∧
      (∀ c, o.n = 0x20 → s.ctx? g.ctx = some c → c.tgtStamp.1 < s.now → c.members = [] → ∃ t c', exec (.syswr o) s = .next t ∧
        t.ctx? g.ctx = some c' ∧ c'.loop.tgt = w.extractLsb' 0 16 ∧ c'.vpsReq = c.vpsReq ∧ GoesOn t g.id slot p s ∧ SameRegs t g)) ∧
    (o.n ≠ 0x20 → o.n ≠ 0x60 → (g.trap.handler = false ∨ o.n ≠ 0x51 ∧ o.n ≠ 0x52) →
      exec (.syswr o) s = .next (s.trapPath g.id slot .priv p.lanes 0))

/-- LD, ULD, ATOM and UATOM (R309, R368, R369, R440, R445): the request goes out with one access for each performing lane, and the path
waits for its answer with its registers as they are.

R144, R145, R195, R197, R198: before any access, a scope above SCOPE.MAX raises SCOPE_DENIED, an invalid address register ADDRESS, a word that
releases waits for its release, and a trap among the lanes is raised with the lanes and the address of R145. That SCOPE_DENIED comes before
ADDRESS where both hold is log 28. ATOM with U = 1 and a data run out of the group registers raises REG_BOUNDS (R309).

Completes: LD, ATOM, ULD, UATOM (the conclusion is that exec answers this next state). -/
def Obligations.LoadsAndAtomicsGoOut : Prop :=
  ((∀ (o : LaneVM) (s : State) g slot p r s1 ls, s.At g slot p →
     (formVM (.vd o.d (accessRegs o.mf)) o.u o.a).operands g p = .ok r → GoesOut s g slot p r.ps (ldWord o r g p) s1 ls →
     ∃ t f, exec (.ld o) s = .next t ∧ Posted t g slot p (ldWord o r g p) ls f ∧ Waits t g.id slot (.memory f.id) ∧ SameRegs t g) ∧
   (∀ (o : LaneVM) (s : State) g slot p r s1 ls, s.At g slot p →
     (formVM (.vd o.d (atomRegs o.mf)) o.u o.a).operands g p = .ok r → (o.u = false ∨ r.d.num + atomRegs o.mf ≤ g.gCount) →
     GoesOut s g slot p r.ps (atomWord o r g p) s1 ls →
     ∃ t f, exec (.atom o) s = .next t ∧ Posted t g slot p (atomWord o r g p) ls f ∧ Waits t g.id slot (.memory f.id) ∧ SameRegs t g) ∧
   (∀ (o : UniM) (s : State) g slot p r s1 ls, s.At g slot p → (formUM o.d (accessRegs o.mf)).operands g p = .ok r →
     GoesOut s g slot p r.ps (uldWord o r g) s1 ls →
     ∃ t f, exec (.uld o) s = .next t ∧ Posted t g slot p (uldWord o r g) ls f ∧ Waits t g.id slot (.memory f.id) ∧ SameRegs t g) ∧
   (∀ (o : UniM) (s : State) g slot p r s1 ls, s.At g slot p → (formUM o.d (atomRegs o.mf)).operands g p = .ok r →
     GoesOut s g slot p r.ps (uatomWord o r g) s1 ls →
     ∃ t f, exec (.uatom o) s = .next t ∧ Posted t g slot p (uatomWord o r g) ls f ∧ Waits t g.id slot (.memory f.id) ∧ SameRegs t g)) ∧
  ((∀ (o : LaneVM) (s : State) g slot p r, s.At g slot p → (formVM (.vd o.d (accessRegs o.mf)) o.u o.a).operands g p = .ok r →
     ChecksFirst (.ld o) s g slot p r.ps (ldWord o r g p)) ∧
   (∀ (o : LaneVM) (s : State) g slot p r, s.At g slot p → (formVM (.vd o.d (atomRegs o.mf)) o.u o.a).operands g p = .ok r →
     (o.u = true → g.gCount < r.d.num + atomRegs o.mf → exec (.atom o) s = .next (s.trapPath g.id slot .regBounds p.lanes 0)) ∧
     (o.u = false ∨ r.d.num + atomRegs o.mf ≤ g.gCount → ChecksFirst (.atom o) s g slot p r.ps (atomWord o r g p))) ∧
   (∀ (o : UniM) (s : State) g slot p r, s.At g slot p → (formUM o.d (accessRegs o.mf)).operands g p = .ok r →
     ChecksFirst (.uld o) s g slot p r.ps (uldWord o r g)) ∧
   (∀ (o : UniM) (s : State) g slot p r, s.At g slot p → (formUM o.d (atomRegs o.mf)).operands g p = .ok r →
     ChecksFirst (.uatom o) s g slot p r.ps (uatomWord o r g)))

/-- ST, UST and RED (R193, R399, R414, R454): the write goes out and the path goes on with its registers as they are; no byte of memory
changes before the write has its completion time.

R199, R200, R399: a RED that the cluster cache performs, on a line that it holds update-only, adds its operands to the line's partials in
ascending lane order, combined with a partial of the same place, width and code; nothing is left on its way, and memory is as before.

R144, R145, R195, R197, R198: the checks of ST, UST and RED before their accesses, SCOPE_DENIED before ADDRESS where both hold (log 28).

Completes: ST, RED, UST (the conclusion is that exec answers this next state). -/
def Obligations.StoresGoOutAndThePathGoesOn : Prop :=
  (∀ (o : LaneVM) (s : State) g slot p r s1 ls, s.At g slot p →
    (formVM (if o.u then Fld.gx o.d (accessRegs o.mf) else Fld.vd o.d (accessRegs o.mf)) o.u o.a).operands g p = .ok r →
    GoesOut s g slot p r.ps (stWord o r g) s1 ls →
    ∃ t f, exec (.st o) s = .next t ∧ Posted t g slot p (stWord o r g) ls f ∧ GoesOn t g.id slot p s ∧ SameRegs t g ∧
      ∀ a, t.mem.byte a = s1.mem.byte a) ∧
  (∀ (o : UniM) (s : State) g slot p r s1 ls, s.At g slot p → (formUM o.d (accessRegs o.mf)).operands g p = .ok r →
    GoesOut s g slot p r.ps (ustWord o r g) s1 ls →
    ∃ t f, exec (.ust o) s = .next t ∧ Posted t g slot p (ustWord o r g) ls f ∧ GoesOn t g.id slot p s ∧ SameRegs t g ∧
      ∀ a, t.mem.byte a = s1.mem.byte a) ∧
  (∀ (o : LaneVM) (s : State) g slot p r s1 ls, s.At g slot p →
    (formVM (if o.u then Fld.gx o.d (atomRegs o.mf) else Fld.vd o.d (atomRegs o.mf)) o.u o.a).operands g p = .ok r →
    GoesOut s g slot p r.ps (redWord o r g) s1 ls →
    ∃ t, exec (.red o) s = .next t ∧ GoesOn t g.id slot p s ∧ SameRegs t g ∧
      ((redWord o r g).isLocal s g r.ps = false →
        (∃ f, Posted t g slot p (redWord o r g) ls f) ∧ ∀ a, t.mem.byte a = s1.mem.byte a) ∧
      (∀ c l, (redWord o r g).isLocal s g r.ps = true → s1.cluster? g.cluster = some c → c.line? l.line = some l → l.kind = .updateOnly →
        l.away = none → OneLine (redWord o r g) (liveLanes (redWord o r g) g p ls) l.partials l.line →
        (∀ f ∈ s1.flights, f.grp = g.id → f.kind = .load) →
        (∃ c' l', t.cluster? g.cluster = some c' ∧ c'.line? l.line = some l' ∧ l'.kind = .updateOnly ∧
          l'.partials = (liveLanes (redWord o r g) g p ls).foldl (fun ps x => match x.x with
            | .mem key => contributed (redWord o r g).mf (redWord o r g).size ps (key % 128) (leNat ((redWord o r g).data x.lane))
            | _ => ps) l.partials) ∧
        (∀ f ∈ t.flights, f ∈ s1.flights) ∧ ∀ a, t.mem.byte a = s1.mem.byte a)) ∧
  ((∀ (o : LaneVM) (s : State) g slot p r, s.At g slot p →
     (formVM (if o.u then Fld.gx o.d (accessRegs o.mf) else Fld.vd o.d (accessRegs o.mf)) o.u o.a).operands g p = .ok r →
     ChecksFirst (.st o) s g slot p r.ps (stWord o r g)) ∧
   (∀ (o : UniM) (s : State) g slot p r, s.At g slot p → (formUM o.d (accessRegs o.mf)).operands g p = .ok r →
     ChecksFirst (.ust o) s g slot p r.ps (ustWord o r g)) ∧
   (∀ (o : LaneVM) (s : State) g slot p r, s.At g slot p →
     (formVM (if o.u then Fld.gx o.d (atomRegs o.mf) else Fld.vd o.d (atomRegs o.mf)) o.u o.a).operands g p = .ok r →
     ChecksFirst (.red o) s g slot p r.ps (redWord o r g)))

/-- R57, R60, R311, R369, R439: MEMORY_RESPONSE of a load whose accesses are there, and of an atomic whose writes are visible too, writes the
answers to the registers and completes the word. A load sign-extends or zero-extends a byte or half as MF says and fills one register for
each four bytes: two for b64, four for b128, eight for b256; an atomic's answer is the old value, in two registers for a 64-bit one. The
registers are the run from D on of the access's lane, of every active lane for a single access of a lane word, or of the group.

Completes: MEMORY_RESPONSE (the conclusion is that exec answers this next state). -/
def Obligations.LoadResponseWritesRegisters : Prop :=
  (∀ (s : State) id f g p, s.flight? id = some f → (f.kind = .load ∨ f.kind = .atom ∧ max f.visMod f.visOut ≤ s.now) → f.accs.all (fun a => a.done && a.psn.isNone) = true →
    f.pageLanes = 0 → f.fetchLanes = 0 → (s.raiseFor f).group? f.grp = some g → g.path f.slot = some p →
    ∃ t g', exec (.memoryResponse id) s = .next t ∧ t.group? f.grp = some g' ∧
      g'.v = (f.accs.foldl (fun g a => f.write g a) g).v ∧ g'.g = (f.accs.foldl (fun g a => f.write g a) g).g ∧
      g'.path f.slot = some { p.after s with early := if f.acq then [] else p.early } ∧ (∀ x ∈ t.flights, x.id ≠ id) ∧ ∀ a, t.mem.byte a = s.mem.byte a) ∧
  (∀ b : Byte, loadWords 0 [b] = [b.setWidth 32] ∧ loadWords 1 [b] = [b.signExtend 32]) ∧
  (∀ b c : Byte, loadWords 2 [b, c] = [(c ++ b).setWidth 32] ∧ loadWords 3 [b, c] = [(c ++ b).signExtend 32]) ∧
  (∀ b c d e : Byte, loadWords 4 [b, c, d, e] = [e ++ d ++ c ++ b]) ∧
  (let fourBytes := fun (bs : List Byte) (n : Nat) (ws : List Word) => ws.length = n ∧ ∀ k b c d e, k < n → bs[4 * k]? = some b →
     bs[4 * k + 1]? = some c → bs[4 * k + 2]? = some d → bs[4 * k + 3]? = some e → ws[k]? = some (e ++ d ++ c ++ b)
   (∀ bs, (bs.length = 8 → fourBytes bs 2 (loadWords 5 bs)) ∧ (bs.length = 16 → fourBytes bs 4 (loadWords 6 bs)) ∧
     (bs.length = 32 → fourBytes bs 8 (loadWords 7 bs))) ∧
   (∀ (f : Flight) a, (f.kind = .load → f.words a = loadWords f.mf a.result) ∧
     (f.kind = .atom → f.size = 4 → fourBytes a.result 1 (f.words a)) ∧ (f.kind = .atom → f.size = 8 → fourBytes a.result 2 (f.words a)))) ∧
  (∀ (f : Flight) (g : Group) a d k j, j < 32 → a.lane < 32 → g.accRuns = [] →
    let x := if d ≤ k then (f.words a)[k - d]? else none
    (f.dst = .lanes d → (f.write g a).vreg k j = if j = a.lane then x.getD (g.vreg k j) else g.vreg k j) ∧
    (∀ m, f.dst = .bcast d m → (f.write g a).vreg k j = if m.getLsbD j then x.getD (g.vreg k j) else g.vreg k j) ∧
    (f.dst = .uni d → (f.write g a).greg k = x.getD (g.greg k)))

/-- R191: a store's accesses to a line of plain memory that arrive at their home are accepted there in lane order, each with the line's
completion time, which is not before the present, the end of the line's lease, and the completion time of any write accepted before.

R310, R313: an atomic or a reduction that arrives leaves there the value that its operation forms from what every accepted write leaves, and its
answer is the old value; of two lanes at one place the second finds what the first has left (R193). The value that each operation forms.

R192: a pending write takes effect once its completion time has come, and those before it in coherence order with it: where they overlap the last one
stands, and no other byte changes.

R190, R193, R199, R200: the other home and cache events. A load's accesses to a line are served at their home; OWNED and update-only
requests are granted where no lease and no pending write stands on the line; an acknowledged store gives its group its completion
times.

Completes: HOME_LOAD_REQUEST, HOME_WRITE_ARRIVAL, OWNED_LINE_REQUEST, UPDATE_ONLY_REQUEST, WRITE_ACK, WRITE_VISIBLE (the conclusion is
that exec answers this next state). -/
def Obligations.WritesBecomeVisibleAtTheirTime : Prop :=
  ((∀ (s : State) id line f, s.flight? id = some f → f.kind = .store → s.canWrite f line = true →
     (∀ a ∈ f.accs, a.tile = none) →
     ∃ t ws, exec (.homeWriteArrival id line) s = .next t ∧ t.pending = (s.atHome line).pending ++ ws ∧
       ws.map (fun w => (w.key, w.data)) = (f.on line).map (fun a => (a.key, a.data)) ∧
       (∀ w ∈ ws, w.gwct = (s.atHome line).gwctOf line ∧ w.grp = f.grp) ∧ ∀ a, t.mem.byte a = (s.atHome line).mem.byte a) ∧
   (∀ (s : State) line, s.now ≤ s.gwctOf line ∧ (s.homeLine line).leaseUntil ≤ s.gwctOf line ∧
     ∀ w ∈ s.pendingOn line, w.gwct ≤ s.gwctOf line) ∧
   (∀ (s : State) id line f a, s.flight? id = some f → (f.kind = .atom ∨ f.kind = .red) → s.canWrite f line = true → f.accs = [a] →
     a.tile = none → a.key / 128 = line →
     let h := s.atHome line
     let old := h.latest.mem.bytes a.key f.size
     ∃ t w, exec (.homeWriteArrival id line) s = .next t ∧ t.pending = h.pending ++ [w] ∧ w.key = a.key ∧ w.gwct = h.gwctOf line ∧
       w.data = leBytes f.size (atomOp f.mf (leNat old) (leNat a.data) a.cmp) ∧ (∀ x, t.mem.byte x = h.mem.byte x) ∧
       (f.grp ≠ noGroup → ∃ f' b, f' ∈ t.flights ∧ f'.id = id ∧ f'.accs = [b] ∧ b.done = true ∧ b.lane = a.lane ∧ b.result = old)) ∧
   (∀ (s : State) id line f a b, s.flight? id = some f → (f.kind = .atom ∨ f.kind = .red) → s.canWrite f line = true → f.accs = [a, b] →
     a.lane ≠ b.lane → a.tile = none → b.tile = none → a.key / 128 = line → b.key = a.key → a.key % 128 + f.size ≤ 128 →
     (∀ w ∈ (s.atHome line).pending, w.id < (s.atHome line).nextId) →
     ∃ t v w, exec (.homeWriteArrival id line) s = .next t ∧ t.pending = (s.atHome line).pending ++ [v, w] ∧ v.key = a.key ∧ w.key = a.key ∧
       v.gwct = w.gwct ∧ w.data = leBytes f.size (atomOp f.mf (leNat v.data) (leNat b.data) b.cmp)) ∧
   (∀ o x c : Word,
     let n := fun (mf : Nat) => atomOp mf o.toNat x.toNat c.toNat
     n 0 = (o + x).toNat ∧ n 1 = (Machine.fadd o x).toNat ∧ n 2 = (if o.toInt ≤ x.toInt then o else x).toNat ∧
     n 3 = (if o.toInt ≤ x.toInt then x else o).toNat ∧ n 4 = min o.toNat x.toNat ∧ n 5 = max o.toNat x.toNat ∧ n 6 = (o &&& x).toNat ∧
     n 7 = (o ||| x).toNat ∧ n 8 = (o ^^^ x).toNat ∧ n 9 = x.toNat ∧ n 10 = (if o = c then x else o).toNat ∧
     n 12 = (Machine.badd2 o x).toNat) ∧
   (∀ o x c, atomOp 11 o x c = (o + x) % 2 ^ 64)) ∧
  ((∀ (s : State) w, w ∈ s.pending → (s.pending.map fun x => x.id).Nodup → w.gwct ≤ s.now →
     let later := fun (y x : PWrite) => x.gwct < y.gwct ∨ x.gwct = y.gwct ∧ x.id < y.id
     let covers := fun (y : PWrite) a => y.key ≤ a ∧ a < y.key + y.data.length
     ∃ t, exec (.writeVisible w.id) s = .next t ∧ (∀ x, x ∈ t.pending ↔ x ∈ s.pending ∧ later x w) ∧
       (∀ x ∈ s.pending, ¬later x w → ∀ i b, x.data[i]? = some b →
         (∀ y ∈ s.pending, ¬later y w → later y x → ¬covers y (x.key + i)) → t.mem.byte (x.key + i) = b) ∧
       ∀ a, (∀ x ∈ s.pending, ¬later x w → ¬covers x a) → t.mem.byte a = s.mem.byte a) ∧
   (∀ (s : State) w, w ∈ s.pending → (s.pending.map fun x => x.id).Nodup → s.now < w.gwct → exec (.writeVisible w.id) s = .next s)) ∧
  ((∀ (s : State) id line f, s.flight? id = some f → s.canLoad f line = true → (∀ a ∈ f.accs, a.tile = none) →
     ∃ t f', exec (.homeLoadRequest id line) s = .next t ∧ f' ∈ t.flights ∧ f'.id = id ∧
       f'.accs.length = f.accs.length ∧ (∀ a ∈ f'.accs, a.key / 128 = line → a.done = true)) ∧
   (∀ (s : State) cl line f fs, s.mature.waitingOn cl line .atom = f :: fs → s.mature.holds f line = false →
     s.mature.gwctOf line ≤ s.mature.now → s.mature.hasCache cl = true →
     exec (.ownedLineRequest cl line) s = .next ((s.mature.grant cl line f .owned).performWaiting line false (f :: fs))) ∧
   (∀ (s : State) cl line f fs, s.mature.waitingOn cl line .red = f :: fs → s.mature.holds f line = false →
     s.mature.gwctOf line ≤ s.mature.now → s.mature.hasCache cl = true →
     exec (.updateOnlyRequest cl line) s = .next ((s.mature.grant cl line f .updateOnly).performWaiting line false (f :: fs))) ∧
   (∀ (s : State) id f (g : Group), s.flight? id = some f → f.finished = true → f.kind = .store → f.blocking = false →
     s.group? f.grp = some g → g.horizons.length = 8 →
     ∃ t, ∃ g' : Group, exec (.writeAck id) s = .next t ∧ t.group? f.grp = some g' ∧ (∀ x ∈ t.flights, x.id ≠ id) ∧
       (∀ k h : Nat, g.horizons[k]? = some h → ∃ h', g'.horizons[k]? = some h' ∧ h ≤ h' ∧ f.visMod ≤ h') ∧
       (∀ h' : Nat, g'.horizons[7]? = some h' → f.visOut ≤ h') ∧ ∀ a, t.mem.byte a = s.mem.byte a))

/-- FENCE (R197, R198): an acquire, or a fence whose writes are all visible past the guard of 2 ns, completes; another waits until
FENCE_RELEASE finds those that were issued before it so. What the path has loaded before its words is dropped at either part (log 3). A scope above
SCOPE.MAX raises SCOPE_DENIED. Where a port that went down took a write of the group with it, the release raises POISON with TRAP.ADDR at the
write (R283, R292), which waits while the sibling is in a chain (R46).

Completes: FENCE, FENCE_RELEASE (the conclusion is that exec answers this next state). -/
def Obligations.FenceWaitsForItsWrites : Prop :=
  ∀ (o : UniFence) (s : State) g slot p r, s.At g slot p → bareForm.operands g p = .ok r →
    (s.scopeMax g < o.scope.toNat → exec (.fence o) s = .next (s.trapPath g.id slot .scopeDenied p.lanes 0)) ∧
    (o.scope.toNat ≤ s.scopeMax g → (o.kind = 2 ∨ s.released g o.scope = true) → ∃ t, exec (.fence o) s = .next t ∧
      Moves s t g slot { p.after s with early := [] } 12) ∧
    (o.scope.toNat ≤ s.scopeMax g → o.kind ≠ 2 → s.released g o.scope = false → ∃ t x q, exec (.fence o) s = .next t ∧
      t.group? g.id = some x ∧ x.path slot = some q ∧ q.wait = .fence o.scope ∧ q.upTo = s.nextId ∧ q.pc = p.pc ∧
      SameRegs t g ∧ ∀ a, t.mem.byte a = s.mem.byte a) ∧
    (∀ sc, p.wait = .fence sc →
      (s.settled g sc p.upTo = true → g.lost = none → ∃ t, exec (.fenceRelease g.id slot) s = .next t ∧
        Moves s t g slot { p.after s with early := [] } 12) ∧
      (g.lost.isSome = true → s.chainHolds g slot = true → exec (.fenceRelease g.id slot) s = .next s) ∧
      (∀ a c, s.settled g sc p.upTo = true → g.lost = some a → s.chainHolds g slot = false → s.ctx? g.ctx = some c → c.trapVec ≠ 0 → g.trap.handler = false →
        ∃ t x q, exec (.fenceRelease g.id slot) s = .next t ∧ t.group? g.id = some x ∧ x.path slot = some q ∧ q.pc = c.trapVec ∧
          q.wait = .ready ∧ x.trap.cause = Cause.poison.code ∧ x.trap.addr = BitVec.ofNat 64 a ∧ x.trap.pc = p.pc ∧ x.lost = none) ∧
      (s.settled g sc p.upTo = false → exec (.fenceRelease g.id slot) s = .next s)) ∧
    (∀ (s : State) sc upTo, s.settled g sc upTo = true ↔
      (∀ f ∈ s.flights, f.grp = g.id → f.kind ≠ .load → upTo ≤ f.id) ∧
      (∀ x ∈ s.tupleReqs, x.grp = g.id → x.kind = .dep → (x.stage = .releasing ∨ x.stage = .travelling ∨ x.stage = .parked) → upTo ≤ x.id) ∧
      (g.horizons[sc.toNat]?).getD 0 + 2 ≤ s.now)

/-- LDS and ULDS (R371, R446): sound accesses without poison write the registers of the lanes from the bytes there, leave memory and every
block as they are, and complete the word, which takes the cycles of its most accessed bank (R149); a poisoned byte raises POISON with the
lanes that read one, and writes no register. That an access is performed at its bank when it issues is log 64.

R145, R147: an address of a scratchpad word outside the gang or the allocation raises SCRATCH_BOUNDS, a misaligned one MISALIGNED; LDS and STS
raise the trap among their lanes with the lanes and the address of R145, every active lane where one access stands for all.

Completes: LDS, ULDS (the conclusion is that exec answers this next state). -/
def Obligations.ScratchLoadsWriteRegisters : Prop :=
  ((∀ (o : LaneVS) (s : State) g slot p r ls, s.At g slot p →
     (formVM (.vd o.d (accessRegs o.mf)) o.u o.a).operands g p ofsOnly = .ok r →
     s.scratchLanes g (accessSize o.mf) (scratchX r g) (scratchLanesOf o.u p) = ls → ScratchSound s g ls →
     (∀ l ∈ ls, s.scratchPoison g l.va (accessSize o.mf) = none) →
     ∃ t g' n, exec (.lds o) s = .next t ∧ Completes (s.charge g.ctx 8 n) t g g' slot
         (afterBanks p s g (s.bankCycles g (ls.map fun l => (l.va, accessSize o.mf)))) (if o.u then 0 else 1) ∧
       t.blocks = s.blocks ∧ g'.g = g.g ∧
       g'.v = (ls.foldl (fun (x : Group) l =>
         if o.u then (lanesOf p.lanes).foldl
           (fun y i => y.setVs r.d.num i (loadWords o.mf.toNat (s.scratchBytes g l.va (accessSize o.mf)))) x
         else x.setVs r.d.num l.lane (loadWords o.mf.toNat (s.scratchBytes g l.va (accessSize o.mf)))) g).v) ∧
   (∀ (o : UniMS) (s : State) g slot p r l, s.At g slot p → (formUS o.d (accessRegs o.mf) o.a).operands g p ofsOnly = .ok r →
     s.scratchLanes g (accessSize o.mf) (fun _ => uniX o (accessSize o.mf) r g) [0] = [l] → ScratchSound s g [l] →
     s.scratchPoison g l.va (accessSize o.mf) = none →
     ∃ t g' n, exec (.ulds o) s = .next t ∧ Completes (s.charge g.ctx 8 n) t g g' slot
         (afterBanks p s g (s.bankCycles g [(l.va, accessSize o.mf)])) 0 ∧ t.blocks = s.blocks ∧
       g'.v = g.v ∧ g'.g = (g.setGs r.d.num (loadWords o.mf.toNat (s.scratchBytes g l.va (accessSize o.mf)))).g) ∧
   (∀ (o : UniMS) (s : State) g slot p r l a, s.At g slot p → (formUS o.d (accessRegs o.mf) o.a).operands g p ofsOnly = .ok r →
     s.scratchLanes g (accessSize o.mf) (fun _ => uniX o (accessSize o.mf) r g) [0] = [l] → ScratchSound s g [l] →
     s.scratchPoison g l.va (accessSize o.mf) = some a →
     ∃ n, exec (.ulds o) s = .next ((s.charge g.ctx 8 n).trapPath g.id slot .poison p.lanes a)) ∧
   (∀ (o : LaneVS) (s : State) g slot p r ls l bad a, s.At g slot p →
     (formVM (.vd o.d (accessRegs o.mf)) o.u o.a).operands g p ofsOnly = .ok r →
     s.scratchLanes g (accessSize o.mf) (scratchX r g) (scratchLanesOf o.u p) = ls → ScratchSound s g ls →
     ls.filter (fun l => (s.scratchPoison g l.va (accessSize o.mf)).isSome) = l :: bad → s.scratchPoison g l.va (accessSize o.mf) = some a →
     ∃ n, exec (.lds o) s = .next ((s.charge g.ctx 8 n).trapPath g.id slot .poison
       (if o.u then p.lanes else maskOf ((l :: bad).map fun l => l.lane)) a))) ∧
  ((∀ (s : State) g (x : Int) size align,
     (x < 0 ∨ 2 ^ 28 ≤ x ∨ s.gangSize g ≤ memberOf x.toNat ∨ s.scratchSize g < offsetOf x.toNat + size →
       ∃ n, s.scratchFault g x size align = some (n, .scratchBounds)) ∧
     (¬(x < 0 ∨ 2 ^ 28 ≤ x ∨ s.gangSize g ≤ memberOf x.toNat ∨ s.scratchSize g < offsetOf x.toNat + size) →
       (x.toNat % align ≠ 0 → ∃ n, s.scratchFault g x size align = some (n, .misaligned)) ∧
       (x.toNat % align = 0 → s.scratchFault g x size align = none))) ∧
   (∀ (o : UniMS) (s : State) g slot p r n c, s.At g slot p → (formUS o.d (accessRegs o.mf) o.a).operands g p ofsOnly = .ok r →
     s.scratchFault g (uniX o (accessSize o.mf) r g) (accessSize o.mf) (accessSize o.mf) = some (n, c) → n < 100 →
     ∃ a, exec (.ulds o) s = .next (s.trapPath g.id slot c p.lanes a) ∧ exec (.usts o) s = .next (s.trapPath g.id slot c p.lanes a)) ∧
   (∀ (o : LaneVS) (s : State) g slot p ls c m a, s.At g slot p → laneTrap ls = some (.trap c m a) →
     (∀ r, (formVM (.vd o.d (accessRegs o.mf)) o.u o.a).operands g p ofsOnly = .ok r →
       s.scratchLanes g (accessSize o.mf) (scratchX r g) (scratchLanesOf o.u p) = ls →
       exec (.lds o) s = .next (s.trapPath g.id slot c (if o.u then p.lanes else m) a)) ∧
     (∀ r, (formVM (if o.u then Fld.gx o.d (accessRegs o.mf) else Fld.vd o.d (accessRegs o.mf)) o.u o.a).operands g p ofsOnly = .ok r →
       s.scratchLanes g (accessSize o.mf) (scratchX r g) (scratchLanesOf o.u p) = ls →
       exec (.sts o) s = .next (s.trapPath g.id slot c (if o.u then p.lanes else m) a))))

/-- STS and USTS (R149, R193, R201, R416, R446): where every lane's address is sound, the word completes: the lanes store their data at the
addresses they compute, in ascending order, and nothing else of the scratchpads, of memory or of the registers changes. That the bytes are
written at the bank when the word issues is log 64.

Completes: STS, USTS (the conclusion is that exec answers this next state). -/
def Obligations.ScratchStoresWriteTheirBytes : Prop :=
  (∀ (o : LaneVS) (s : State) g slot p r ls, s.At g slot p →
    (formVM (if o.u then Fld.gx o.d (accessRegs o.mf) else Fld.vd o.d (accessRegs o.mf)) o.u o.a).operands g p ofsOnly = .ok r →
    s.scratchLanes g (accessSize o.mf) (scratchX r g) (scratchLanesOf o.u p) = ls → ScratchSound s g ls → p.lanes ≠ 0 → p.wait = .ready →
    ∃ t, exec (.sts o) s = .next t ∧
      ScratchStored s t g slot p o.u (accessSize o.mf) (runBytes g r.d (accessRegs o.mf) (accessSize o.mf)) ls) ∧
  (∀ (o : UniMS) (s : State) g slot p r ls, s.At g slot p → (formUS o.d (accessRegs o.mf) o.a).operands g p ofsOnly = .ok r →
    s.scratchLanes g (accessSize o.mf) (fun _ => uniX o (accessSize o.mf) r g) [0] = ls → ScratchSound s g ls → p.lanes ≠ 0 → p.wait = .ready →
    ∃ t, exec (.usts o) s = .next t ∧
      ScratchStored s t g slot p true (accessSize o.mf) (runBytes g r.d (accessRegs o.mf) (accessSize o.mf)) ls)

/-- TWSET and TRW (R98, R99, R427, R434): TWSET sets the window register where its checks pass; TRW through a set window writes the weights
of the lanes' indices and completes after the cycles of its most accessed bank (R149); an index past the window raises SCRATCH_BOUNDS in the
lanes that have one.

ADDR and AQRY (R211, R305, R308): ADDR sets BASE, EXTENT and VALID; LIMIT ends at EXTENT or at the page's end, and is 0 where a
shootdown of the span has not completed; AQRY reads LIMIT, or 0 of an invalid register.

Completes: TRW, ADDR, AQRY, TWSET (the conclusion is that exec answers this next state). -/
def Obligations.WindowAndAddressWords : Prop :=
  ((∀ (o : UniTw) (s : State) g slot p r, s.At g slot p → (formCtl .absent (.ud o.a 4) .absent regOnly).operands g p = .ok r →
     g.wreg.length = 4 →
     let x := g.greg r.a.num
     let rate := (g.greg (r.a.num + 1)).toNat
     let count := (g.greg (r.a.num + 2)).toNat
     (2 ≤ rate → rate ≤ 4 → 1 ≤ count → count ≤ 2 ^ 24 → g.greg (r.a.num + 3) = 0 →
       s.scratchFault g x.toNat (count * castBytes rate) 4 = none →
       ∃ t g', exec (.twset o) s = .next t ∧ Completes s t g g' slot (p.after s) 12 ∧
         (g'.window o.w.toNat).valid = true ∧ (g'.window o.w.toNat).addr.toNat = x.toNat ∧
         (g'.window o.w.toNat).rate.toNat = rate ∧ (g'.window o.w.toNat).count.toNat = count ∧
         (∀ k, k ≠ o.w.toNat → g'.window k = g.window k) ∧ g'.g = g.g ∧ g'.v = g.v) ∧
     (rate < 2 ∨ 4 < rate ∨ count = 0 ∨ 2 ^ 24 < count ∨ g.greg (r.a.num + 3) ≠ 0 →
       exec (.twset o) s = .next (s.trapPath g.id slot .format p.lanes 0))) ∧
   (∀ (o : LaneTrw) (s : State) g slot p r row, s.At g slot p → (formTrw o).operands g p = .ok r →
     queueCheck s g p.lanes r.a.queue? r.d.queue? = .ok row →
     let w := g.window o.w.toNat
     let idx := fun i => (r.laneSrc g row r.a i).toNat
     (w.valid = false → exec (.trw o) s = .next (s.trapPath g.id slot .format p.lanes 0)) ∧
     (WindowReady s g w → (∀ i ∈ scratchLanesOf o.u p, idx i < 256 * w.count.toNat ∧ s.runPoison g w (idx i) = none) →
       ∃ t t0 n, exec (.trw o) s = .next t ∧
         WritesLanes (s.charge g.ctx 8 n) t0 g slot p r false (if o.u then 0 else 1) (fun i => s.weight g w (idx (if o.u then 0 else i))) ∧
         t = t0.holdBanks g slot (s.bankCycles g ((scratchLanesOf o.u p).map fun i => w.runs (idx i)).flatten)) ∧
     (∀ i, w.valid = true → i ∈ scratchLanesOf o.u p → 256 * w.count.toNat ≤ idx i →
       ∃ a, exec (.trw o) s =
         .next (s.trapPath g.id slot .scratchBounds
           (if o.u then p.lanes else maskOf ((lanesOf p.lanes).filter fun k => decide (256 * w.count.toNat ≤ idx k))) a)))) ∧
  ((∀ (o : UniN) (s : State) g slot p r s1 lim frm leaf, s.At g slot p →
     (formCtl .absent (.ud o.a 2) (.us o.b) regOnly).operands g p = .ok r → g.areg.length = 8 →
     s.frameOf g.vf g.ctx (pairOf g r.a.num).toNat (g.greg r.b.num).toNat = (s1, lim, frm, leaf) →
     lim ≤ (g.greg r.b.num).toNat ∧
     ∃ t g', exec (.addr o) s = .next t ∧ Completes s1 t g g' slot (p.after s) 12 ∧
       (g'.addr o.n.toNat).base = g.greg (r.a.num + 1) ++ g.greg r.a.num ∧ (g'.addr o.n.toNat).extent = g.greg r.b.num ∧
       (g'.addr o.n.toNat).limit.toNat = lim ∧ (g'.addr o.n.toNat).valid = true ∧
       (canonical (pairOf g r.a.num).toNat = false → lim = 0) ∧
       (∀ s2 e key, canonical (pairOf g r.a.num).toNat = true → s.mature.walk g.ctx (pairOf g r.a.num).toNat true = (s2, .leaf e) →
         (e.leaf.cls = 0 ∨ e.leaf.cls = 1) → e.res = 0 → s2.place e (pairOf g r.a.num).toNat = .mem key →
         let upTo := min (g.greg r.b.num).toNat (e.page + e.size - (pairOf g r.a.num).toNat % 2 ^ 57)
         lim ≤ upTo ∧ (s2.shootdowns = [] → lim = upTo ∧ frm = key)) ∧
       (∀ k, k ≠ o.n.toNat → g'.addr k = g.addr k) ∧ g'.g = g.g ∧ g'.v = g.v) ∧
   (∀ (o : UniQ) (s : State) g slot p r, s.At g slot p → (formCtl (.ud o.d 1) .absent .absent regOnly).operands g p = .ok r →
     ∃ t, exec (.aqry o) s = .next t ∧
       WritesG s t g slot (p.after s) r.d.num (if (g.addr o.n.toNat).valid then (g.addr o.n.toNat).limit else 0) 0))

/-- BARA, BARS and BARW (R319, R322, R323): an arrival adds its count in the barrier word, and the one that completes it flips the phase;
BARA goes on; BARS goes on where its arrival flipped the phase and else waits for a flip; BARW goes on where the phase differs from
the one it names. A malformed word, a count of 0 or one that passes EXPECT raises BARRIER, its access charged (R302).

BARRIER_POLL (R323): 64 cycles of its cluster after its last read, a polling path reads the barrier word again; it goes on where the
phase differs from the one it awaits a change of, and else waits on.

Completes: BARA, BARW, BARS, BARRIER_POLL (the conclusion is that exec answers this next state). -/
def Obligations.BarriersCountAndWait : Prop :=
  (∀ (o : UniAB) (s : State) g slot p r b w, s.At g slot p → (formCtl .absent (.us o.a) (.us o.b) regOnly).operands g p = .ok r →
     let x := (g.greg r.a.num).toNat
     let c := (g.greg r.b.num).toNat
     (BarrierAt s g p x b w → p.wait = .ready → (p.released = true ∨ s.released g 2 = true) →
       (1 ≤ c → barArrived w + c ≤ barExpect w →
         (∃ t, exec (.bara o) s = .next t ∧ Arrived t b x w c ∧ GoesOn t g.id slot p s ∧ SameRegs t g) ∧
         (barArrived w + c = barExpect w →
           ∃ t, exec (.bars o) s = .next t ∧ Arrived t b x w c ∧ GoesOn t g.id slot p s ∧ SameRegs t g) ∧
         (barArrived w + c ≠ barExpect w → (s.cluster? g.cluster).isSome = true →
           ∃ t, exec (.bars o) s = .next t ∧ Arrived t b x w c ∧ WaitsAt t g slot b x (barPhase w) ∧ SameRegs t g)) ∧
       (c = 0 ∨ barExpect w < barArrived w + c →
         exec (.bara o) s = .next ((s.charge g.ctx 8 1).trapPath g.id slot .barrier p.lanes 0) ∧
         exec (.bars o) s = .next ((s.charge g.ctx 8 1).trapPath g.id slot .barrier p.lanes 0))) ∧
     (BarrierAt s g p x b w →
       (barPhase w ≠ (g.greg r.b.num).getLsbD 0 →
         ∃ t, exec (.barw o) s = .next t ∧ Moves (s.charge g.ctx 8 1) t g slot { p.after s with early := [] } 12) ∧
       (barPhase w = (g.greg r.b.num).getLsbD 0 → (s.cluster? g.cluster).isSome = true →
         ∃ t, exec (.barw o) s = .next t ∧ WaitsAt t g slot b x (barPhase w) ∧ SameRegs t g ∧ t.blocks = s.blocks)) ∧
     (∀ w', s.barrierAt g p x = .ok b → leNat (b.scratch.bytes (offsetOf x) 8) = w' → barMalformed w' = true →
       (p.released = true ∨ s.released g 2 = true) →
       exec (.bara o) s = .next ((s.charge g.ctx 8 1).trapPath g.id slot .barrier p.lanes 0) ∧
       exec (.bars o) s = .next ((s.charge g.ctx 8 1).trapPath g.id slot .barrier p.lanes 0) ∧
       exec (.barw o) s = .next ((s.charge g.ctx 8 1).trapPath g.id slot .barrier p.lanes 0))) ∧
  (∀ (s : State) gid slot g p bl off ph b, s.group? gid = some g → g.path slot = some p → p.wait = .barrier bl off ph true →
     s.block? bl = some b →
     (p.readyAt + 64 * s.cycle g.cluster ≤ s.ticks →
       (barPhase (leNat (b.scratch.bytes off 8)) ≠ ph → ∃ t, exec (.barrierPoll gid slot) s = .next t ∧ GoesOn t gid slot p s) ∧
       (barPhase (leNat (b.scratch.bytes off 8)) = ph → ∃ t, exec (.barrierPoll gid slot) s = .next t ∧ Waits t gid slot p.wait)) ∧
     (s.ticks < p.readyAt + 64 * s.cycle g.cluster → exec (.barrierPoll gid slot) s = .next s))

/-- QBIND and QSTAT (R155, R156, R393): ROLE 0 leaves qN unbound; another role whose checks pass binds it to the FIFO of its first bank;
bits that must be zero raise QUEUE. QSTAT reads the binding, or 0 of an unbound register.

BANKCFG, BANKCFG_DONE and BANK_ALLOCATE (R150, R152, R153): FORMAT and PRIV; the status DONE where the bank is, or enters, the mode
asked for, and BUSY with its reason where it may not leave its own; the path waits while partials of a CACHE bank are sent home.

Completes: QBIND, QSTAT, BANKCFG, BANKCFG_DONE, BANK_ALLOCATE (the conclusion is that exec answers this next state). -/
def Obligations.QueueBindingAndBanks : Prop :=
  ((∀ (o : UniN) (s : State) g slot p r c, s.At g slot p → (formCtl .absent (.us o.a) (.us o.b) regOnly).operands g p = .ok r →
     s.cluster? g.cluster = some c → g.qreg.length = 8 →
     let bank := (g.greg r.a.num).toNat
     let m := bindMode (g.greg r.b.num)
     (16 ≤ bank ∨ 512 ≤ (g.greg r.b.num).toNat → exec (.qbind o) s = .next (s.trapPath g.id slot .queue p.lanes 0)) ∧
     (bank < 16 → (g.greg r.b.num).toNat < 512 →
       (m.role = 0 → ∃ t g', exec (.qbind o) s = .next t ∧ GoesOn t g.id slot p s ∧ t.group? g.id = some g' ∧
         g'.queue o.n.toNat = none ∧ g'.g = g.g ∧ g'.v = g.v) ∧
       (m.role ≠ 0 → bindRefused c g.ctx bank m = false → ∃ t g', exec (.qbind o) s = .next t ∧ GoesOn t g.id slot p s ∧
         t.group? g.id = some g' ∧ g'.queue o.n.toNat = some { bank := bank, role := BitVec.ofNat 2 m.role } ∧
         (∀ k, k < 8 → k ≠ o.n.toNat → g'.queue k = g.queue k) ∧ g'.g = g.g ∧ g'.v = g.v) ∧
       (m.role ≠ 0 → bindRefused c g.ctx bank m = true → exec (.qbind o) s = .next (s.trapPath g.id slot .queue p.lanes 0)))) ∧
   (∀ (o : UniQ) (s : State) g slot p r, s.At g slot p → (formCtl (.ud o.d 1) .absent .absent regOnly).operands g p = .ok r →
     ∃ t x, exec (.qstat o) s = .next t ∧ WritesG s t g slot (p.after s) r.d.num x 12 ∧
       (s.fifoOf g o.n.toNat = none → x = 0) ∧
       ∀ f role, s.fifoOf g o.n.toNat = some (f, role) → x.toNat % 4 = role.toNat ∧ x.getLsbD 2 = f.mc ∧
         x.toNat / 8 % 2 ^ 14 = f.avail g.id o.n.toNat % 2 ^ 14 ∧ x.toNat / 2 ^ 17 % 2 ^ 14 = f.room % 2 ^ 14)) ∧
  ((∀ (o : UniR) (s : State) g slot p r c b, s.At g slot p → (formCtl (.ud o.d 1) (.us o.a) (.us o.b) regOnly).operands g p = .ok r →
     let n := (g.greg r.a.num).toNat
     let m := (g.greg r.b.num).toNat
     (16 ≤ n ∨ 3 ≤ m → exec (.bankcfg o) s = .next (s.trapPath g.id slot .format p.lanes 0)) ∧
     (n < 16 → m < 3 → s.cluster? g.cluster = some c → c.banks[n]? = some b →
       (b.owner ≠ some g.ctx → exec (.bankcfg o) s = .next (s.trapPath g.id slot .priv p.lanes 0)) ∧
       (b.owner = some g.ctx → b.leaving = true →
         ∃ t, exec (.bankcfg o) s = .next t ∧ WritesG s t g slot (p.after s) r.d.num 0x41 12) ∧
       (b.owner = some g.ctx → b.leaving = false → b.mode = bankModeOf m →
         ∃ t, exec (.bankcfg o) s = .next t ∧ WritesG s t g slot (p.after s) r.d.num 0 12) ∧
       (b.owner = some g.ctx → b.leaving = false → b.mode ≠ bankModeOf m → b.mode = .cache →
         (∃ l ∈ c.lines, l.bank = n ∧ l.kind = .updateOnly) →
         ∃ t, exec (.bankcfg o) s = .next t ∧ Waits t g.id slot (.bankcfg n m r.d.num) ∧ SameRegs t g) ∧
       (b.owner = some g.ctx → b.leaving = false → b.mode ≠ bankModeOf m → (b.mode ≠ .cache ∨ ∀ l ∈ c.lines, l.bank ≠ n) →
         (c.bankBusy n b ≠ 0 → ∃ t, exec (.bankcfg o) s = .next t ∧
           WritesG s t g slot (p.after s) r.d.num (BitVec.ofNat 32 (1 + 16 * c.bankBusy n b)) 12) ∧
         (c.bankBusy n b = 0 → ∃ t, exec (.bankcfg o) s = .next t ∧
           WritesG (s.modBank g.cluster n fun b => { b with mode := bankModeOf m, granules := 0 }) t g slot (p.after s) r.d.num 0
             12)))) ∧
   (∀ (s : State) gid slot g p n m d, s.group? gid = some g → g.path slot = some p → p.wait = .bankcfg n m d →
     (s.partialsAway g.cluster = true → exec (.bankcfgDone gid slot) s = .next s) ∧
     (s.partialsAway g.cluster = false → ∃ t g', exec (.bankcfgDone gid slot) s = .next t ∧ GoesOn t gid slot p s ∧ t.group? gid = some g' ∧
       g'.greg d = 0 ∧ (∀ c b, s.cluster? g.cluster = some c → c.banks[n]? = some b →
         ∃ c' b', t.cluster? g.cluster = some c' ∧ c'.banks[n]? = some b' ∧ b'.mode = bankModeOf m ∧ b'.leaving = false))) ∧
   (∀ (s : State) cl bank ctx mode c b x, s.station.mode = .running → s.cluster? cl = some c → c.banks[bank]? = some b →
     b.leaving = false → c.bankBusy bank b = 0 → b.mode ≠ .cache → mode < 3 → s.ctx? ctx = some x →
     ∃ t c' b', exec (.bankAllocate cl bank ctx mode) s = .next t ∧ t.cluster? cl = some c' ∧ c'.banks[bank]? = some b' ∧
       b' = { mode := bankModeOf mode, owner := some ctx, granules := 0, leaving := false }))

/-- TSDEP, TSCPY and TSTAK (R180, R429, R430): with lanes that are not helpers, a good descriptor, the scope TENANT and a region that the
address register names, the request, its descriptor read at issue, travels to its home and the path waits; without such lanes the status is
NOMATCH, and without a region, or where its page is no tuple page, CLASS; a bad descriptor raises FORMAT, a lower scope SCOPE_DENIED, and a
translation that traps its trap. A deposit whose release is not complete sets out at FENCE_RELEASE (R187).

The tuple events (R175, R181 to R184): a region is registered; of the requests that reach a home in one cycle, in the order of R184, a deposit
answers every parked copy it matches and then the earliest parked take, and else is stored while the share has room, and else answers NOSPACE;
a take or copy is answered with the matching tuple of lowest deposit sequence, and a take removes it; without a match it is answered NOMATCH, or
with WAIT = 1 parks, or is answered PARK_FULL where 512 are parked; a result writes its run, the status, and on a match the tag and the fields, each low
word first, and completes the word.

Completes: TSDEP, TSCPY, TSTAK, TUPLE_REGION_REGISTER, TUPLE_DEPOSIT_AT_HOME, TUPLE_TAKE_AT_HOME, TUPLE_RESULT_DELIVERY (the conclusion is
that exec answers this next state). -/
def Obligations.TupleRequestsMatchAndDeliver : Prop :=
  (∀ (kind : TupleKind) (wait : Bool) (d a : BitVec 8) (n : Nat) (c : BitVec 3) (ar : BitVec 3) (i : Instr),
     (i = .tsdep ⟨d, a, c, ar⟩ ∧ kind = .dep ∧ wait = false ∨ i = .tscpy ⟨d, a, wait, c, ar⟩ ∧ kind = .cpy ∨
       i = .tstak ⟨d, a, wait, c, ar⟩ ∧ kind = .tak) → n = c.toNat →
     ∀ (s : State) g slot p r, s.At g slot p →
       (formCtl (.ud d (resultRegs kind n)) (.ud a (descRegs kind n)) .absent regOnly).operands g p = .ok r →
       (modeOk kind n (g.greg (r.a.num + 1)) = false → exec i s = .next (s.trapPath g.id slot .format p.lanes 0)) ∧
       (modeOk kind n (g.greg (r.a.num + 1)) = true →
         (s.scopeMax g < 5 → exec i s = .next (s.trapPath g.id slot .scopeDenied p.lanes 0)) ∧
         (5 ≤ s.scopeMax g → p.lanes &&& ~~~g.helper = 0 →
           ∃ t, exec i s = .next t ∧ WritesG s t g slot { p.after s with early := [] } r.d.num 1 11) ∧
         (5 ≤ s.scopeMax g → p.lanes &&& ~~~g.helper ≠ 0 → s.region? g (g.addr ar.toNat) = none →
           ∃ t, exec i s = .next t ∧ WritesG s t g slot { p.after s with early := [] } r.d.num 5 11) ∧
         (∀ base size, 5 ≤ s.scopeMax g → p.lanes &&& ~~~g.helper ≠ 0 → s.region? g (g.addr ar.toNat) = some (base, size) →
           (∀ s1, s.mature.translate g.ctx g.secure .tuple base = (s1, .tuple) →
             ∃ t q, exec i s = .next t ∧ q ∈ t.tupleReqs ∧ q.grp = g.id ∧ q.slot = slot ∧ q.kind = kind ∧ q.wait = wait ∧
               q.base = base ∧ q.tag = g.greg r.a.num ∧ q.d = r.d.num ∧ q.vals.length = n ∧
               (∀ k, k < n → q.vals[k]? = some (pairOf g (r.a.num + 2 + (if kind = .dep then 2 else 4) * k))) ∧
               q.stage = (if kind = .dep ∧ s1.released g 5 = false then .releasing else .travelling) ∧
               Waits t g.id slot (.tuple q.id) ∧ SameRegs t g) ∧
           (∀ s1 key, s.mature.translate g.ctx g.secure .tuple base = (s1, .mem key) →
             ∃ t g', exec i s = .next t ∧ GoesOn t g.id slot p s ∧ t.group? g.id = some g' ∧
               ∀ k, g'.greg k = if k = r.d.num then 5 else g.greg k) ∧
           (∀ s1 rk e, s.mature.translate g.ctx g.secure .tuple base = (s1, .fault rk e) →
             exec i s = .next (s1.trapPath g.id slot e p.lanes base))))) ∧
  (∀ (s : State) g slot p q id, s.group? g.id = some g → g.path slot = some p → p.wait = .tuple id → q ∈ s.tupleReqs → q.id = id →
     q.stage = .releasing →
     (s.settled g 5 p.upTo = true → g.lost = none → ∃ t, exec (.fenceRelease g.id slot) s = .next t ∧ Waits t g.id slot (.tuple id) ∧
       { q with stage := .travelling } ∈ t.tupleReqs ∧ SameRegs t g) ∧
     (s.settled g 5 p.upTo = false → exec (.fenceRelease g.id slot) s = .next s)) ∧
  ((∀ (s : State) vf base size v, s.station.mode = .running → s.vf? vf = some v → base % 65536 = 0 → size % 65536 = 0 → 0 < size →
     ∃ t v', exec (.tupleRegionRegister vf base size) s = .next t ∧ t.vf? vf = some v' ∧ (base, size) ∈ v'.regions ∧
       ∀ r ∈ v'.regions, r.1 = base → r.2 = size) ∧
   (∀ (s : State) id r, (s.tupleReqs.find? fun x => x.id == id && x.kind == .dep && x.stage == .travelling) = some r →
     s.parkedAt r = [] → s.inOrder r = true →
     ((s.storedAt r).length < s.share r → ∃ t u, exec (.tupleDepositAtHome id) s = .next t ∧ t.tuples = s.tuples ++ [u] ∧
       u.tag = r.tag ∧ u.fields = r.vals ∧ u.vf = r.vf ∧ u.base = r.base ∧ u.slice = r.slice ∧
       u.seq = (s.depositSeq.get? r.slice).getD 0) ∧
     (s.share r ≤ (s.storedAt r).length → ∃ t, exec (.tupleDepositAtHome id) s = .next t ∧ t.tuples = s.tuples ∧
       ∃ q ∈ t.tupleReqs, q.id = id ∧ q.stage = .result 3 0 [] false)) ∧
   (∀ (s : State) id r, (s.tupleReqs.find? fun x => x.id == id && x.kind == .dep && x.stage == .travelling) = some r →
     s.inOrder r = true → (∀ x ∈ s.parkedAt r, x.id ≠ id) →
     ∃ t, exec (.tupleDepositAtHome id) s = .next t ∧
       (∀ x ∈ s.parkedAt r, x.kind = .cpy → x.accepts r.tag r.vals = true →
         ∃ q ∈ t.tupleReqs, q.id = x.id ∧ q.stage = .result 0 r.tag r.vals false) ∧
       ∀ x, leastKey (fun x => [x.arrived, x.rank]) ((s.parkedAt r).filter fun x => x.kind == .tak && x.accepts r.tag r.vals) = some x →
         t.tuples = s.tuples ∧ (∃ q ∈ t.tupleReqs, q.id = x.id ∧ q.stage = .result 0 r.tag r.vals false) ∧
           ∃ q ∈ t.tupleReqs, q.id = id ∧ q.stage = .result 0 0 [] false) ∧
   (∀ (s : State) id r, (s.tupleReqs.find? fun x => x.id == id && x.kind != .dep && x.stage == .travelling) = some r →
     s.inOrder r = true →
     (∀ u, (leastBy (fun t => t.seq) ((s.storedAt r).filter fun t => r.accepts t.tag t.fields)) = some u →
       ∃ t, exec (.tupleTakeAtHome id) s = .next t ∧ (∃ q ∈ t.tupleReqs, q.id = id ∧ q.stage = .result 0 u.tag u.fields u.psn) ∧
         (r.kind = .cpy → t.tuples = s.tuples) ∧ (r.kind = .tak → ∀ x ∈ t.tuples, ¬(x.slice = u.slice ∧ x.seq = u.seq))) ∧
     ((∀ u ∈ s.storedAt r, r.accepts u.tag u.fields = false) → r.wait = false →
       ∃ t, exec (.tupleTakeAtHome id) s = .next t ∧ t.tuples = s.tuples ∧ ∃ q ∈ t.tupleReqs, q.id = id ∧ q.stage = .result 1 0 [] false) ∧
     ((∀ u ∈ s.storedAt r, r.accepts u.tag u.fields = false) → r.wait = true →
       let parked := (s.tupleReqs.filter fun x => x.stage == .parked && x.slice == r.slice).length
       ∃ t q, exec (.tupleTakeAtHome id) s = .next t ∧ t.tuples = s.tuples ∧ q ∈ t.tupleReqs ∧ q.id = id ∧
         (parked < 512 → q = { r with stage := .parked, arrived := s.ticks / 12 }) ∧
         (512 ≤ parked → q.stage = .result 2 0 [] false))) ∧
   (∀ (s : State) id r g p st tag fs, (s.tupleReqs.find? fun x => x.id == id) = some r → r.stage = .result st tag fs false →
     s.group? r.grp = some g → g.path r.slot = some p →
     ∃ t g', exec (.tupleResultDelivery id) s = .next t ∧ GoesOn t r.grp r.slot p s ∧ t.group? r.grp = some g' ∧
       (∀ k, k < r.d → g'.greg k = g.greg k) ∧ g'.greg r.d = BitVec.ofNat 32 st ∧
       (st = 0 → r.kind ≠ .dep → g'.greg (r.d + 1) = tag ∧
         (∀ i f, fs[i]? = some f → g'.greg (r.d + 2 + 2 * i) = f.extractLsb' 0 32 ∧ g'.greg (r.d + 3 + 2 * i) = f.extractLsb' 32 32) ∧
         ∀ k, r.d + 2 + 2 * fs.length ≤ k → g'.greg k = g.greg k) ∧
       (st ≠ 0 ∨ r.kind = .dep → ∀ k, k ≠ r.d → g'.greg k = g.greg k) ∧ ∀ q ∈ t.tupleReqs, q.id ≠ id))

/-- MMA (R106 to R108, R120): with its queues bound, a good format record and room in the reservation table, the operation is posted with
one entry for each quarter that has an active lane, the group counts them as outstanding, and the path goes on; registers outside the
accumulators keep their values. Without its queues it raises QUEUE, with a bad record FORMAT, with a run outside the allocation SCRATCH_BOUNDS, whose
TRAP.ADDR is the model's choice (log 29), and without room it parks.

MOPF and MWAIT (R125 to R127): MOPF waits while a register write of the group is on its way; MWAIT n waits while more than n operations
are outstanding, reports a poisoned operation once, and else leaves the accumulators of completed operations with their results.

Completes: MMA, MOPF, MWAIT (the conclusion is that exec answers this next state). -/
def Obligations.MatrixOperations : Prop :=
  (∀ (o : LaneMma) (s : State) g slot p r c, s.At g slot p → (formMma o).operands g p = .ok r → s.cluster? g.cluster = some c →
     let w := s.gregsNow g r.a.num 8
     let f := fmtRec ((w[0]?).getD 0) ((w[1]?).getD 0)
     let win := g.window f.win
     (s.streamOf g o.qa.toNat = none → exec (.mma o) s = .next (s.trapPath g.id slot .queue p.lanes 0)) ∧
     (s.streamOf g o.qa.toNat ≠ none → (f.cast = true ∨ s.streamOf g o.qb.toNat ≠ none) → f.ok w win = false →
       exec (.mma o) s = .next (s.trapPath g.id slot .format p.lanes 0)) ∧
     (∀ fa, s.streamOf g o.qa.toNat = some fa → (f.cast = true ∨ s.streamOf g o.qb.toNat ≠ none) → f.ok w win = true →
       let d : MmaDesc := { fmt := (w[0]?).getD 0, k := f.k, asofs := ((w[2]?).getD 0).toNat, bsofs := ((w[3]?).getD 0).toNat,
                            bmofs := ((w[4]?).getD 0).toNat, win := if f.cast then some win else none, accz := o.accz, dreg := r.d.num,
                            qa := o.qa.toNat, qb := o.qb.toNat, fifoA := fa,
                            fifoB := if f.cast then none else s.streamOf g o.qb.toNat }
       (∀ x, s.badRun g (f.runs d) = some x → exec (.mma o) s = .next (s.trapPath g.id slot .scratchBounds p.lanes x)) ∧
       (s.badRun g (f.runs d) = none → s.entriesFree g.cluster < (quartersOf p.mask).length →
         exec (.mma o) s = .next (s.parkPath g.id slot .entries)) ∧
       (s.badRun g (f.runs d) = none → (quartersOf p.mask).length ≤ s.entriesFree g.cluster →
         ∃ t c' x g', exec (.mma o) s = .next t ∧ t.cluster? g.cluster = some c' ∧ c'.sets = c.sets ++ [x] ∧ x.grp = g.id ∧
           x.quarters = quartersOf p.mask ∧ x.desc = d ∧ x.posted = s.ticks ∧ t.group? g.id = some g' ∧
           g'.path slot = some (p.after s) ∧ g'.outstanding = g.outstanding + (quartersOf p.mask).length ∧ g'.g = g.g ∧
           (∀ k i, i < 32 → (k < r.d.num ∨ r.d.num + 32 ≤ k) → g'.vreg k i = g.vreg k i) ∧
           ∀ a, t.mem.byte a = s.mem.byte a))) ∧
  ((∀ (s : State) g slot p r, s.At g slot p → bareForm.operands g p = .ok r →
     (s.writesPending g = true → exec .mopf s = .next (s.parkPath g.id slot .mopf)) ∧
     (s.writesPending g = false → ∃ t, exec .mopf s = .next t ∧ Moves s t g slot (p.after s) 12)) ∧
   (∀ n (s : State) g slot p r, s.At g slot p → bareForm.operands g p = .ok r →
     (n.toNat < g.outstanding → exec (.mwait n) s = .next (s.parkPath g.id slot (.mwait n.toNat))) ∧
     (g.outstanding ≤ n.toNat → g.psnOps ≠ 0 →
       exec (.mwait n) s = .next (s.tellPath g.id slot .poison p.lanes 0 { ops := g.psnOps }) ∧
       (∀ c, s.ctx? g.ctx = some c → c.trapVec ≠ 0 → g.trap.handler = false → ∃ t x q, exec (.mwait n) s = .next t ∧
         t.group? g.id = some x ∧ x.psnOps = 0 ∧ x.trap.cause = Cause.poison.code ∧ x.trap.pc = p.pc ∧ x.path slot = some q ∧ q.pc = c.trapVec ∧
         SameRegs t g)) ∧
     (g.outstanding ≤ n.toNat → g.psnOps = 0 → (∀ a ∈ g.accRuns, a.done = true ∧ a.quarter < 4) → g.accHit = [] →
       ∃ t g', exec (.mwait n) s = .next t ∧ GoesOn t g.id slot p s ∧ t.group? g.id = some g' ∧ g'.accRuns = [] ∧ g'.g = g.g ∧
         (∀ k i, i < 32 → g'.vreg k i = if g.accBusy k i then (g.acc.get? (32 * k + i)).getD 0 else g.vreg k i) ∧
         ∀ a, t.mem.byte a = s.mem.byte a)))

/-- MFAC and MTRS (R131 to R135): a command whose descriptor and arrays are good is posted to its cluster's sequencer with one entry, the group counts
it as outstanding, its arrays are claimed, and the path goes on with its registers as they are; a bad descriptor raises FORMAT, an array outside
the allocation SCRATCH_BOUNDS, and a full table parks. TRAP.ADDR of SCRATCH_BOUNDS, the first outside byte of the first bad array, is the
model's choice (logs 29 and 68).

The factor sequencer's events (R134, R136, R140, R141): its head command starts in a cycle after its posting, and its first matrix is complete after
16 cycles and those of its algorithm (a command that a restore resumes takes the 16 again, log 69). FACTOR_MATRIX_COMPLETE charges class 9 n times and
leaves the outputs and the status word where R132 has them; before the last matrix the command goes on to the next, with the time of its
completion, or stops with its context; after the last it leaves the sequencer, its group has one operation less outstanding, its claims are done, and a
poisoned one is counted once.

R101, R137 to R140: what one column of CHOL and of LU, one row of the triangular solve and the permutation compute, and what the status word says.

Completes: MFAC, MTRS, FACTOR_COMMAND_START, FACTOR_MATRIX_COMPLETE (the conclusion is that exec answers this next state). -/
def Obligations.FactorCommands : Prop :=
  ((∀ (a : BitVec 8) (s : State) g slot p r c, s.At g slot p → (formCtl .absent (.ud a 8) .absent regOnly).operands g p = .ok r →
     s.cluster? g.cluster = some c →
     let w := s.gregsNow g r.a.num 8
     (facDesc false w).ok ((w[0]?).getD 0) = true → s.badArray g (facDesc false w) = none → s.entriesFree g.cluster ≠ 0 →
     ∃ t, exec (.mfac a) s = .next t ∧ FactorPosted s t g slot p c false w) ∧
   (∀ (a : BitVec 8) (s : State) g slot p r c, s.At g slot p → (formCtl .absent (.ud a 8) .absent regOnly).operands g p = .ok r →
     s.cluster? g.cluster = some c →
     let w := s.gregsNow g r.a.num 8
     (facDesc true w).ok ((w[0]?).getD 0) = true → s.badArray g (facDesc true w) = none → s.entriesFree g.cluster ≠ 0 →
     ∃ t, exec (.mtrs a) s = .next t ∧ FactorPosted s t g slot p c true w) ∧
   (∀ (solve : Bool) (a : BitVec 8) (i : Instr), (i = .mfac a ∧ solve = false ∨ i = .mtrs a ∧ solve = true) →
     ∀ (s : State) g slot p r, s.At g slot p → (formCtl .absent (.ud a 8) .absent regOnly).operands g p = .ok r →
       let w := s.gregsNow g r.a.num 8
       let d := facDesc solve w
       (d.ok ((w[0]?).getD 0) = false → exec i s = .next (s.trapPath g.id slot .format p.lanes 0)) ∧
       (d.ok ((w[0]?).getD 0) = true →
         (∀ x, s.badArray g d = some x → exec i s = .next (s.trapPath g.id slot .scratchBounds p.lanes x)) ∧
         (s.badArray g d = none → s.entriesFree g.cluster = 0 → exec i s = .next (s.parkPath g.id slot .entries))))) ∧
  ((∀ (s : State) cl c k, s.cluster? cl = some c → s.factorHead c = some k → k.started = false → k.cycle < s.cycleNo cl →
     ∃ t c', exec (.factorCommandStart cl) s = .next t ∧ t.cluster? cl = some c' ∧
       c'.factor = mapIf (fun x => x.id == k.id)
         (fun _ => { k with started := true, due := s.ticks + (16 + k.form.cycles) * s.cycle cl }) c.factor ∧
       t = { s with clusters := t.clusters }) ∧
   (∀ (s : State) cl c k, s.cluster? cl = some c → s.factorHead c = some k → k.started = false → s.cycleNo cl ≤ k.cycle →
     exec (.factorCommandStart cl) s = .next s) ∧
   (∀ (s : State) cl c k b g, s.cluster? cl = some c → s.factorHead c = some k → k.started = true → k.due ≤ s.ticks →
     s.block? k.block = some b → s.group? k.grp = some g →
     ∃ t, exec (.factorMatrixComplete cl) s = .next t ∧ MatrixDone s t cl c k b g) ∧
   (∀ (s : State) cl c k, s.cluster? cl = some c → s.factorHead c = some k → k.started = true → s.ticks < k.due →
     exec (.factorMatrixComplete cl) s = .next s)) ∧
  ((∀ f n theta (x : Fac) j, j < n → x.a.length = n * n →
     let y := cholColumn f n theta x j
     let sum := fun i => clampedSum f (x.at n i j) ((List.range j).map fun k => x.at n i k * x.at n j k)
     y.at n j j = satS32 (isqrt (max (sum j) (theta * 2 ^ f))) ∧
     (∀ i, j < i → i < n → y.at n i j = satS32 (rdiv (sum i) (y.at n j j))) ∧
     (∀ i k, i < n → k < n → (k ≠ j ∨ i < j) → y.at n i k = x.at n i k) ∧
     (sum j < theta * 2 ^ f → y.count = x.count + 1 ∧ y.firstReg = some (x.firstReg.getD j)) ∧
     (theta * 2 ^ f ≤ sum j → y.count = x.count ∧ y.firstReg = x.firstReg)) ∧
   (∀ f n theta (x : Fac) j, j < n → x.a.length = n * n → x.piv.length = n →
     let y := luColumn f n theta x j
     let sum := fun i => clampedSum f (x.at n i j) ((List.range (min i j)).map fun k => x.at n i k * y.at n k j)
     let v := fun i => satS32 (qround (sum i) f)
     (∀ i, i < j → y.at n i j = v i) ∧
     ∃ q, j ≤ q ∧ q < n ∧ y.piv = x.piv.set j q ∧ (∀ i, j ≤ i → i < n → (v i).natAbs ≤ (v q).natAbs) ∧
       (∀ i, j ≤ i → i < q → (v i).natAbs < (v q).natAbs) ∧
       y.at n j j = (if ((v q).natAbs : Int) < theta then (if v q < 0 then -theta else theta) else v q) ∧
       (∀ i, j < i → i < n → y.at n i j = satS32 (rdiv (sum (if i = q then j else i)) (y.at n j j))) ∧
       (∀ i k, i < n → k < n → k ≠ j → y.at n i k = x.at n (if i = j then q else if i = q then j else i) k) ∧
       (((v q).natAbs : Int) < theta → y.count = x.count + 1 ∧ y.firstReg = some (x.firstReg.getD j)) ∧
       (theta ≤ ((v q).natAbs : Int) → y.count = x.count ∧ y.firstReg = x.firstReg)) ∧
   (∀ (d : FacDesc) (x : Fac) i, i < d.n → x.b.length = d.n * d.nrhs →
     let y := solveRow d x i
     let el := fun i k => if d.op / 4 % 2 = 1 then x.at d.n k i else x.at d.n i k
     let ks := if d.op % 2 = 1 then (List.range (d.n - (i + 1))).map fun r => i + 1 + r else List.range i
     let unit := d.op / 2 % 2 = 1
     (∀ c, c < d.nrhs →
       let sum := clampedSum d.f (x.rhs d.n i c) (ks.map fun k => el i k * x.rhs d.n k c)
       y.rhs d.n i c = satS32 (if unit then qround sum d.f else rdiv sum (el i i))) ∧
     (∀ k c, k < d.n → k ≠ i → y.rhs d.n k c = x.rhs d.n k c) ∧ y.a = x.a ∧
     (¬unit → el i i = 0 → y.count = x.count + 1 ∧ y.firstReg = some (x.firstReg.getD i)) ∧
     (unit ∨ el i i ≠ 0 → y.count = x.count ∧ y.firstReg = x.firstReg)) ∧
   (∀ n nrhs (x : Fac), x.b.length = n * nrhs →
     let q := fun j => (x.piv[j]?).getD 0
     ((∀ j, j < n → q j < n) → ∀ i c, i < n → c < nrhs → (permute n nrhs x).rhs n i c =
       x.rhs n ((List.range n).foldr (fun j i => if i = j then q j else if i = q j then j else i) i) c) ∧
     (∀ j, j < n → n ≤ q j → (permute n nrhs x).wild = true ∧ (permute n nrhs x).ovf = true)) ∧
   (∀ (d : FacDesc) (x : Fac),
     (d.solve = false → d.op = 0 → d.run x = (List.range d.n).foldl (cholColumn d.f d.n d.theta.toInt) x) ∧
     (d.solve = false → d.op = 1 → d.run x = (List.range d.n).foldl (luColumn d.f d.n d.theta.toInt) x) ∧
     (d.solve = true → d.run x =
       (if d.op % 2 = 1 then (List.range d.n).reverse else List.range d.n).foldl (solveRow d)
         (if d.op / 8 % 2 = 1 then permute d.n d.nrhs x else x))) ∧
   (∀ (x : Fac) free, x.wild = false → x.count ≤ 32 → (∀ j, x.firstReg = some j → j < 32) → (∀ j, x.firstSat = some j → j < 32) →
     let w := (x.status free).toNat
     w % 2 = (if x.count = 0 then 0 else 1) ∧ w / 2 % 2 = (if x.ovf then 1 else 0) ∧ w / 4 % 64 = 0 ∧
       w / 2 ^ 8 % 256 = x.firstReg.getD 255 ∧ w / 2 ^ 16 % 256 = x.count ∧ w / 2 ^ 24 = x.firstSat.getD 255))

/-- R8, R101, R102: a scaled product is rounded to nearest with ties toward +∞ and saturates; a division is rounded to nearest with ties away
from zero; a root is rounded to nearest. -/
def Obligations.FixedPointRounds : Prop :=
  (∀ (n : Nat) (a b : Word), n < 31 →
    let x := a.toInt * b.toInt
    let y := (2 * x + 2 ^ n) / (2 * 2 ^ n)
    (qmulWord n a b).toInt = if y < -2147483648 then -2147483648 else if 2147483647 < y then 2147483647 else y) ∧
  (∀ a b : Int, b ≠ 0 → (2 * (a - rdiv a b * b)).natAbs ≤ b.natAbs ∧
    ((2 * (a - rdiv a b * b)).natAbs = b.natAbs → a.natAbs ≤ (rdiv a b * b).natAbs)) ∧
  (∀ d : Int, d < 0 → isqrt d = 0) ∧
  (∀ d : Nat, 0 ≤ isqrt d ∧ 4 * (d : Int) < (2 * isqrt d + 1) ^ 2 ∧ (0 < isqrt d → (2 * isqrt d - 1) ^ 2 ≤ 4 * (d : Int)))

/-- The events of the matrix engine (R111, R122 to R124): a bitmap is read once every other condition holds; the arbiter's anchor starts a
pass with the sets of `passOf`; a hold-back expires and an old set is promoted at their times; a pass whose rows have come and whose time
is over completes.

R114 to R120, R126: where neither rows nor scales nor cast blocks of a set are poisoned, PASS_COMPLETE leaves in the accumulators of its
quarters, lane 8i + j of quarter i for tile rows 2j and 2j + 1, the outputs of R117, its quarter operations are done and not outstanding any
more, and the vector registers wait for MWAIT (log 30). The scales and cast blocks are those that the pass has read in its last compute cycle (R114, R121;
in which cycle of compute is the model's choice, log 29); a set that has not read them reads them there.

R117, R118: the output is the sum of the slices in ascending order, each the sum of its products cut at 64 places below the largest, rounded, scaled
and added; a product with a zero factor, an absent cell, and a slice that comes to zero leave the accumulator as it is.

R127: a residue error completes every operation in the engine poisoned, those of its passes and the command that runs, each group's count of
outstanding operations falling and of poisoned ones rising by them; the operations still in the tables stay.

Completes: BITMAP_READ, PASS_GRANT, FUSION_WAIT_EXPIRY, ARBITER_AGE_PROMOTION, PASS_COMPLETE, MATRIX_RESIDUE_ERROR (the conclusion is that
exec answers this next state). -/
def Obligations.MatrixEngineEvents : Prop :=
  (∀ (s : State) cl id c x g, s.cluster? cl = some c → (c.sets.find? fun y => y.id == id) = some x → s.group? x.grp = some g →
    x.desc.form.sparse = true → x.bitmap = none → s.readyButBitmap c x = true →
    ∃ t c' y, exec (.bitmapRead cl id) s = .next t ∧ t.cluster? cl = some c' ∧ (c'.sets.find? fun y => y.id == id) = some y ∧
      y.bitmap = some (s.scratchBytes g x.desc.bmofs (x.desc.k / 32)) ∧ y.desc = x.desc ∧ t.groups = s.groups) ∧
  (∀ (s : State) cl id c x, s.cluster? cl = some c → (c.sets.find? fun y => y.id == id) = some x →
    (x.waited = false → x.cycle + 16 * x.desc.form.fwait ≤ s.cycleNo cl →
      ∃ t c' y, exec (.fusionWaitExpiry cl id) s = .next t ∧ t.cluster? cl = some c' ∧
        (c'.sets.find? fun y => y.id == id) = some y ∧ y = { x with waited := true } ∧ t.groups = s.groups) ∧
    (x.promoted = false → x.cycle + 4096 < s.cycleNo cl →
      ∃ t c' y, exec (.arbiterAgePromotion cl id) s = .next t ∧ t.cluster? cl = some c' ∧
        (c'.sets.find? fun y => y.id == id) = some y ∧ y = { x with promoted := true } ∧ t.groups = s.groups)) ∧
  (∀ (s : State) cl c a, s.cluster? cl = some c → c.id = cl → s.mayGrant c = true → s.dutyOpen cl = true → s.anchor c = some a →
    ∃ t c' q, exec (.passGrant cl) s = .next t ∧ t.cluster? cl = some c' ∧ c'.pass = some q ∧ q.sets = s.passOf c a ∧
      q.start = s.ticks ∧ a ∈ q.sets ∧ (∀ x ∈ c'.sets, x.id ≠ a.id) ∧ t.groups = s.groups) ∧
  (∀ (s : State) cl c q, s.cluster? cl = some c → c.draining = none → c.pass = some q → q.streams.any (fun t => t.need != 0) = false →
    s.passEnd cl q ≤ s.ticks →
    ∃ t c', exec (.passComplete cl) s = .next t ∧ t.cluster? cl = some c' ∧ c'.pass = none ∧ c'.sets = c.sets ∧
      (∀ a, t.mem.byte a = s.mem.byte a) ∧
      ∀ x g, x ∈ q.sets → s.group? x.grp = some g → q.sets.Nodup → (∀ y ∈ q.sets, y.grp = x.grp → y = x) → x.quarters.Nodup →
        (∀ i ∈ x.quarters, i < 4) → CleanSet s q x g →
        ∃ g', t.group? x.grp = some g' ∧ g'.v = g.v ∧ g'.outstanding = g.outstanding - x.quarters.length ∧ g'.psnOps = g.psnOps ∧
          (∀ a ∈ g'.accRuns, a.set = x.id → a.quarter ∈ x.quarters → a.done = true) ∧
          ∀ i j col half, i ∈ x.quarters → j < 8 → col < 16 → half < 2 →
            let key := 32 * (x.desc.dreg + col + 16 * half) + 8 * i + j
            g'.acc.get? key = some (outputOf (x.desc.form.asg != 0 || x.desc.form.bsg != 0) (x.desc.k / 8)
              (rowOf x.desc (x.side.getD (s.sideOf g x)) (q.rowsFor x.id true) (16 * i + 2 * j + half))
              (columnOf x.desc (x.side.getD (s.sideOf g x)) (x.bitmap.getD []) (q.rowsFor x.id false) col)
              (if x.desc.accz then 0 else (g.acc.get? key).getD 0))) ∧
  ((∀ (s : State) cl c q, s.cluster? cl = some c → c.draining = none → c.pass = some q → q.streams.any (fun t => t.need != 0) = false →
      s.computeEnd cl q ≤ s.ticks + s.cycle cl → q.sets.any MSet.unread = true →
      ∃ t c' q', s.readSides cl = some t ∧ t.cluster? cl = some c' ∧ c'.pass = some q' ∧ t.mem = s.mem ∧ t.groups = s.groups ∧
        (∀ x g, x ∈ q.sets → s.group? x.grp = some g → x.unread = true → { x with side := some (s.sideOf g x) } ∈ q'.sets) ∧
        q'.sets.any MSet.unread = q.sets.any fun x => x.unread && (s.group? x.grp).isNone) ∧
   (∀ (s : State) g (x : MSet), (x.desc.form.asg ≠ 0 →
       (s.sideOf g x).asc = s.scratchBytes g x.desc.asofs (64 * (x.desc.k / x.desc.form.asg))) ∧
     (x.desc.form.bsg ≠ 0 → (s.sideOf g x).bsc = s.scratchBytes g x.desc.bsofs (16 * (x.desc.k / x.desc.form.bsg))) ∧
     ∀ i, i ∈ (s.sideOf g x).taint ↔ i ∈ x.quarters ∧ s.scratchTaint g x.desc i = true) ∧
   (∀ (bytes : List Byte) code n k kc, scaleOf bytes code n k kc =
     if code = 0 then 0 else (((bytes[n * (k / code) + 8 * kc / code]?).getD 0).toInt))) ∧
  ((∀ scaled slices (a b : Operand) init, outputOf scaled slices a b init = sumOfSlices scaled slices a b init) ∧
   (∀ scaled (a b : Operand) acc kc,
     (b.present kc = false ∨ (∀ j, j < 8 → IsZeroElem (a.elem (8 * kc + j)) ∨ IsZeroElem (b.elem (8 * kc + j))) →
       sliceStep scaled a b acc kc = acc)) ∧
   (∀ scaled slices (a a' b b' : Operand) init,
     (∀ k, k < 8 * slices → a.elem k = a'.elem k ∧ b.elem k = b'.elem k) →
     (∀ kc, kc < slices → a.scale kc = a'.scale kc ∧ b.scale kc = b'.scale kc ∧ b.present kc = b'.present kc) →
     outputOf scaled slices a b init = outputOf scaled slices a' b' init)) ∧
  (∀ (s : State) cl c, s.cluster? cl = some c →
    let running := (s.factorHead c).toList.filter fun k => k.started
    ∃ t c', exec (.matrixResidueError cl) s = .next t ∧ t.cluster? cl = some c' ∧ c'.pass = none ∧ c'.draining = none ∧
      c'.sets = c.sets ∧ c'.factor = c.factor.filter (fun x => !(running.any fun k => k.id == x.id)) ∧
      ∀ gid g, s.group? gid = some g →
        let n := sumNat ((c.passSets.filter fun x => x.grp == gid).map fun x => x.quarters.length) +
          (running.filter fun k => k.grp == gid).length
        ∃ g', t.group? gid = some g' ∧ g'.outstanding = g.outstanding - n ∧ g'.psnOps = g.psnOps + n)

/-- CBATCH and CWAIT (R334, R345): CBATCH closes the open batch and returns its number, the numbers running from 1 to 2^32 − 1 and round;
CWAIT goes on where no copy of the batches it covers is out and none has left anything to report, and parks while one is; one that waits for the
copied data to be visible ends then, and is done with the batches that it covered when it issued.

COPY_COMPLETE and CAST_BLOCK_COMPLETE (R343, R461): a copy whose sources are ready moves its bytes and, when none is left, frees its
entry; a casting engine whose block is due writes it and takes the next block or the next command.

Completes: CBATCH, CWAIT, COPY_COMPLETE, CWAIT_RELEASE, CAST_BLOCK_COMPLETE (the conclusion is that exec answers this next state). -/
def Obligations.CopyBatchesComplete : Prop :=
  ((∀ d (s : State) g slot p r, s.At g slot p → (formCtl (.ud d 1) .absent .absent regOnly).operands g p = .ok r →
     ∃ t g', exec (.cbatch d) s = .next t ∧ Completes s t g g' slot (p.after s) 12 ∧
       (∀ k, g'.greg k = if k = r.d.num then g.batchNext else g.greg k) ∧
       g'.batchNext = (if g.batchNext = 0xFFFFFFFF then 1 else g.batchNext + 1) ∧ g'.v = g.v) ∧
   (∀ a (s : State) g slot p r, s.At g slot p → (formCtl .absent (.us a) .absent regOnly).operands g p = .ok r →
     let n := g.greg r.a.num
     (s.copiesOut g (covers g.batchNext n) = true → exec (.cwait a) s = .next (s.parkPath g.id slot (.cwait n))) ∧
     (s.copiesOut g (covers g.batchNext n) = false → g.batches = [] →
       ∃ t g', exec (.cwait a) s = .next t ∧ Completes s t g g' slot { p.after s with early := [] } 12 ∧ g'.g = g.g ∧ g'.v = g.v)) ∧
   (∀ (s : State) gid slot g p, s.group? gid = some g → g.path slot = some p →
     (∀ n, p.wait = .cwait n → s.copiesOut g (covers g.batchNext n) = false →
       ∃ t, exec (.cwaitRelease gid slot) s = .next t ∧ Waits t gid slot .ready) ∧
     (∀ n u x, p.wait = .cwaitTime n u x → x ≤ s.now → ∃ t g', exec (.cwaitRelease gid slot) s = .next t ∧ GoesOn t gid slot p s ∧
       t.group? gid = some g' ∧ g'.batches = g.batches.filter fun b => !coversTo u n b.1) ∧
     (∀ n u x, p.wait = .cwaitTime n u x → s.now < x → exec (.cwaitRelease gid slot) s = .next s))) ∧
  ((∀ (s : State) cl id c k g, s.cluster? cl = some c → (c.copies.find? fun x => x.id == id) = some k → s.group? k.grp = some g →
     s.copyMiss k = none → s.sourcesReady k = true →
     ∀ s1 k1 c1, (s.mature.renew k.ctx).runCopy cl g k ((k.segs.map fun p => rowCut (p.len + 1) p).flatten) = (s1, k1) → k1.segs = [] →
       s1.cluster? cl = some c1 →
       ∃ t c', exec (.copyComplete cl id) s = .next t ∧ t.cluster? cl = some c' ∧ (∀ x ∈ c'.copies, x.id ≠ id) ∧ t.mem = s1.mem ∧
         t.pending = s1.pending ∧ t.blocks = s1.blocks) ∧
   (∀ (s : State) die q k g, s.castQueues.get? die = some q → (q.find? fun x => x.due != 0) = some k → s.group? k.grp = some g →
     s.copyMiss (k.copy k.src) = none → s.sourcesReady (k.copy k.src) = true →
     (k.due ≤ s.ticks → k.next + 1 < k.count → exec (.castBlockComplete die) s =
       .next ((((s.mature.renew k.ctx).castOne k g).setCast die { k with next := k.next + 1, due := 0 }).castKick die)) ∧
     (k.due ≤ s.ticks → k.count ≤ k.next + 1 → exec (.castBlockComplete die) s =
       .next (((((s.mature.renew k.ctx).castOne k g).dropCast die k.id).castKick die).wakeWhere fun g w => g.id == k.grp && w == .exitDrain)) ∧
     (s.ticks < k.due → exec (.castBlockComplete die) s = .next s)))

/-- CPY (R341 to R343): a copy whose descriptor, addresses and queue are good and whose pages are there is posted to its cluster's engine in
the open batch, and the path goes on with its registers as they are; a bad descriptor raises FORMAT, and a full engine parks.

VTENC (R455 to R457): a command whose descriptor and ranges are good and whose pages are there is queued at its die's casting engine in
the open batch, and the path goes on with its registers as they are; a bad descriptor raises FORMAT and a misaligned range MISALIGNED.

Completes: CPY, VTENC (the conclusion is that exec answers this next state). -/
def Obligations.CopyAndCastWordsPost : Prop :=
  (∀ a (s : State) g slot p r, s.At g slot p → (formCtl .absent (.ud a 8) .absent regOnly).operands g p = .ok r →
     let w := g.gregs r.a.num 8
     let d := copyDesc w
     (copyDescOk w = false → exec (.cpy a) s = .next (s.trapPath g.id slot .format p.lanes 0)) ∧
     (∀ s1 ps c q, copyDescOk w = true → (d.sk = 0 → (g.addr d.sar).valid = true) → (d.dk = 0 → (g.addr d.dar).valid = true) →
       (d.dk ≠ 2 ∧ q = .mem 0 ∨ d.dk = 2 ∧ ∃ f m, s.fifoOf g d.dar = some (f, m) ∧ m.getLsbD 0 = true ∧
         q = .queue f.first f.wlog f.subs f.mc) →
       firstBad d (fun r => if d.sk = 0 then badGlobal (d.srcAt g r) d.rowb else none)
         (fun r => if d.dk = 0 then badGlobal (d.dstAt g r) d.rowb else none) = none →
       firstBad d (fun r => if d.sk = 1 then s.badScratch g (d.srcAt g r) d.rowb else none)
         (fun r => if d.dk = 1 then s.badScratch g (d.dstAt g r) d.rowb else none) = none →
       s.mature.xlatPieces g (d.pieces g) = (s1, ps) → pieceFault ps = none → pageOf ps = none → ps.filterMap Piece.fetchOf = [] →
       s1.cluster? g.cluster = some c →
       (c.copies.length < 256 →
         ∃ t c' k, exec (.cpy a) s = .next t ∧ t.cluster? g.cluster = some c' ∧ c'.copies = c.copies ++ [k] ∧ k.grp = g.id ∧
           k.batch = g.batchNext ∧ k.segs = copySegs d g q ps ∧ GoesOn t g.id slot p s ∧ SameRegs t g) ∧
       (256 ≤ c.copies.length → exec (.cpy a) s = .next (s.parkPath g.id slot .copyEntry)))) ∧
  (∀ a (s : State) g slot p r, s.At g slot p → (formCtl .absent (.ud a 8) .absent regOnly).operands g p = .ok r →
     let w := g.gregs r.a.num 8
     let d := castDesc w
     (castDescOk w = false → exec (.vtenc a) s = .next (s.trapPath g.id slot .format p.lanes 0)) ∧
     (castDescOk w = true → (g.addr d.sar).valid = true → (g.addr d.dar).valid = true →
       ((d.ranges g).findSome? fun r => badGlobal r.2.1 r.2.2) = none →
       (∀ x, ((d.ranges g).find? fun r => r.2.1 % 4 ≠ 0) = some x →
         exec (.vtenc a) s = .next (s.trapPath g.id slot .misaligned p.lanes x.2.1.toNat)) ∧
       (∀ s1 ps, ((d.ranges g).find? fun r => r.2.1 % 4 ≠ 0) = none → s.mature.xlatPieces g (d.pieces g) = (s1, ps) →
         pieceFault ps = none → pageOf ps = none → ps.filterMap Piece.fetchOf = [] →
         ∃ t q k, exec (.vtenc a) s = .next t ∧ t.castQueues.get? (g.cluster / 16) = some q ∧ k ∈ q ∧ k.grp = g.id ∧
           k.batch = g.batchNext ∧ k.rate = d.rate ∧ k.count = d.count ∧ k.next = 0 ∧ GoesOn t g.id slot p s ∧ SameRegs t g) ∧
       (∀ s1 ps e va, ((d.ranges g).find? fun r => r.2.1 % 4 ≠ 0) = none → s.mature.xlatPieces g (d.pieces g) = (s1, ps) →
         pieceFault ps = some (e, va) → exec (.vtenc a) s = .next (s1.trapPath g.id slot e p.lanes va))))

/-- EXIT (R25, R35, R37 to R39, R70, R348): two prefixes before it are ILLEGAL; while other lanes remain, the path's lanes join the exited ones, and
a stack entry it needs that is poisoned raises POISON, at the last EXIT too; the last EXIT of a group whose engines are idle and whose release has been performed
ends the group, and parks while an operation is out.

With another path in its slot and no helper lanes, an EXIT that is not the last frees its slot and every JOIN entry is tested from the top down (R37): one
that completes without arrivals leaves the stack, one with arrivals gives a merged path, which takes the freed slot, and with both slots occupied the
entry becomes a PATH entry in its place (R38); where none completes, the slot is refilled from a topmost PATH entry, or stays empty (R39).

TRIG (R228, R229): once its release has been performed, the group is triggered and the path goes on.

Completes: EXIT, TRIG (the conclusion is that exec answers this next state). -/
def Obligations.ExitEndsLanesAndGroups : Prop :=
  (∀ (s : State) g slot p, s.At g slot p →
     let lanes := g.leaving slot p s.ticks
     (2 ≤ p.pfx.length → exec .exit s = .next (s.trapPath g.id slot .illegal p.mask 0)) ∧
     (p.pfx.length ≤ 1 → g.lastExit lanes = false → g.exitPsn slot lanes s.ticks = true →
       exec .exit s = .next (s.trapPath g.id slot .poison p.mask 0)) ∧
     (p.pfx.length ≤ 1 → g.lastExit lanes = false → g.exitPsn slot lanes s.ticks = false →
       ∃ t g', exec .exit s = .next t ∧ t.group? g.id = some g' ∧ g'.exited = g.withHelpers (g.exited ||| lanes) ∧ g'.v = g.v ∧
         g'.g = g.g ∧ ∀ a, t.mem.byte a = s.mem.byte a) ∧
     (p.pfx.length ≤ 1 → g.lastExit lanes = true → g.outstanding ≠ 0 → exec .exit s = .next (s.parkPath g.id slot .exitDrain)) ∧
     (p.pfx.length ≤ 1 → g.lastExit lanes = true → g.outstanding = 0 → (s.copiesOut g fun _ => true) = false → g.psnOps = 0 →
       g.batches = [] → (p.released = true ∨ s.released g 5 = true) → g.exitPsn slot lanes s.ticks = true →
       exec .exit s = .next (s.trapPath g.id slot .poison p.mask 0)) ∧
     (p.pfx.length ≤ 1 → g.lastExit lanes = true → g.outstanding = 0 → (s.copiesOut g fun _ => true) = false → g.psnOps = 0 →
       g.batches = [] → (p.released = true ∨ s.released g 5 = true) → g.exitPsn slot lanes s.ticks = false →
       ∃ t, exec .exit s = .next t ∧ t.group? g.id = none ∧ (∀ i, i ≠ g.id → (t.group? i).map (fun x => (x.v, x.g)) =
         (s.group? i).map (fun x => (x.v, x.g))) ∧ ∀ a, t.mem.byte a = s.mem.byte a)) ∧
  (∀ (s : State) g slot p o st, s.At g slot p → p.pfx.length ≤ 1 → g.path (!slot) = some o → g.trap.handler = false → g.helper = 0 →
     p.mask ≠ 0 → p.mask &&& g.exited = 0 → o.mask ≠ 0 → o.mask &&& p.mask = 0 → g.lastExit p.mask = false →
     g.exitPsn slot p.mask s.ticks = false → (∀ e ∈ st, e.kind = .join ∧ e.arrived ≠ e.mask &&& ~~~(g.exited ||| p.mask)) →
     let left := fun (e : StackEntry) => e.mask &&& ~~~(g.exited ||| p.mask)
     let ends := fun (q : Option Path) (stack : List StackEntry) => ∃ t g', exec .exit s = .next t ∧ t.group? g.id = some g' ∧
       g'.exited = g.exited ||| p.mask ∧ g'.path slot = q ∧ g'.stack = stack ∧
       ∃ x, g'.path (!slot) = some x ∧ x = { o with chainAt := x.chainAt }
     (g.stack = st → ends none st) ∧
     (∀ e, g.stack = st ++ [e] → e.kind = .path → e.mask ≠ 0 → e.mask &&& p.mask = 0 →
       ends (some (Path.start e.pc e.mask e.join s.ticks)) st) ∧
     (∀ e, g.stack = st ++ [e] → e.kind = .join → e.arrived = 0 → left e = 0 → ends none st) ∧
     (∀ e, g.stack = st ++ [e] → e.kind = .join → e.arrived ≠ 0 → e.arrived = left e →
       ends (some (Path.start e.pc e.arrived e.join s.ticks)) st) ∧
     (∀ e2 e1, g.stack = st ++ [e2, e1] → e1.kind = .join → e2.kind = .join → e1.arrived ≠ 0 → e1.arrived = left e1 → e2.arrived ≠ 0 →
       e2.arrived = left e2 → ends (some (Path.start e1.pc e1.arrived e1.join s.ticks))
         (st ++ [{ e2 with kind := .path, mask := e2.arrived, arrived := 0 }]))) ∧
  (∀ (s : State) g slot p r, s.At g slot p → bareForm.operands g p = .ok r →
     (p.released = true ∨ s.released g 5 = true →
       ∃ t g', exec .trig s = .next t ∧ t.group? g.id = some g' ∧ g'.triggered = true ∧ g'.path slot = some { p.after s with early := [] } ∧ g'.g = g.g ∧
         g'.v = g.v ∧ ∀ a, t.mem.byte a = s.mem.byte a) ∧
     (p.released = false → s.released g 5 = false → exec .trig s = .next (s.parkPath g.id slot (.release 5))))

/-- ICACHE_FILL, QUEUE_WAKE, ISSUE_PROMOTION and YIELD_HOLD_END (R30, R49, R50, R51, R463): each changes its path alone, where the path
waits for the line, its queue has a row or room, it has been eligible for 256 cycles, or its hold is over.

REACH_JOIN (R35, R36, R38, R39), the other path in its slot and no entry of the stack PATH or RETIRED: a poisoned JOIN entry raises
POISON; else the path's mask joins ARRIVED and its slot is freed; where ARRIVED has become MASK without the exited lanes, the merged path takes the slot with the entry's join, and the
entry, if it is the top one, leaves the stack. Where the entry is not complete and the stack holds a PATH entry, the emptied slot is refilled from it,
and it becomes RETIRED, which at the top leaves the stack (R39).

Completes: REACH_JOIN, ICACHE_FILL, QUEUE_WAKE, ISSUE_PROMOTION, YIELD_HOLD_END (the conclusion is that exec answers this next state). -/
def Obligations.PathEventsAndJoins : Prop :=
  (∀ (s : State) gid slot g p, s.group? gid = some g → g.path slot = some p →
     (p.wait = .icache → ∃ t, exec (.icacheFill gid slot) s = .next t ∧ PathIs t gid slot { p with wait := .ready, readyAt := s.ticks } ∧
       SameRegs t g) ∧
     (p.wait ≠ .icache → exec (.icacheFill gid slot) s = .next s) ∧
     (∀ a b, p.wait = .queue a b → s.queueReady g a b = true → ∃ t, exec (.queueWake gid slot) s = .next t ∧
       PathIs t gid slot { p with wait := .ready, readyAt := s.ticks } ∧ SameRegs t g) ∧
     (p.wait = .ready → p.promoted = false → p.stopped = false → g.park = none → p.awaits = [] →
       (∀ o, g.path (!slot) = some o → s.inChain g o = false ∧ o.awaits = [] ∧ o.chainAt + 256 * s.cycle g.cluster ≤ s.ticks) →
       (p.readyAt + 256 * s.cycle g.cluster ≤ s.ticks → p.holdUntil + 256 * s.cycle g.cluster ≤ s.ticks →
         p.busyUntil + 256 * s.cycle g.cluster ≤ s.ticks → p.chainAt + 256 * s.cycle g.cluster ≤ s.ticks →
         p.idleAt + 256 * s.cycle g.cluster ≤ s.ticks → g.stopping = false → s.mustFollow g.id slot = false →
         ∃ t, exec (.issuePromotion gid slot) s = .next t ∧ PathIs t gid slot { p with promoted := true } ∧ SameRegs t g) ∧
       (s.ticks < p.readyAt + 256 * s.cycle g.cluster → exec (.issuePromotion gid slot) s = .next s) ∧
       (s.ticks < p.idleAt + 256 * s.cycle g.cluster → exec (.issuePromotion gid slot) s = .next s)) ∧
     (0 < p.holdUntil → p.holdUntil ≤ s.ticks → ∃ t, exec (.yieldHoldEnd gid slot) s = .next t ∧
       PathIs t gid slot { p with holdUntil := 0, readyAt := max p.readyAt p.holdUntil } ∧ SameRegs t g)) ∧
  (∀ (s : State) gid slot g p o j e, s.group? gid = some g → g.path slot = some p → g.path (!slot) = some o → p.wait = .ready →
     p.join = some j → g.stack[j]? = some e → p.pfx = [] → e.pc = p.pc → (∀ x ∈ g.stack, x.kind = .join) → p.mask ≠ 0 →
     s.inChain g p = false →
     (g.entryPsn j = true → exec (.reachJoin gid slot) s = .next (s.trapPath gid slot .poison p.mask 0)) ∧ (g.entryPsn j = false →
     (e.arrived ||| p.mask ≠ e.mask &&& ~~~g.exited → ∃ t g', exec (.reachJoin gid slot) s = .next t ∧ t.group? gid = some g' ∧
       g'.path slot = none ∧ g'.path (!slot) = some { o with chainAt := max o.chainAt p.chainAt } ∧
       g'.stack = g.stack.set j { e with arrived := e.arrived ||| p.mask } ∧
       g' = { g with path0 := g'.path0, path1 := g'.path1, stack := g'.stack }) ∧
     (e.arrived ||| p.mask = e.mask &&& ~~~g.exited → ∃ t g', exec (.reachJoin gid slot) s = .next t ∧ t.group? gid = some g' ∧
       g'.path slot = some (Path.start e.pc (e.arrived ||| p.mask) e.join s.ticks) ∧
       g'.path (!slot) = some { o with chainAt := max o.chainAt p.chainAt } ∧
       (j + 1 = g.stack.length → g'.stack = g.stack.take j) ∧
       g' = { g with path0 := g'.path0, path1 := g'.path1, stack := g'.stack }))) ∧
  (∀ (s : State) gid slot g p o j e i q, s.group? gid = some g → g.path slot = some p → g.path (!slot) = some o → p.wait = .ready →
     p.join = some j → g.stack[j]? = some e → e.kind = .join → p.pfx = [] → e.pc = p.pc → p.mask ≠ 0 → s.inChain g p = false →
     e.arrived ||| p.mask ≠ e.mask &&& ~~~g.exited → g.stack[i]? = some q → q.kind = .path → g.entryPsn j = false → g.entryPsn i = false →
     (∀ k x, g.stack[k]? = some x → k ≠ i → x.kind = .join) →
     ∃ t g', exec (.reachJoin gid slot) s = .next t ∧ t.group? gid = some g' ∧
       g'.path slot = some (Path.start q.pc q.mask q.join s.ticks) ∧ g'.path (!slot) = some { o with chainAt := max o.chainAt p.chainAt } ∧
       (i + 1 < g.stack.length → g'.stack = (g.stack.set j { e with arrived := e.arrived ||| p.mask }).set i { q with kind := .retired }) ∧
       (i + 1 = g.stack.length → g'.stack = (g.stack.set j { e with arrived := e.arrived ||| p.mask }).take i) ∧
       g' = { g with path0 := g'.path0, path1 := g'.path1, stack := g'.stack })

/-- Commands of the host that set one register each (R189, R195, R209, R261, R262, R263, R265, R287, R291, R292, R495), and the values
they ignore.

REGISTER_WRITE (R5, R218, R220, R262, R289): SQ.BASE and SQ.CTL.SIZE take their fields, a bit written 1 clears its W1C flag and a bit
written 0 leaves it, and a write to a read-only or an unlisted register changes nothing. In the window of a function, queue n has its
registers from 0x40 × n on, and an offset no register holds takes no write and reads zero. A read of a register gives its fields and has no
other effect; FB.REPLY, which is written only, reads zero (R5, R218, R257). That a pair for a partition that the function lacks adds the partition is
the model's choice (log 39).

Completes: FRAME_POOL_ADD, BASE_BOUND_SET, VPS_TABLE_WRITE, PWR_CAP_WRITE, ENERGY_WEIGHT_SET, ENERGY_COUNTER_CLEAR, IDLE_ACCOUNT_CLEAR,
SCOPE_MAX_SET, LEASE_LENGTH_SET, ROW_TABLE_REGISTER, TIME_MASTER_SELECT, ROUTE_TABLE_LOAD, REGISTER_WRITE (the conclusion is that exec
answers this next state). -/
def Obligations.HostSettingsTakeTheirValue : Prop :=
  ((∀ (s : State) vf n v, Served s → s.vf? vf = some v →
     (3 ≤ n → n ≤ 7 → exec (.scopeMaxSet vf n) s = .next { s with vfs := s.vfs.put vf { v with scopeMax := n } }) ∧
     (n < 3 ∨ 7 < n → exec (.scopeMaxSet vf n) s = .next s) ∧
     (∀ i f m, exec (.vpsTableWrite vf i f m) s = .next { s with vfs := s.vfs.put vf { v with vps := modifyAt v.vps i fun _ => (f, m) } })) ∧
   (∀ (s : State) pid p, Served s → s.part? pid = some p →
     (∀ n, n ∈ [32, 64, 128, 256, 512, 1024, 2048, 4096] →
       exec (.leaseLengthSet pid n) s = .next { s with parts := s.parts.set pid { p with lease := n } }) ∧
     (∀ n, n ∉ [32, 64, 128, 256, 512, 1024, 2048, 4096] → exec (.leaseLengthSet pid n) s = .next s) ∧
     (∀ ws, ws.length = 16 → exec (.energyWeightSet pid ws) s = .next { s with parts := s.parts.set pid { p with ewt := ws } }) ∧
     exec (.idleAccountClear pid) s = .next { s with parts := s.parts.set pid { p with idle := 0 } }) ∧
   (∀ (s : State) cid c, Served s → s.ctx? cid = some c →
     exec (.energyCounterClear cid) s = .next { s with contexts := s.contexts.put cid { c with energy := 0, sat := false } } ∧
     ∀ va n, exec (.rowTableRegister cid va n) s = .next { s with contexts := s.contexts.put cid { c with rowTable := some (va, n) } }) ∧
   (∀ (s : State) w, exec (.pwrCapWrite w) s = .next { s with pwrCap := min 3600 w }) ∧
   (∀ (s : State) m, Served s → exec (.timeMasterSelect m) s =
     .next { (if m = s.moduleNo then s.rebase 0 else s) with timeMaster := some m, timeLost := false }) ∧
   (∀ (s : State) peer ps, peer < 256 →
     exec (.routeTableLoad peer ps) s = .next { s with routes := s.routes.put peer (ps.filter fun p => decide (p < 18)) }) ∧
   (∀ (s : State) r v p, Served s → s.vf? r.vf = some v → v.windows[r.part]? = some p → s.fetches = [] →
     (r.size = 2 ^ 16 ∨ r.size = 2 ^ 21 ∨ r.size = 2 ^ 30) → r.base + r.count * r.size ≤ p.2 → r.base % r.size = 0 →
     exec (.framePoolAdd r) s = .next { s with vfs := s.vfs.put r.vf { v with
       frames := v.frames ++ (List.range r.count).map fun i => (r.part, r.size, r.base + i * r.size) } }) ∧
   (∀ (s : State) vf pid base bound v p i, Served s → s.vf? vf = some v → s.part? pid = some p → base % 65536 = 0 → bound % 65536 = 0 →
     base + bound ≤ p.cfg.units.length * 2 ^ 36 → (v.parts.findIdx? fun q => q == pid) = some i →
     ((∀ x ∈ s.contexts, x.2.vf = vf → x.2.part = pid → x.2.state.stopped = true) →
       ((∀ l ∈ s.peerGrants, l.vf = vf → l.part = pid → l.expiry ≤ s.now) → ∃ t, exec (.baseBoundSet vf pid base bound) s = .next t ∧
         t.vfs = s.vfs.put vf { v with windows := modifyAt v.windows i fun _ => (base, bound) } ∧
         (∀ g a, g ∈ t.groups → g.vf = vf → a ∈ g.areg → s.partAt a.frame.toNat = some pid → a.limit = 0) ∧
         (∀ g, s.group? g.id = some g → ∃ g', t.group? g.id = some g' ∧ g'.v = g.v ∧ g'.g = g.g ∧
           (g.vf ≠ vf → g' = g) ∧ ∀ n, s.partAt (g.addr n).frame.toNat ≠ some pid → g'.addr n = g.addr n) ∧
         t.mem = s.mem ∧ t.tlb = s.tlb ∧ t.peerGrants = s.peerGrants) ∧
       (∀ l ∈ s.peerGrants, l.vf = vf → l.part = pid → s.now < l.expiry → ∃ t, exec (.baseBoundSet vf pid base bound) s = .next t ∧
         t.vfs = s.vfs ∧ t.held = s.held ++ [.baseBoundSet vf pid base bound] ∧
         (∀ k ∈ t.peerGrants, k.vf = vf → k.part = pid → k.recalled = true) ∧ (l.recalled = false → .peerRecall l.peer l.page ∈ t.outbox))) ∧
     ((∃ x ∈ s.contexts, x.2.vf = vf ∧ x.2.part = pid ∧ x.2.state = .live) → exec (.baseBoundSet vf pid base bound) s = .next s)) ∧
   (∀ (s : State) vf pid base bound v p, Served s → s.vf? vf = some v → s.part? pid = some p → base % 65536 = 0 → bound % 65536 = 0 →
     base + bound ≤ p.cfg.units.length * 2 ^ 36 → pid ∉ v.parts → (∀ x ∈ s.contexts, x.2.vf ≠ vf) →
     exec (.baseBoundSet vf pid base bound) s = .next { s with vfs := s.vfs.put vf (v.addPart pid (base, bound)) })) ∧
  ((∀ (s : State) vf q v x, s.vf? vf = some v → v.queues[q]? = some x →
     let sets := fun (i : Instr) (y : SubQueue) => exec i s = .next { s with vfs := s.vfs.put vf { v with queues := v.queues.set q y } }
     (∀ w, sets (.registerWrite (.sqBase vf q w)) { x with addr := w.extractLsb' 8 40, part := w.extractLsb' 48 4 }) ∧
     (∀ w, sets (.registerWrite (.sqCtlSize vf q w)) { x with size := w }) ∧
     (∀ w, sets (.registerWrite (.sqStatusW1C vf q w)) { x with bmFault := x.bmFault && !w.getLsbD 6 }) ∧
     (∀ w, q < 16 → sets (.registerWrite (.window vf (64 * q) w)) { x with addr := w.extractLsb' 8 40, part := w.extractLsb' 48 4 } ∧
       exec (.registerWrite (.window vf (64 * q + 12) w)) s = exec (.sqDoorbell vf q (w.extractLsb' 0 16)) s ∧
       sets (.registerWrite (.window vf (64 * q + 20) w)) { x with bmFault := x.bmFault && !w.getLsbD 6 } ∧
       (w.getLsbD 31 = x.enable → sets (.registerWrite (.window vf (64 * q + 8) w)) { x with size := w.extractLsb' 0 17 }))) ∧
   (∀ (s : State) pid p, s.part? pid = some p →
     (∀ w, let y : Part := { p with fbOverflow := p.fbOverflow && !w.getLsbD 0, fbStale := p.fbStale && !w.getLsbD 1 }
       exec (.registerWrite (.fbStatusW1C pid w)) s = .next { s with parts := s.parts.set pid y }) ∧
     (∀ i r, p.fbRecords.get? i = some r → let y : Part := { p with fbRecords := p.fbRecords.put i { r with valid := false } }
       exec (.registerWrite (.fbValidW1C pid i)) s = .next { s with parts := s.parts.set pid y })) ∧
   (∀ (s : State) w, exec (.registerWrite (.pwrStatusW1C w)) s =
     .next { s with capBelowFloors := s.capBelowFloors && !w.getLsbD 0, capUnreachable := s.capUnreachable && !w.getLsbD 1 }) ∧
   (∀ (s : State) a b, exec (.registerWrite (.sqReadOnly a b)) s = .next s ∧ exec (.registerWrite (.fbReadOnly a)) s = .next s ∧
     exec (.registerWrite (.pwrReadOnly a)) s = .next s ∧ exec (.registerWrite (.unlisted a b)) s = .next s ∧
     ∀ w, 1024 ≤ b ∨ (b % 64 ∉ [0, 4, 8, 12, 20]) → exec (.registerWrite (.window a b w)) s = .next s)) ∧
  ((∀ (s : State) vf q v x, s.vf? vf = some v → v.queues[q]? = some x → q < 16 →
     (∀ w, let y : SubQueue := { x with addr := w.extractLsb' 0 16 ++ x.addr.extractLsb' 0 24, part := w.extractLsb' 16 4 }
       exec (.registerWrite (.window vf (64 * q + 4) w)) s = .next { s with vfs := s.vfs.put vf { v with queues := v.queues.set q y } }) ∧
     (s.windowRead vf (64 * q)).toNat = x.addr.toNat * 2 ^ 8 + x.part.toNat * 2 ^ 48 ∧
     (s.windowRead vf (64 * q + 12)).toNat = x.wr.toNat ∧ (s.windowRead vf (64 * q + 16)).toNat = x.rd.toNat ∧
     (s.windowRead vf (64 * q + 32)).toNat = x.rejSeq.toNat + x.reason.toNat * 2 ^ 32 ∧
     (s.windowRead vf (64 * q + 40)).toNat = x.done.toNat) ∧
   (∀ (s : State) vf off, 1024 ≤ off ∨ off % 64 ∉ [0, 4, 8, 12, 16, 20, 24, 32, 36, 40] → s.windowRead vf off = 0) ∧
   (∀ (s : State) pid p, s.part? pid = some p → p.fbHeld.length < 2 ^ 15 →
     (s.stationValue (.fbHead pid)).toNat = p.fbHead.toNat ∧ (s.stationValue (.fbTail pid)).toNat = p.fbTail.toNat ∧
     (s.stationValue (.fbStatus pid)).toNat =
       (if p.fbOverflow then 1 else 0) + (if p.fbStale then 2 else 0) + p.fbHeld.length * 2 ^ 16 ∧
     s.stationValue (.fbReply pid) = 0) ∧
   (∀ (s : State) vf off ts, s.heldNext = none → s.turns = .hostRead vf off :: ts →
     step s = .next { s with turns := ts, outbox := s.outbox ++ [.hostData vf off (s.windowRead vf off)] }) ∧
   (∀ (s : State) r ts, s.heldNext = none → s.turns = .stationRead r :: ts →
     step s = .next { s with turns := ts, outbox := s.outbox ++ [.stationData r (s.stationValue r)] }))

/-- SWAP_OUT, SWAP_COPY_COMPLETE and TILE_ARRIVAL (R171 to R173, R213, R495). A resident migratable page whose accesses are done leaves at
one cut: a copy to the remote place is under way, and no TLB holds a translation of the page. Where a peer holds the page under a grant, a first
SWAP_OUT only recalls the grant (the model's reading, log 23), and one that finds accesses outstanding or a grant not given back does nothing
(log 48). The copy's end leaves the bytes of the frame
in the remote place, and nothing else of memory changes. An arrival ends the fetch, leaves no manifest of the page's tiles, and the groups
parked on it alone go on.

The fault buffer (R215 to R219, R268): a HEAD between HEAD and TAIL is taken and another one ignored; RETRY releases the parked group, which
executes its word again for the replay lanes; ABORT raises PAGE with the replay mask, the KIND and the address, or is noted while the
sibling is in a chain, at whose end the trap comes; a reply that matches no parked group, or one whose ABORT is noted, sets STALE.

Completes: TILE_ARRIVAL, SWAP_OUT, SWAP_COPY_COMPLETE, FB_HEAD_WRITE, FB_REPLY_RETRY, FB_REPLY_ABORT (the conclusion is that exec answers
this next state). -/
def Obligations.PagesMoveAndFaultsAreAnswered : Prop :=
  ((∀ (s : State) r s0 e, Served s → s.mature.walk r.ctx r.va false = (s0, .leaf e) → e.leaf.cls = 1 → e.res = 0 → r.addr % e.size = 0 →
     let keys := s0.frameKeys e.vf e.part e.key e.size
     keys.length = e.size / 65536 →
     (∀ k0 ks, keys = k0 :: ks → s0.pageQuiet e.vf e.page e.size k0 = true → s0.peerHeld k0 e.size = false →
       ∃ t w, exec (.swapOut r) s = .next t ∧ w ∈ t.swaps ∧ w.vf = e.vf ∧ w.page = e.page ∧ w.size = e.size ∧ w.frame = e.key ∧
         w.remote = (match r.toPeer with
           | none => hostKey r.addr
           | some p => peerKey p r.addr) ∧
         ∀ x ∈ t.tlb, x.vf = e.vf → overlaps x.page x.size (e.page % 2 ^ 57) e.size = false) ∧
     (∀ k0 ks, keys = k0 :: ks → (∃ l ∈ s0.peerGrants, s0.holdsRun l k0 e.size = true ∧ l.recalled = false) →
       exec (.swapOut r) s = .next (s0.recallGrants fun l => s0.holdsRun l k0 e.size)) ∧
     (∀ k0 ks, keys = k0 :: ks → (∀ l ∈ s0.peerGrants, s0.holdsRun l k0 e.size = true → l.recalled = true) →
       s0.pageQuiet e.vf e.page e.size k0 = false ∨ s0.peerHeld k0 e.size = true → exec (.swapOut r) s = .next s)) ∧
   (∀ (s : State) id w k, (s.swaps.find? fun x => x.id == id) = some w → s.mature.mayReach w.remote = true →
     s.mature.carried id = true →
     s.mature.frameKeys w.vf w.part w.frame w.size = [k] → s.mature.mem.wf = true →
     (∀ p ∈ s.mature.pending, p.key < k ∨ k + 65536 ≤ p.key) → s.mature.peerGap w.peerPage = none →
     ∃ t, exec (.swapCopyComplete id) s = .next t ∧ (∀ x ∈ t.swaps, x.id ≠ id) ∧
       (∀ i, i < 65536 → t.mem.byte (w.remote + i) = s.mature.mem.byte (k + i)) ∧
       ∀ a, a < w.remote ∨ w.remote + 65536 ≤ a → t.mem.byte a = s.mature.mem.byte a) ∧
   (∀ (s : State) id f frame, (s.fetches.find? fun x => x.id == id) = some f → f.frame = some frame →
     let s0 := s.mature
     let keys := s0.frameKeys f.vf f.part frame f.size
     s0.pageQuiet f.vf f.page f.size f.remote = true → (∀ k ∈ keys, s0.linesQuiet k 65536 = true) →
     (f.inPlace = true ∨ s0.carried id = true ∧ (s0.timeLost && isPeer f.remote) = false) →
     (∀ x ∈ s.clusters, ∀ l ∈ x.2.lines, l.away = none) →
     keys.length = f.size / 65536 → (∀ w ∈ s0.swaps, w.isOf f.vf f.page = false) → f.inPlace = true ∨ s0.peerGap f.peerPage = none →
     ∃ t, exec (.tileArrival id) s = .next t ∧ (∀ x ∈ t.fetches, x.id ≠ id) ∧
       (∀ m ∈ t.manifests, m.vf = f.vf → m.tile ∉ tilesOf f.page f.size) ∧
       ∀ gid g slot m, s.group? gid = some g → g.park = some (.fetch slot m [id]) →
         ∃ g', t.group? gid = some g' ∧ g'.park = none ∧ g'.v = g.v ∧ g'.g = g.g)) ∧
  ((∀ (s : State) pid p n, s.part? pid = some p → p.fbHeld = [] → n < 2 ^ 32 →
     ((BitVec.ofNat 32 n - p.fbHead).toNat ≤ p.fbUsed → ∃ t, exec (.fbHeadWrite pid n) s = .next t ∧
       t.part? pid = some { p with fbHead := BitVec.ofNat 32 n }) ∧
     (p.fbUsed < (BitVec.ofNat 32 n - p.fbHead).toNat → ∃ t, exec (.fbHeadWrite pid n) s = .next t ∧ t.part? pid = some p)) ∧
   (∀ (s : State) pid n g slot replay kind addr p, s.parkedOn pid n = some (g, slot, replay, kind, addr) →
     s.group? g.id = some g → g.path slot = some p → p.abort = false →
     (∃ t g' q, exec (.fbReplyRetry pid n) s = .next t ∧ t.group? g.id = some g' ∧ g'.park = none ∧ g'.path slot = some q ∧
       q.replay = some replay ∧ q.pc = p.pc ∧ q.mask = p.mask ∧ g'.v = g.v ∧ g'.g = g.g ∧ ∀ a, t.mem.byte a = s.mem.byte a) ∧
     (s.chainHolds g slot = true → ∃ t, exec (.fbReplyAbort pid n) s = .next t ∧ PathIs t g.id slot { p with abort := true } ∧
       t.mem = s.mem) ∧
     (∀ c, s.chainHolds g slot = false → s.ctx? g.ctx = some c → c.trapVec ≠ 0 → g.trap.handler = false →
       ∃ t g' q, exec (.fbReplyAbort pid n) s = .next t ∧ t.group? g.id = some g' ∧ g'.park = none ∧ g'.path slot = some q ∧
         q.pc = c.trapVec ∧ g'.trap = { cause := Cause.page.code, info := BitVec.ofNat 8 kind, slot := slot, handler := true, pc := p.pc,
                                        mask := replay, addr := BitVec.ofNat 64 addr } ∧
         g'.v = g.v ∧ g'.g = g.g ∧ ∀ a, t.mem.byte a = s.mem.byte a)) ∧
   (∀ (s : State) pid n g slot replay kind addr p q, s.parkedOn pid n = some (g, slot, replay, kind, addr) → g.path slot = some p →
     p.abort = true → s.part? pid = some q →
     (∃ t, exec (.fbReplyRetry pid n) s = .next t ∧ t.part? pid = some { q with fbStale := true } ∧ t.groups = s.groups) ∧
     ∃ t, exec (.fbReplyAbort pid n) s = .next t ∧ t.part? pid = some { q with fbStale := true } ∧ t.groups = s.groups) ∧
   (∀ (s : State) pid n p, s.parkedOn pid n = none → s.part? pid = some p →
     (∃ t, exec (.fbReplyRetry pid n) s = .next t ∧ t.part? pid = some { p with fbStale := true }) ∧
     ∃ t, exec (.fbReplyAbort pid n) s = .next t ∧ t.part? pid = some { p with fbStale := true }))

/-- SHOOTDOWN and SHOOTDOWN_COMPLETE (R213, R214): no TLB of the contexts named keeps a translation of the range, and grants to peers on it
are recalled; completion is reported once nothing that was under way at the first step still is, and no peer holds a translation.

The peer and CXL requests (R214, R288, R290, R297). A translation that leads to resident memory is granted for 16 µs, and a flit tells its
source; one this module asked for is then held for 16 µs; a recall marks it, an acknowledgement or its expiry ends it. A peer's read under a grant is answered from home with a poison
bit for each granule, and a write without the right is discarded; a secure page of a non-secure function is not granted, and the request is
logged. The host's CXL access of a non-secure function to secure memory reads poison or is discarded, and is logged (R297); so is one outside
its windows (the model's reading, log 42).

Completes: SHOOTDOWN, SHOOTDOWN_COMPLETE, PEER_TRANSLATION_REQUEST, PEER_TRANSLATION_RECALL, PEER_RECALL_ACK, PEER_LEASE_EXPIRY,
PEER_MEMORY_FLIT, CXL_MEM_ACCESS (the conclusion is that exec answers this next state). -/
def Obligations.TranslationsAndPeersAreConfined : Prop :=
  ((∀ (s : State) vf ctx lo hi, Served s →
     ∃ t d, exec (.shootdown vf ctx lo hi) s = .next t ∧ d ∈ t.shootdowns ∧ d.vf = vf ∧ d.ctx = ctx ∧ d.lo = lo ∧ d.hi = hi ∧
       d.flights = s.travellersOf (s.shootPick vf ctx) ∧ d.copies = s.enginesOf (s.shootPick vf ctx) ∧
       (∀ x ∈ t.tlb, x.vf = vf → s.shootPick vf ctx x.ctx = true → overlaps x.page x.size (lo % 2 ^ 57) (hi - lo) = false) ∧
       (∀ l ∈ t.peerGrants, l.vf = vf → overlaps l.page l.size (lo % 2 ^ 57) (hi - lo) = true → l.recalled = true) ∧
       (∀ gid g, s.group? gid = some g → ∃ g', t.group? gid = some g' ∧ g'.v = g.v ∧ g'.g = g.g) ∧ t.mem = s.mem) ∧
   (∀ (s : State) id d, (s.shootdowns.find? fun x => x.id == id) = some d →
     ((∀ f ∈ d.flights, f ∉ s.travellersOf fun _ => true) → (∀ k ∈ d.copies, k ∉ s.enginesOf fun _ => true) →
       (∀ l ∈ s.peerGrants, l.vf = d.vf → overlaps l.page l.size (d.lo % 2 ^ 57) (d.hi - d.lo) = true → l.expiry ≤ s.now) →
       exec (.shootdownComplete id) s =
         .next { s with shootdowns := s.shootdowns.filter fun x => x.id != id, outbox := s.outbox ++ [.shootdownDone id] }) ∧
     (∀ f ∈ d.flights, f ∈ (s.travellersOf fun _ => true) → exec (.shootdownComplete id) s = .next s))) ∧
  ((∀ (s : State) src cid va s1, s.linkUp = true → src ≠ s.moduleNo → (∀ e, s.mature.walk cid va false = (s1, .leaf e) →
       ∀ key, s1.place e e.page = .mem key → e.leaf.cls ≠ 2 → (e.leaf.ns = true ∨ ∃ v, s1.vf? e.vf = some v ∧ v.secure = true) →
         ∃ t l, exec (.peerTranslationRequest src cid va) s = .next t ∧ t.peerGrants = s1.peerGrants ++ [l] ∧ l.peer = src ∧
           l.page = e.page ∧ l.size = e.size ∧ l.key = key ∧ l.write = e.leaf.w ∧ l.expiry = s1.now + 16000 ∧ l.recalled = false ∧
           t.outbox = s1.outbox ++ [.peerGrant src e.page e.size key l.expiry] ∧ t.mem = s1.mem) ∧
     (∀ x, s.mature.walk cid va false = (s1, x) → (∀ e, x ≠ .leaf e) → exec (.peerTranslationRequest src cid va) s = .next s1) ∧
     (∀ e v, s.mature.walk cid va false = (s1, .leaf e) → (∃ key, s1.place e e.page = .mem key) → e.leaf.cls ≠ 2 → e.leaf.ns = false →
       s1.vf? e.vf = some v → v.secure = false →
       ∃ t, exec (.peerTranslationRequest src cid va) s = .next t ∧ t.peerGrants = s1.peerGrants ∧ t.outbox = s1.outbox ∧
         t.station.logged = s1.station.logged + 1)) ∧
   (∀ (s : State) l c va, s.linkUp = true → l ∈ s.peerLeases → l.asked = true → s.ctx? c.id = some c → l.vf = c.vf →
     l.page ≤ va % 2 ^ 57 → va % 2 ^ 57 < l.page + l.size → s.mayReach l.key = true →
     ∃ t, exec (.peerTranslationRequest s.moduleNo c.id va) s = .next t ∧ t.mem = s.mem ∧
       { l with asked := false, expiry := s.now + 16000 } ∈ t.peerLeases) ∧
   (∀ (s : State) l, s.linkUp = true → l ∈ s.peerLeases →
     (∃ t, exec (.peerTranslationRecall l.id) s = .next t ∧ { l with recalled := true } ∈ t.peerLeases ∧ t.mem = s.mem) ∧
     (l.recalled = true → s.leaseBusy l = false → (∀ x ∈ s.peerGrants, x.id ≠ l.id) →
       ∃ t, exec (.peerRecallAck l.id) s = .next t ∧ (∀ x ∈ t.peerLeases, x.id ≠ l.id) ∧ t.mem = s.mem)) ∧
   (∀ (s : State) l, s.linkUp = true → l ∈ s.peerGrants →
     (∃ t, exec (.peerTranslationRecall l.id) s = .next t ∧ { l with recalled := true } ∈ t.peerGrants ∧ t.mem = s.mem ∧
       (l.recalled = false → Output.peerRecall l.peer l.page ∈ t.outbox)) ∧
     (l.recalled = true → ∃ t, exec (.peerRecallAck l.id) s = .next t ∧ (∀ x ∈ t.peerGrants, x.id ≠ l.id) ∧ t.mem = s.mem) ∧
     (l.asked = false → l.expiry ≤ s.now → ∃ t, exec (.peerLeaseExpiry l.id) s = .next t ∧ (∀ x ∈ t.peerGrants, x.id ≠ l.id) ∧ t.mem = s.mem)) ∧
   (∀ (s : State) src port grant off n data (psn : List Bool) l, s.dranovUp port = true →
     (s.grantFor src grant off n = some l → ∀ rs s1 bs b, s.grantRuns l off n = some rs → s.homeReads rs = (s1, bs, b) →
       exec (.peerMemoryFlit (.read src port grant off n)) s = .next { s1 with outbox := s1.outbox ++ [.peerData src bs b] }) ∧
     (s.grantFor src grant off n = none → exec (.peerMemoryFlit (.read src port grant off n)) s = .next s) ∧
     (s.grantFor src grant off n = some l → s.grantRuns l off n = none →
       exec (.peerMemoryFlit (.read src port grant off n)) s = .next s) ∧
     (s.grantFor src grant off data.length = some l → l.write = false →
       exec (.peerMemoryFlit (.write src port grant off data psn)) s = .next s) ∧
     (s.grantFor src grant off data.length = some l → l.write = true → ∀ rs, s.grantRuns l off data.length = some rs →
       exec (.peerMemoryFlit (.write src port grant off data psn)) s =
         .next (s.taintedWrites (runGranules rs) data psn))) ∧
   (∀ (s : State) src port addr data psn, s.dranovUp port = true → src < 256 → addr + data.length ≤ 2 ^ 52 →
     ∃ t, exec (.peerMemoryFlit (.data src port addr data psn)) s = .next t ∧
       (∀ i b, data[i]? = some b → t.mem.byte (peerKey src addr + i) = b) ∧
       ∀ a, a < peerKey src addr ∨ peerKey src addr + data.length ≤ a → t.mem.byte a = s.mature.mem.byte a) ∧
   (∀ (s : State) r v, s.portUp 18 = true → s.vf? r.vf = some v → r.write = false → 0 < r.len →
     (∀ rs s1 bs b, s.confineRun v r.part r.addr r.len = some rs → (v.secure = true ∨ ∀ k ∈ rs, s.secureKey k.1 = false) →
       s.homeReads rs = (s1, bs, b) →
       exec (.cxlMemAccess r) s = .next { s1 with outbox := s1.outbox ++ [.cxlData r.vf bs b] }) ∧
     (s.confineRun v r.part r.addr r.len = none ∨
         (∃ rs k, s.confineRun v r.part r.addr r.len = some rs ∧ k ∈ rs ∧ v.secure = false ∧ s.secureKey k.1 = true) →
       ∃ t, exec (.cxlMemAccess r) s = .next t ∧ t.outbox = s.outbox ++ [.cxlData r.vf (List.replicate r.len 0) ((granulePieces r.addr r.len).map fun _ => true)] ∧
         t.station.logged = s.station.logged + 1 ∧ t.mem = s.mem)) ∧
   (∀ (s : State) r v, s.portUp 18 = true → s.vf? r.vf = some v → r.write = true →
     (∀ rs, s.confineRun v r.part r.addr r.data.length = some rs → (v.secure = true ∨ ∀ k ∈ rs, s.secureKey k.1 = false) →
       exec (.cxlMemAccess r) s = .next (s.mature.homeWrites .clean rs r.data)) ∧
     (s.confineRun v r.part r.addr r.data.length = none ∨
         (∃ rs k, s.confineRun v r.part r.addr r.data.length = some rs ∧ k ∈ rs ∧ v.secure = false ∧ s.secureKey k.1 = true) →
       exec (.cxlMemAccess r) s = .next { s with station := { s.station with logged := s.station.logged + 1 } })))

/-- Submission queues (R5, R220 to R223): enabling starts a queue afresh or puts it in ERROR with its cause, a doorbell writes WR and, where a
check fails, puts the queue in ERROR with its cause, and disabling makes it DISABLED. A record that passes the checks becomes a launch, and one that does
not is rejected with its reason; both advance SEQ and RD.

BLOCK_PLACE, PLACEMENT_RESERVE, BITMAP_BIT_SET and LAUNCH_COMPLETE (R225, R229, R230, R233 to R235): the block that ranks first starts where
the placement puts it, each of its groups at the entry with its lanes and arguments; a block that has waited 128 µs reserves the cluster
where least is missing; a completed block's bit is set in the bitmap, or BMFAULT where the write faults; and a launch whose blocks have all exited and whose writes are visible is complete.

Completes: SQ_ENABLE, SQ_DISABLE, SQ_DOORBELL, LAUNCH_RECORD_READ, BLOCK_PLACE, PLACEMENT_RESERVE, BITMAP_BIT_SET, LAUNCH_COMPLETE (the
conclusion is that exec answers this next state). -/
def Obligations.LaunchesRunToCompletion : Prop :=
  ((∀ (s : State) vf q v x, s.vf? vf = some v → v.queues[q]? = some x →
     let fresh : SubQueue := { x with enable := true, rd := 0, wr := 0, seq := 0, state := .running, cause := 0, rejected := [] }
     let c := v.queueCause { x with rd := 0, wr := 0 }
     (x.enable = false → c = 0 → ∃ t, exec (.sqEnable vf q) s = .next t ∧ QueueIs t vf q fresh ∧ t.outbox = s.outbox) ∧
     (x.enable = false → c ≠ 0 → ∃ t, exec (.sqEnable vf q) s = .next t ∧
       QueueIs t vf q { fresh with state := .error, cause := BitVec.ofNat 4 c } ∧ t.outbox = s.outbox ++ [.msix vf 0]) ∧
     (x.enable = true → exec (.sqEnable vf q) s = .next s) ∧
     (∃ t, exec (.sqDisable vf q) s = .next t ∧ QueueIs t vf q { x with enable := false, state := .disabled, cause := 0 }) ∧
     (∀ w, (x.enable = false → ∃ t, exec (.sqDoorbell vf q w) s = .next t ∧ QueueIs t vf q { x with wr := w } ∧ t.outbox = s.outbox) ∧
       (x.enable = true → v.queueCause x ≠ 0 → ∃ t, exec (.sqDoorbell vf q w) s = .next t ∧
         QueueIs t vf q { x with wr := w, state := .error, cause := BitVec.ofNat 4 (v.queueCause x) } ∧
         t.outbox = s.outbox ++ [.msix vf 0])) ∧
     (∀ w, x.enable = true → v.queueCause x = 0 →
       (w.toNat < x.size.toNat → ((w.toNat : Int) - x.wr.toNat) % x.size.toNat ≤ x.freeRecords →
         ∃ t, exec (.sqDoorbell vf q w) s = .next t ∧ QueueIs t vf q { x with wr := w } ∧ t.outbox = s.outbox) ∧
       (x.size.toNat ≤ w.toNat → ∃ t, exec (.sqDoorbell vf q w) s = .next t ∧
         QueueIs t vf q { x with wr := w, state := .error, cause := 3 } ∧ t.outbox = s.outbox ++ [.msix vf 0]) ∧
       (w.toNat < x.size.toNat → x.freeRecords < ((w.toNat : Int) - x.wr.toNat) % x.size.toNat →
         ∃ t, exec (.sqDoorbell vf q w) s = .next t ∧
           QueueIs t vf q { x with wr := w, state := .error, cause := 4 } ∧ t.outbox = s.outbox ++ [.msix vf 0]))) ∧
   (∀ (s : State) vf q v x key, s.vf? vf = some v → v.queues[q]? = some x → s.nextQueue = some (16 * vf + q) → s.station.mode = .running →
     s.confine v x.part.toNat (x.addr.toNat * 256 + 256 * x.rd.toNat) = some key →
     let s1 := (s.atHome (key / 128)).recall (key / 128 + 1)
     let l := parseLpb (s1.mem.bytes key 256)
     let read : SubQueue := { x with seq := x.seq + 1, rd := BitVec.ofNat 16 ((x.rd.toNat + 1) % x.size.toNat) }
     firstPoison s1.poison key 256 = none →
     (s1.lpbReason vf v x (x.seq + 1).toNat l = 0 → l.bitmap = 0 → ∃ t k, exec (.launchRecordRead vf q) s = .next t ∧
       t.launches = s.launches ++ [k] ∧ k.lpb = l ∧ k.vf = vf ∧ k.queue = q ∧ k.seq = (x.seq + 1).toNat ∧ k.started = [] ∧
       k.finished = false ∧ k.producer = (s.tagged vf q l).map (fun p => p.id) ∧ QueueIs t vf q read ∧ t.outbox = s.outbox) ∧
     (s1.lpbReason vf v x (x.seq + 1).toNat l ≠ 0 → ∃ t, exec (.launchRecordRead vf q) s = .next t ∧ t.launches = s.launches ∧
       t.outbox = s.outbox ++ [.msix vf 1] ∧
       QueueIs t vf q { read with rejSeq := x.seq + 1, reason := BitVec.ofNat 4 (s1.lpbReason vf v x (x.seq + 1).toNat l),
                                  done := x.done + 1, rejected := x.rejected ++ [(x.seq + 1).toNat] }))) ∧
  ((∀ (s : State) lid b l k cl cores granules, s.launch? lid = some l → s.nextBlock (s.partOf l.lpb.ctx) = some (k, b) → k.id = lid →
     s.boundaryFirst l = false → s.placement l b = some (cl, cores, granules) →
     ∃ t l', exec (.blockPlace lid b) s = .next t ∧ t.launch? lid = some l' ∧ l'.started = l.started ++ [b] ∧
       (∃ x ∈ t.blocks, x.launch = l.id ∧ x.index = b ∧ x.cluster = cl ∧ x.granules = granules ∧ x.live = l.lpb.groups ∧ x.scratch = []) ∧
       (∀ j core slot, cores[j]? = some (core, slot) → ∃ g ∈ t.groups, g.ctx = l.lpb.ctx ∧ g.launch = l.id ∧ g.index = j ∧
         g.cluster = cl ∧ g.core = core % 4 ∧ g.slot = slot ∧ g.vCount = l.lpb.vRegs ∧ g.gCount = l.lpb.gRegs ∧ g.exited = 0 ∧
         g.stack = [] ∧ g.trap = TrapRegs.reset ∧ g.real = realLanes l.lpb.threads j ∧ g.helper = helperLanes l.lpb.threads j ∧
         (∀ r w, l.lpb.args[r]? = some w → g.greg r = w) ∧ (∀ r i, g.vreg r i = 0) ∧
         g.path false = some (Path.start (BitVec.ofNat 32 l.lpb.entry) (g.real ||| g.helper) none s.ticks) ∧ g.path true = none) ∧
       (∀ gid g, s.group? gid = some g → ∃ g', t.group? gid = some g' ∧ g'.v = g.v ∧ g'.g = g.g) ∧ t.mem = s.mem) ∧
   (∀ (s : State) lid b l c k clr, s.launch? lid = some l → s.ctx? l.lpb.ctx = some c → l.waiting = true → b < l.lpb.total →
     b ∉ l.started → (∀ r ∈ l.reserved, r.1 ≠ b) → 128000 * 24 ≤ s.ticks → s.eligibleBlock l b = true →
     s.eligibleBefore l b (s.ticks - 128000 * 24) = true → s.placement l b = none → c.state = .live →
     leastBy (fun (x : Nat × Cluster) => s.lacking c l.lpb x.1 x.2)
       ((s.clusterOrder c.part).filter fun x => s.poolOk c l.lpb x.2 && !s.reservedFor x.1 l b) = some (k, clr) →
     ∃ t, exec (.placementReserve lid b) s = .next t ∧ t.launch? lid = some { l with reserved := l.reserved ++ [(b, k)] } ∧ t.mem = s.mem) ∧
   (∀ (s : State) lid b l s1 key, s.launch? lid = some l → l.lpb.bitmap ≠ 0 → l.isComplete b = true → b ∉ l.bitsSet →
     s.mature.bitmapXlat l.lpb .atomic (l.lpb.bitmap + b / 8) 1 = (s1, .keys [(key, 1)]) →
     let old := (s1.atHome (key / 128)).latest.mem.byte key
     ∃ t w, exec (.bitmapBitSet lid b) s = .next t ∧ w ∈ t.pending ∧ w.key = key ∧ w.data = [old ||| BitVec.ofNat 8 (2 ^ (b % 8))] ∧
       w.gwct = (s1.atHome (key / 128)).gwctOf (key / 128) ∧ t.launch? lid = some { l with bitsSet := l.bitsSet ++ [b], visible := max l.visible w.gwct }) ∧
   (∀ (s : State) lid b l s1 v x, s.launch? lid = some l → l.lpb.bitmap ≠ 0 → l.isComplete b = true → b ∉ l.bitsSet →
     s.mature.bitmapXlat l.lpb .atomic (l.lpb.bitmap + b / 8) 1 = (s1, .fault) → s1.vf? l.vf = some v → v.queues[l.queue]? = some x →
     s1.launches = s.launches →
     ∃ t, exec (.bitmapBitSet lid b) s = .next t ∧ QueueIs t l.vf l.queue { x with bmFault := true } ∧ t.mem = s1.mem ∧
       t.launch? lid = some { l with bitsSet := l.bitsSet ++ [b] }) ∧
   (∀ (s : State) lid l v x, s.launch? lid = some l → l.finished = false → l.exited.length = l.lpb.total →
     (l.lpb.bitmap = 0 ∨ l.bitsSet.length = l.complete.length) → s.vf? l.vf = some v → v.queues[l.queue]? = some x →
     (l.visible ≤ s.now → ∃ t, exec (.launchComplete lid) s = .next t ∧
       t.launch? lid = some { l with finished := true } ∧ QueueIs t l.vf l.queue { x with done := x.done + 1 } ∧
       t.outbox = s.outbox ++ [.msix l.vf 1]) ∧
     (s.now < l.visible → exec (.launchComplete lid) s = .next s)))

/-- CONTEXT_CREATE, CONTEXT_DESTROY and LOOP_PARAMS_SET (R206, R245, R246, R272): a context is made live with the loop registers of R245, one
that exists already is not made again, destroying one discards its groups, and a set of parameters waits for the boundary or is refused; a
loop without an interval has no boundary, and takes it at once (the model's choice, log 70).

Completes: CONTEXT_CREATE, CONTEXT_DESTROY, LOOP_PARAMS_SET (the conclusion is that exec answers this next state). -/
def Obligations.ContextsAreMadeAndDiscarded : Prop :=
  (∀ (s : State) r v pid p, Served s → s.vf? r.vf = some v → v.parts[r.part]? = some pid → s.part? pid = some p → r.ctx < 4096 →
    r.cls < 4 → r.floor < 4 → (r.members = [] ∨ s.moduleNo ∈ r.members) →
    (s.ctx? r.ctx = none → ∃ t c, exec (.contextCreate r) s = .next t ∧ t.ctx? r.ctx = some c ∧ c.vf = r.vf ∧ c.part = pid ∧
      c.cls = r.cls ∧ c.floor = r.floor ∧ c.state = .live ∧ c.energy = 0 ∧ c.loop.tgt = 0 ∧ c.loop.meas = 0 ∧ c.loop.integ = 0 ∧
      c.loop.kp = 0 ∧ c.loop.ki = 0 ∧ c.loop.base = 0xFFFF ∧ c.loop.lo = [1, 1, 0, 0, 0] ∧
      c.loop.hi = [96, 16 * p.cfg.units.length, 16 - p.cfg.systemShare, 16, r.floor] ∧ t = { s with contexts := t.contexts }) ∧
    ((s.ctx? r.ctx).isSome = true → exec (.contextCreate r) s = .next s)) ∧
  (∀ (s : State) cid, Served s → ∃ t, exec (.contextDestroy cid) s = .next t ∧ t.ctx? cid = none ∧ (∀ g ∈ t.groups, g.ctx ≠ cid) ∧
    (∀ gid g, s.group? gid = some g → g.ctx ≠ cid → (∀ x ∈ s.groups, x.id = gid → x.ctx ≠ cid) →
      ∃ g', t.group? gid = some g' ∧ g'.v = g.v ∧ g'.g = g.g) ∧ t.mem = s.mature.mem) ∧
  (∀ (s : State) cid set c p, Served s → s.ctx? cid = some c → s.part? c.part = some p →
    let all := { c with loop := { c.loop with pendingSet := some set } } :: (s.contextsOf c.part).filter fun x => x.id != cid
    (paramsOk set (p.limits c.floor) = true → p.fitsShared all LoopRegs.los = true → ∃ t, exec (.loopParamsSet cid set) s = .next t ∧
      (c.loop.ivl ≠ 0 → t.ctx? cid = some { c with loop := { c.loop with pendingSet := some set } }) ∧
      (c.loop.ivl = 0 → t.ctx? cid = some { c with loop := (c.loop.withSet set).start })) ∧
    (paramsOk set (p.limits c.floor) = false ∨ p.fitsShared all LoopRegs.los = false →
      exec (.loopParamsSet cid set) s = .next { s with outbox := s.outbox ++ [.refusedSet cid] }))

/-- LOOP_BOUNDARY of a context of one module (R241 to R243): held where the context was not live throughout; else MEAS is the count, and with a
target I and L follow the loop law, each clamped to its range, and the demanded positions fill the actuators in their order from L (R247).

Completes: LOOP_BOUNDARY (the conclusion is that exec answers this next state). -/
def Obligations.LoopLawAtABoundary : Prop :=
  ∀ (s : State) cid c, s.ctx? cid = some c → c.loop.ivl ≠ 0 → c.loop.nextBoundary ≤ s.now → c.merge = none → c.loop.opening = false →
    c.members = [] → c.loop.pendingSet = none → c.loop.tgtOld = none →
    ∃ t c', exec (.loopBoundary cid) s = .next t ∧ t.ctx? cid = some c' ∧ c'.loop.beats = c.loop.late ∧ c'.loop.late = 0 ∧
      c.loop.nextBoundary < c'.loop.nextBoundary ∧ c'.loop.nextBoundary % 2 ^ (c.loop.ivl + 10) = 0 ∧ t.mem = s.mem ∧
      t.groups = s.groups ∧
      let m := min c.loop.beats 65535
      let e : Int := max (-32768) (min 32767 ((c.loop.tgt.toNat : Int) - m))
      let i : Int := max c.loop.imin (min c.loop.imax (c.loop.integ + e))
      let x : Int := (c.loop.base.toNat : Int) + ((c.loop.kp.toNat : Int) * e + (c.loop.ki.toNat : Int) * i) / 256
      (c.loop.liveThroughout = false → c'.loop.held = true ∧ c'.loop.meas = c.loop.meas ∧ c'.loop.integ = c.loop.integ ∧
        c'.loop.level = c.loop.level) ∧
      (c.loop.liveThroughout = true → c'.loop.held = false ∧ c'.loop.meas.toNat = m ∧
        (c.loop.tgt = 0 → c'.loop.integ = c.loop.integ ∧ c'.loop.level = c.loop.level) ∧
        (c.loop.tgt ≠ 0 → c.loop.imin ≤ c.loop.imax → c.loop.ltop < 65536 → c'.loop.integ = i ∧
          (c'.loop.level.toNat : Int) = max 0 (min (c.loop.ltop : Int) x) ∧ (c'.loop.isat = true ↔ i ≠ c.loop.integ + e) ∧
          (c'.loop.lsat = true ↔ max 0 (min (c.loop.ltop : Int) x) ≠ x) ∧
          ∀ j lo hi, c.loop.lo[j]? = some lo → c.loop.hi[j]? = some hi →
            let above := (((c.loop.lo.zip c.loop.hi).take j).map fun y => y.2 - y.1).sum
            c'.loop.ask[j]? = some (lo + min (c'.loop.level.toNat - above) (hi - lo))))

/-- Spanning contexts (R252): the leader keeps a member's count until all have come or 3 µs have passed, when it forms the minimum, PARTIAL
where a count is missing; a member adopts the leader's state, or holds the boundary when none has come in 4 µs.

ALLOCATION, GRANTS_IN_FORCE and LINK_FRAME_START (R241, R251, R255, R256, R261): an allocation puts the requested performance states in force
and sets its grants' time 8 µs on; then the positions are the grants, which it forms from the demanded positions: bounded by the cores in service
and by floor, step and CEIL (R248, R259), and of a shared actuator its capacity in the order of class, within a class in equal shares with one more for
the lowest ids, SHORT where one falls below an ask (R249); slots follow them at a link frame, the first of the mask for the first
context (the model's choice, log 54). A member keeps its own SHORT (log 37).

Completes: ALLOCATION, GRANTS_IN_FORCE, LINK_FRAME_START, BEAT_MERGE_FLIT, LOOP_RESULT_FLIT, MERGE_COUNT_DEADLINE, MERGE_RESULT_DEADLINE
(the conclusion is that exec answers this next state). -/
def Obligations.GrantsAndMerges : Prop :=
  ((∀ (s : State) cid mdl b n live c m k, s.ctx? cid = some c → c.leader = s.moduleNo → mdl ∈ c.members → mdl ≠ s.moduleNo →
     c.merge = some m → m.boundary = b → m.done = false → (∀ x ∈ m.counts, x.1 ≠ mdl) → k ∈ c.members → k ≠ mdl →
     (∀ x ∈ m.counts, x.1 ≠ k) → s.linkUp = true →
     (s.now ≤ b + 3000 → ∃ t, exec (.beatMergeFlit cid mdl b n live) s = .next t ∧
       t.ctx? cid = some { c with merge := some { m with counts := m.counts ++ [(mdl, n, live)] } }) ∧
     (b + 3000 < s.now → exec (.beatMergeFlit cid mdl b n live) s = .next s)) ∧
   (∀ (s : State) cid c m, s.ctx? cid = some c → c.merge = some m → m.started = true → m.done = false → c.leader = s.moduleNo →
     (m.boundary + 3000 ≤ s.now → ∃ t c' m' r, exec (.mergeCountDeadline cid) s = .next t ∧ t.ctx? cid = some c' ∧ c'.merge = some m' ∧
       m'.done = true ∧ Output.loopResult r (c.members.erase s.moduleNo) ∈ t.outbox ∧ (∀ x ∈ m.counts, r.m ≤ x.2.1) ∧
       (c'.loop.partialMerge = true ↔ ∃ k ∈ c.members, ∀ x ∈ m.counts, x.1 ≠ k) ∧
       ((∃ x ∈ m.counts, x.2.2 = false) → c'.loop.held = true ∧ c'.loop.level = c.loop.level ∧ c'.loop.integ = c.loop.integ) ∧
       ((∀ x ∈ m.counts, x.2.2 = true) → c'.loop.held = false ∧ c'.loop.meas = BitVec.ofNat 16 r.m)) ∧
     (s.now < m.boundary + 3000 → exec (.mergeCountDeadline cid) s = .next s)) ∧
   (∀ (s : State) c m, c.merge = some m → m.started = true → m.done = false → c.leader ≠ s.moduleNo →
     (∀ r, s.linkUp = true → s.ctx? r.ctx = some c → m.boundary = r.boundary → s.now ≤ m.boundary + 4000 → r.held = false → m.tgt = 0 →
       ∃ t c', exec (.loopResultFlit r) s = .next t ∧ t.ctx? r.ctx = some c' ∧ c'.loop.integ = r.integ ∧ c'.loop.level = r.level ∧
         c'.loop.meas = BitVec.ofNat 16 r.m ∧ c'.loop.short = c.loop.short) ∧
     (∀ cid, s.ctx? cid = some c → m.boundary + 4000 ≤ s.now → ∃ t c', exec (.mergeResultDeadline cid) s = .next t ∧
       t.ctx? cid = some c' ∧ c'.loop = { c.loop with held := true } ∧ c'.merge = some { m with done := true }))) ∧
  ((∀ (s : State) pid p, s.part? pid = some p → p.grantsDue = none → s.boundaryOpen pid = false →
     (p.nextAlloc ≤ s.now → ∃ t p', exec (.allocation pid) s = .next t ∧ t.part? pid = some p' ∧ p'.nextAlloc = p.nextAlloc + 16384 ∧
       p'.grantsDue = some (p.nextAlloc + 8000) ∧
       ∀ cid c, s.ctx? cid = some c → c.part = pid → ∃ c', t.ctx? cid = some c' ∧ c'.vpsCur = c.vpsReq ∧ c'.vpsReq = c.vpsReq ∧
         ∀ v e, s.vf? c.vf = some v → v.vps[c.vpsReq.toNat]? = some e → c'.vpsFloor = e.1.toNat ∧ c'.vpsStep = e.2.toNat) ∧
     (s.now < p.nextAlloc → exec (.allocation pid) s = .next s)) ∧
   (∀ (s : State) pid p, s.part? pid = some p → p.grantsDue = none → s.boundaryOpen pid = false → p.nextAlloc ≤ s.now →
     let cs := s.served pid
     let latched := fun (c : Context) => c.latchVps (((s.vf? c.vf).map fun v => v.vps).getD [])
     let at_ := fun (l : List Nat) j => (l[j]?).getD 0
     let extra := fun (G : Nat → Nat → Nat) (c : Context) j => G c.id j - at_ c.loop.lo j
     s.contexts.wf = true → (cs.map fun c => c.id).Nodup → (∀ c ∈ cs, s.ctx? c.id = some c) → (∀ x ∈ s.contexts, x.2.part = pid → x.2.state ≠ .suspended) →
     p.fits (s.coresIn pid).length (cs.map latched) = true →
     (∀ c ∈ cs, c.cls < 4 ∧ ∀ j, j < 5 → at_ c.loop.lo j ≤ at_ c.loop.ask j) →
     ∃ t G, exec (.allocation pid) s = .next t ∧
       (∀ c ∈ cs, ∃ c', t.ctx? c.id = some c' ∧ c'.loop.nextPos = (List.range 5).map (G c.id) ∧ c'.loop.ask = c.loop.ask ∧
         c'.loop.level = c.loop.level ∧ c'.loop.pos = c.loop.pos ∧
         (c.loop.ask.length = 5 → (c'.loop.short = true ↔ ∃ j, j < 5 ∧ G c.id j < at_ c.loop.ask j)) ∧
         G c.id 1 = min (at_ c.loop.ask 1) (s.coresIn pid).length ∧
         G c.id 4 = min (at_ c.loop.ask 4) (min c.floor (min (latched c).vpsStep (c.floor - p.ceil)))) ∧
       ∀ j C, (j, C) ∈ [(0, 96), (2, 16 - p.cfg.systemShare), (3, 16)] →
         (∀ c ∈ cs, at_ c.loop.lo j ≤ G c.id j ∧ G c.id j ≤ at_ c.loop.ask j) ∧ (cs.map fun c => G c.id j).sum ≤ C ∧
         ((cs.map fun c => at_ c.loop.ask j).sum ≤ C → ∀ c ∈ cs, G c.id j = at_ c.loop.ask j) ∧
         ∀ c ∈ cs, G c.id j < at_ c.loop.ask j → (cs.map fun c => G c.id j).sum = C ∧
           (∀ d ∈ cs, c.cls < d.cls → G d.id j = at_ d.loop.lo j) ∧
           ∀ d ∈ cs, c.cls = d.cls → extra G d j ≤ extra G c j + 1 ∧ (extra G d j = extra G c j + 1 → d.id < c.id)) ∧
   (∀ (s : State) pid p due, s.part? pid = some p → p.grantsDue = some due → due ≤ s.now →
     ∃ t, exec (.grantsInForce pid) s = .next t ∧ t.part? pid = some { p with grantsDue := none } ∧
       ∀ cid c, s.ctx? cid = some c → c.part = pid → c.state = .live →
         ∃ c', t.ctx? cid = some c' ∧ c'.loop = { c.loop with pos := c.loop.nextPos }) ∧
   (∀ (s : State) p c, s.nextFrame ≤ s.now → s.parts = [p] → s.served 0 = [c] → s.ctx? c.id = some c →
     ∃ t, exec .linkFrameStart s = .next t ∧ t.nextFrame = s.nextFrame + 1024 ∧
       t.ctx? c.id = some { c with slots := (0, 4 * c.pos 3, slotsFrom p.cfg.dranovMask 0 (c.pos 3 * countOnes p.cfg.dranovMask / 16),
         slotsFrom p.cfg.cxlMask 0 (c.pos 3 * countOnes p.cfg.cxlMask / 16)) }))

/-- Power (R257 to R264): a meter window's end takes the meters and steps the throttle; a cluster too fast for 10 ms has its contexts stopped;
a pool changes after its 50 µs; an epoch, once its last cycle is over, charges each context on the core; a failed core leaves service. The
throttle goes by the EFF of the window that has closed (the model's reading, log 38), and a reassignment to a pool other than the one the
requests name does nothing (the model's choice, log 73).

Completes: METER_WINDOW_END, THROTTLE_DRAIN_TIMEOUT, POOL_REASSIGN, POOL_REASSIGN_DONE, ENERGY_EPOCH_END, UNIT_FAILURE (the conclusion is
that exec answers this next state). -/
def Obligations.PowerEventsActOnTheirUnits : Prop :=
  (∀ (s : State) ms u, s.nextMeter ≤ s.now → ∃ t, exec (.meterWindowEnd ms u) s = .next t ∧ t.nextMeter = s.nextMeter + 2 ^ 20 ∧
    t.pwrUncore = u ∧ ∀ (i : Nat) (p : Part) (w : Nat), s.parts[i]? = some p → ms[i]? = some w → s.pwrIdle ≤ s.pwrCap →
      ∃ p', t.part? i = some p' ∧ p'.meter = min 65535 w ∧
        (p.eff < min 65535 w → 8 < p.duty → p'.duty = p.duty - 8 ∧ p'.ceil = p.ceil) ∧
        (p.eff < min 65535 w → p.duty ≤ 8 → p.ceil < 3 → p'.duty = p.duty ∧ p'.ceil = p.ceil + 1) ∧
        (min 65535 w ≤ p.eff → 16 * min 65535 w < 15 * p.eff → 0 < p.ceil → p'.ceil = p.ceil - 1 ∧ p'.duty = p.duty) ∧
        (min 65535 w ≤ p.eff → 16 * min 65535 w < 15 * p.eff → p.ceil = 0 → p'.duty = min 64 (p.duty + 8) ∧ p'.ceil = 0) ∧
        (min 65535 w ≤ p.eff → 15 * p.eff ≤ 16 * min 65535 w → p'.duty = p.duty ∧ p'.ceil = p.ceil)) ∧
  (∀ (s : State) cl c t0, s.cluster? cl = some c → c.fastSince = some t0 → t0 + 10000000 * 24 ≤ s.ticks →
    (∃ g ∈ s.groups, g.cluster = cl ∧ ∃ x, s.ctx? g.ctx = some x ∧ x.state = .live) →
    ∃ t, exec (.throttleDrainTimeout cl) s = .next t ∧ ∀ g ∈ s.groups, g.cluster = cl → ∀ x, s.ctx? g.ctx = some x → x.state = .live →
      Becomes t g.ctx (.stopping .suspend s.ticks)) ∧
  (∀ (s : State) cl c, s.cluster? cl = some c →
    (∀ pool, Served s → c.moving = none → s.clusterEmpty cl c = true → s.poolFor cl c = some pool →
      ∃ t c', exec (.poolReassign cl pool) s = .next t ∧ t.cluster? cl = some c' ∧ c'.moving = some (pool, s.ticks + 50000 * 24) ∧
        c'.pool = c.pool) ∧
    (∀ pool, s.poolFor cl c ≠ some pool → exec (.poolReassign cl pool) s = .next s) ∧
    (∀ pool t0, c.moving = some (pool, t0) →
      (t0 ≤ s.ticks → ∃ t c', exec (.poolReassignDone cl) s = .next t ∧ t.cluster? cl = some c' ∧ c'.pool = pool ∧ c'.moving = none) ∧
      (s.ticks < t0 → exec (.poolReassignDone cl) s = .next s)) ∧
    (∀ core b, c.inService[core]? = some b → ∃ t c', exec (.unitFailure cl core) s = .next t ∧ t.cluster? cl = some c' ∧
      c'.inService[core]? = some false) ∧
    (∀ core n, c.epochs[core]? = some n →
      (n < (c.cycles s.ticks - 1) / 1024 → ∃ t c', exec (.energyEpochEnd cl core) s = .next t ∧ t.cluster? cl = some c' ∧
        c'.epochs[core]? = some (n + 1) ∧ ∀ pid p g x, s.clusterPart cl = some pid → s.part? pid = some p →
          s.groupsOn (4 * cl + core) = [g] → g.since ≤ 1024 * (n + 1) → c.left = [] → s.ctx? g.ctx = some x →
          x.energy.toNat + p.weight 14 / 96 < 2 ^ 48 →
          ∃ x', t.ctx? g.ctx = some x' ∧ x'.energy.toNat = x.energy.toNat + p.weight 14 / 96) ∧
      ((c.cycles s.ticks - 1) / 1024 ≤ n → exec (.energyEpochEnd cl core) s = .next s)))

/-- Pre-emption (R236, R273 to R277): a live context stops at its boundaries; once it has drained, its groups leave the part and stand in its
image; after 80 µs without having drained its engines are reset; and an image that finds room and fits runs again.

Completes: PREEMPT, PREEMPT_DRAIN_COMPLETE, PREEMPT_DRAIN_TIMEOUT, CONTEXT_RESTORE (the conclusion is that exec answers this next state). -/
def Obligations.PreemptionSavesAndRestores : Prop :=
  (∀ (s : State) cid c, s.ctx? cid = some c →
    (c.state = .live → ∃ t, exec (.preempt cid) s = .next t ∧ Becomes t cid (.stopping .preempt s.ticks) ∧
      (∀ g ∈ t.groups, g.ctx = cid → g.stopping = true) ∧ t.mem = s.mem) ∧
    (c.state ≠ .live → exec (.preempt cid) s = .next s) ∧
    (∀ k t0, c.state = .stopping k t0 →
      (s.drained cid = true → ∃ t c' img, exec (.preemptDrainComplete cid) s = .next t ∧ t.ctx? cid = some c' ∧ c'.state = k.after ∧
        c'.image = some img ∧ img.groups.map (fun g => (g.id, g.v, g.g)) =
          (s.groups.filter fun g => g.ctx == cid).map (fun g => (g.id, g.v, g.g)) ∧
        (∀ g ∈ t.groups, g.ctx ≠ cid) ∧ t.mem = s.mem) ∧
      (s.drained cid = false → exec (.preemptDrainComplete cid) s = .next s) ∧
      (s.drained cid = false → t0 + 80000 * 24 ≤ s.ticks → exec (.preemptDrainTimeout cid) s = .next (s.mature.resetEngines cid)) ∧
      (s.ticks < t0 + 80000 * 24 → exec (.preemptDrainTimeout cid) s = .next s))) ∧
  (∀ (s : State) cid pid c p v img, Served s → s.ctx? cid = some c → s.part? pid = some p → c.image = some img →
    (c.state = .saved ∨ c.state = .suspended) → s.vf? c.vf = some v → v.parts.contains pid = true →
    (c.part ≠ pid → 8 ≤ s.transfers.length → exec (.contextRestore cid pid) s = .next { s with held := s.held ++ [.contextRestore cid pid] }) ∧
    (img.psn = true → (c.part = pid ∨ s.transfers.length < 8) → ∃ t, exec (.contextRestore cid pid) s = .next t ∧ Becomes t cid .faulted) ∧
    (img.psn = false → (c.part = pid ∨ s.transfers.length < 8) → s.mature.placeImage cid pid img = none →
      exec (.contextRestore cid pid) s = .next { s with outbox := s.outbox ++ [.resumeShort cid] }) ∧
    (∀ s1, img.psn = false → (c.part = pid ∨ s.transfers.length < 8) → s.mature.placeImage cid pid img = some s1 →
      let c1 := { c with loop := c.loop.clampRanges (p.limits c.floor), part := pid, wayMask := if c.part == pid then c.wayMask else 0 }
      (p.fits (s.mature.coresIn pid).length (c1 :: s.mature.served pid) = true →
        ∃ t, exec (.contextRestore cid pid) s = .next t ∧ Becomes t cid .live ∧ t.groups = s1.groups) ∧
      (p.fits (s.mature.coresIn pid).length (c1 :: s.mature.served pid) = false →
        ∃ t, exec (.contextRestore cid pid) s = .next t ∧ Becomes t cid .suspended ∧ t.groups = s.groups)))

/-- Errors and their boundaries (R35, R174, R186, R275, R281, R282, R284): a memory error poisons the granule, the stored manifest entry, the
stack entry, the tuple or the image it strikes; a tag-parity error drops the line, whose bytes, where no cluster holds it OWNED, are those that HBM holds, and stops the
contexts of the way, or of the partition; a bank error stops every context that holds a bank of the cluster, a register error the group's context;
an engine that is reset gives up its commands and marks their batches; the matrix engine completes the quarter operations of its passes poisoned, and
leaves the operations still in its table; a correctable error is counted. What a bank error, a register error and a reset of the matrix engine leave as it
was is said for each.

Completes: HBM_UNCORRECTABLE_ERROR, L2_DATA_UNCORRECTABLE_ERROR, L2_TAG_PARITY_ERROR, CLUSTER_BANK_UNCORRECTABLE,
REGISTER_FILE_UNCORRECTABLE, COPY_ENGINE_ERROR, CORRECTABLE_ERROR, ENGINE_RESET (the conclusion is that exec answers this next state). -/
def Obligations.ErrorsStayInTheirBoundary : Prop :=
  (∀ (s : State) e, ∀ i, i = .hbmUncorrectableError e ∨ i = .l2DataUncorrectableError e →
    (∀ a, e = .memory a → a < 2 ^ 40 → ∃ t, exec i s = .next t ∧ (t.poison.get? (a / 64)).isSome = true ∧ t.mem = s.mature.mem ∧
      t.groups = s.groups ∧ t.contexts = s.contexts) ∧
    (∀ vf tile n, e = .manifest vf tile n → ∃ t, exec i s = .next t ∧ t.mem = s.mem ∧ t.groups = s.groups ∧
      ∀ m ∈ t.manifests, m.vf = vf → m.tile = tile → ∀ x, m.entries[n]? = some x → x.psn = true) ∧
    (∀ gid n g, e = .stack gid n → s.group? gid = some g → ∃ t g', exec i s = .next t ∧ t.group? gid = some g' ∧
      g'.entryPsn n = true ∧ g'.stack = g.stack ∧ t.mem = s.mem) ∧
    (∀ n u, e = .tuple n → s.tuples[n]? = some u → ∃ t, exec i s = .next t ∧ t.tuples = s.tuples.set n { u with psn := true } ∧
      t.mem = s.mem) ∧
    (∀ cid c img, e = .image cid → s.ctx? cid = some c → c.image = some img → ∃ t, exec i s = .next t ∧
      t.ctx? cid = some { c with image := some { img with psn := true } } ∧ t.mem = s.mem)) ∧
  (∀ (s : State) slice way line pid p, (s.parts.findIdx? fun p => p.cfg.units.contains (slice / 4)) = some pid →
    s.part? pid = some p → way < 16 → ∃ t, exec (.l2TagParityError slice way line) s = .next t ∧
      (∀ l, s.mature.l2.get? line = some l → l.slice = slice → l.way = way → t.l2.get? line = none ∧
        (l.dirty = true → s.mature.ownedLine line = none → ∀ n b, n < 128 → l.hbm[n]? = some b → t.mem.byte (128 * line + n) = b)) ∧
      (∀ a, a / 128 ≠ line → t.mem.byte a = s.mature.mem.byte a) ∧
      let users := (s.wayFills.get? (16 * slice + way)).getD []
      ∀ cid c, s.ctx? cid = some c → c.state = .live →
        (c.part = pid → (4 < users.length ∨ 16 - p.cfg.systemShare ≤ way ∨ cid ∈ users) → Becomes t cid (.stopping .fault s.ticks)) ∧
        (s.contexts.wf = true → c.part ≠ pid → Becomes t cid .live)) ∧
  (∀ (s : State) cl bank c, s.cluster? cl = some c → bank < c.banks.length →
    ∃ t, exec (.clusterBankUncorrectable cl bank) s = .next t ∧ t.mem = s.mem ∧ ∀ b ∈ c.banks, ∀ cid, b.owner = some cid →
      ∀ x, s.ctx? cid = some x → x.state = .live → Becomes t cid (.stopping .fault s.ticks)) ∧
  (∀ (s : State) cl bank c, s.cluster? cl = some c → bank < c.banks.length → s.contexts.wf = true →
    ∃ t, exec (.clusterBankUncorrectable cl bank) s = .next t ∧ t.clusters = s.clusters ∧ t.blocks = s.blocks ∧
      (∀ cid x, s.ctx? cid = some x → (∀ b ∈ c.banks, b.owner ≠ some cid) → t.ctx? cid = some x) ∧
      ∀ gid g, s.group? gid = some g → (∀ b ∈ c.banks, b.owner ≠ some g.ctx) → t.group? gid = some g) ∧
  (∀ (s : State) gid g c, s.group? gid = some g → s.ctx? g.ctx = some c → c.state = .live → s.contexts.wf = true →
    ∃ t, exec (.registerFileUncorrectable gid) s = .next t ∧ Becomes t g.ctx (.stopping .fault s.ticks) ∧ t.mem = s.mem ∧
      t.clusters = s.clusters ∧ t.blocks = s.blocks ∧ (∀ cid x, s.ctx? cid = some x → cid ≠ g.ctx → t.ctx? cid = some x) ∧
      ∀ i x, s.group? i = some x → x.ctx ≠ g.ctx → t.group? i = some x) ∧
  (∀ (s : State) cl c, s.cluster? cl = some c →
    ∃ t c', exec (.copyEngineError (.copy cl)) s = .next t ∧ exec (.engineReset (.copy cl)) s = .next t ∧ t.cluster? cl = some c' ∧
      c'.copies = [] ∧ ∀ k ∈ c.copies, ∀ g, s.group? k.grp = some g → ∃ g' b, t.group? k.grp = some g' ∧ b ∈ g'.batches ∧ b.1 = k.batch ∧
        b.2.2.2 = true) ∧
  (∀ (s : State) die, ∃ t, exec (.copyEngineError (.cast die)) s = .next t ∧ exec (.engineReset (.cast die)) s = .next t ∧
    t.castQueues.get? die = none) ∧
  (∀ (s : State) cl c, s.cluster? cl = some c → ∃ t c', exec (.engineReset (.matrix cl)) s = .next t ∧ t.cluster? cl = some c' ∧
    c'.pass = none ∧ c'.draining = none ∧ c'.sets = c.sets ∧ c'.copies = c.copies ∧ t.castQueues = s.castQueues ∧ t.groups.length = s.groups.length ∧
    (∀ g, s.group? g.id = some g → (∀ p ∈ c.passes, ∀ x ∈ p.sets, x.grp ≠ g.id) → (∀ k ∈ c.factor, k.grp ≠ g.id) →
      ∃ g', t.group? g.id = some g' ∧ g'.outstanding = g.outstanding ∧ g'.psnOps = g.psnOps ∧ g'.acc = g.acc ∧ g'.v = g.v ∧ g'.g = g.g) ∧
    (∀ p x g, c.passes = [p] → p.sets = [x] → c.factor = [] → s.group? x.grp = some g → ∃ g', t.group? x.grp = some g' ∧
      g'.outstanding = g.outstanding - x.quarters.length ∧ g'.psnOps = g.psnOps + x.quarters.length)) ∧
  (∀ s : State, exec .correctableError s = .next { s with station := { s.station with correctable := s.station.correctable + 1 } })

/-- Links and their ports (R283, R290, R253): the 64th replay in a meter window resets a port that is up; a reset retrains it, and the third
in one second marks it down until the host enables it, which forgets the earlier resets (the model's reading, log 44); a retrained port is
up; a flit of kind 5 to 255 on a Dranov port is dropped and counted; another
member's later target stands, and an earlier one is only the target of the boundary it was issued before; the members of a spanning context
follow the stations (the model's form of it, log 72).

Time (R188, R290, R291): a module behind its master steps forward to the master's time as it was sent with the delay of the path, one ahead
goes on from its own time (at every time flit, where R291 says so of the resynchronisation: log 55); the master sends its time; without the master TIMELOST is set until the path returns. GTIME never decreases.

Completes: LINK_CRC_ERROR, PORT_RETRAIN_DONE, PORT_ENABLE, LINK_RESET, TIME_FLIT, TIME_MASTER_LOST, TIME_RESYNC, STATION_CONTROL_FLIT,
INVALID_FLIT (the conclusion is that exec answers this next state). -/
def Obligations.LinksAndTime : Prop :=
  ((∀ (s : State) port p, s.ports[port]? = some p →
     (p.state = .up → p.window = s.now / 2 ^ 20 →
       (p.replays + 1 < 64 → ∃ t, exec (.linkCrcError port) s = .next t ∧ t.ports[port]? = some { p with replays := p.replays + 1 }) ∧
       (63 ≤ p.replays → p.resets = [] → ∃ t, exec (.linkCrcError port) s = .next t ∧
         t.ports[port]? = some { p with state := .retraining, replays := 0, resets := [s.now] })) ∧
     (p.state ≠ .up → exec (.linkCrcError port) s = .next s) ∧
     (p.state ≠ .down → port < 19 → ∃ t, exec (.linkReset port) s = .next t ∧
       ∃ p', t.ports[port]? = some p' ∧ p'.replays = 0 ∧
         p'.state = if 3 ≤ ((p.resets.filter fun x => decide (s.now < x + 1000000000)).length + 1) then .down else .retraining) ∧
     (p.state = .down → ∃ t, exec (.portEnable port) s = .next t ∧ t.ports[port]? = some { p with state := .up, resets := [] }) ∧
     (p.state = .retraining → ∃ t, exec (.portRetrainDone port) s = .next t ∧ t.ports[port]? = some { p with state := .up }) ∧
     (p.state = .up → port < 18 → ∀ kind, 5 ≤ kind → kind < 256 → ∃ t, exec (.invalidFlit port kind) s = .next t ∧
       t.ports[port]? = some { p with dropped := p.dropped + 1 } ∧ t.mem = s.mem)) ∧
   (∀ (s : State) port cid m at_ tgt c, s.dranovUp port = true → s.ctx? cid = some c → m ∈ c.members →
     (c.tgtStamp.1 < at_ → ∃ t c', exec (.stationControlFlit port (.target cid m at_ tgt)) s = .next t ∧ t.ctx? cid = some c' ∧
       c'.loop.tgt = tgt ∧ c'.tgtStamp.1 = at_) ∧
     (at_ < c.tgtStamp.1 → ∃ t c', exec (.stationControlFlit port (.target cid m at_ tgt)) s = .next t ∧ t.ctx? cid = some c' ∧
       c'.loop.tgt = c.loop.tgt ∧ c'.tgtStamp = c.tgtStamp ∧
       ∀ x st, c.loop.tgtOld = some (x, st) → at_ < c.loop.nextBoundary → st.1 < at_ → c'.loop.tgtOld = some (tgt, at_, m * 2 ^ 20))) ∧
   (∀ (s : State) port cid ms c, s.dranovUp port = true → s.ctx? cid = some c → c.members ≠ [] → s.moduleNo ∈ ms →
     ∃ t, exec (.stationControlFlit port (.members cid ms)) s = .next t ∧ t.ctx? cid = some { c with members := dedup ms })) ∧
  ((∀ (s : State) g d, s.linkUp = true → s.follows = true → s.timeLost = false → s.gTick ≤ s.ticks →
     ∃ t, exec (.timeFlit ⟨g, d⟩) s = .next t ∧ t.now = max s.now (g + d) ∧ t.mem = s.mem ∧ t.groups = s.groups) ∧
   (∀ (s : State) g d, s.linkUp = true → s.timeMaster = some s.moduleNo →
     exec (.timeFlit ⟨g, d⟩) s = .next { s with outbox := s.outbox ++ [.timeFlit s.now] }) ∧
   (∀ s : State, s.follows = true → s.gTick ≤ s.ticks → ∃ t, exec .timeMasterLost s = .next t ∧ t.timeLost = true ∧ t.now = s.now ∧
     t.mem = s.mem ∧ t.groups = s.groups) ∧
   (∀ (s : State) g d, s.linkUp = true → s.follows = true → s.timeLost = true → s.gTick ≤ s.ticks →
     ∃ t, exec (.timeResync ⟨g, d⟩) s = .next t ∧ t.now = max s.now (g + d) ∧ t.timeLost = false) ∧
   (∀ s : State, s.follows = false → exec .timeMasterLost s = .next s) ∧
   ∀ (s : State) dt, s.gTick ≤ s.ticks → s.now ≤ (s.pass dt).now)

/-- The mailbox (R293, R295, R298): an image goes into the slot that is not running, and in RECOVERY into either, where a valid one boots;
outside RECOVERY, with its identity key fused, the security engine answers measurements, challenges and key exchanges under its signature; in
RECOVERY it answers none of them, and RETURNED answers GET_VERSION alone (so does MANUFACTURE, whose key is not fused yet: the model's
reading, log 76).

The firmware (R281, R293, R296): an update to a valid image starts it under a watchdog of 10 ms with the queues quiesced, its heartbeat
lets it take over, the watchdog brings the old image back with what the handover record holds, which is the two keys (the model's form of it,
log 75); an invalid image changes no slot; a fault of
the core restarts the running image from the record, and stops no watchdog. A host command that needs the firmware waits while no image is
in charge (R281, R296). The anti-rollback counter rises by a signed command alone.

Completes: STATION_CORE_FAULT, DOE_IMAGE_LOAD, GET_MEASUREMENTS, CHALLENGE, KEY_EXCHANGE, FINISH, GET_VERSION, FIRMWARE_UPDATE,
FIRMWARE_HEARTBEAT, FIRMWARE_WATCHDOG_EXPIRY, ANTI_ROLLBACK_UPDATE, STATION_RESTART_COMPLETE (the conclusion is that exec answers this
next state). -/
def Obligations.StationServesAndUpdates : Prop :=
  (∀ s : State,
     (∀ b img, Served s → s.station.runB = !b → ∃ t, exec (.doeImageLoad b img) s = .next t ∧
       t.station.image b = some img ∧ t.station.image (!b) = s.station.image (!b) ∧
       t.outbox = s.outbox ++ [.doe 0 [if imageOk img s.station.rollback then 1 else 0]]) ∧
     (∀ img, Served s → exec (.doeImageLoad s.station.runB img) s = .next s) ∧
     (∀ b img, s.station.mode ≠ .recovery → s.station.inCharge = false →
       exec (.doeImageLoad b img) s = .next { s with held := s.held ++ [.doeImageLoad b img] }) ∧
     (∀ b img, s.station.mode = .recovery → ∃ t, exec (.doeImageLoad b img) s = .next t ∧ t.station.image b = some img ∧
       (imageOk img s.station.rollback = false → t.station.mode = .recovery ∧ t.contexts = s.contexts) ∧
       (imageOk img s.station.rollback = true → t.station.mode ≠ .recovery ∧ t.contexts = [])) ∧
     (s.station.mode ≠ .recovery → (s.station.life = .provisioned ∨ s.station.life = .deployed) →
       exec .getMeasurements s = .next (s.answer 1 (s.measurements ++ Config.deviceSign s.measurements)) ∧
       (∀ n, exec (.challenge n) s = .next (s.answer 2 ((s.measurements ++ n) ++ Config.deviceSign (s.measurements ++ n)))) ∧
       (∀ r, ∃ t, exec (.keyExchange r) s = .next t ∧ t.station.kex = some (Config.keyExchange r)) ∧
       ∀ r k, s.station.kex = some k → ∃ t, exec (.finish r) s = .next t ∧ t.station.ide = some k ∧ t.station.kex = none) ∧
     (s.station.mode ≠ .recovery → exec .getVersion s = .next (s.answer 5 [])) ∧
     (s.station.mode = .recovery ∨ s.station.life = .returned ∨ s.station.life = .manufacture → exec .getMeasurements s = .next s ∧ (∀ n, exec (.challenge n) s = .next s) ∧
       (∀ r, exec (.keyExchange r) s = .next s) ∧ ∀ r, exec (.finish r) s = .next s)) ∧
  ((∀ s : State, Served s →
     (∀ i, s.station.image (!s.station.runB) = some i → ∃ t, exec .firmwareUpdate s = .next t ∧ t.groups = s.groups ∧
       t.station.rollback = s.station.rollback ∧
       t.station.runB = (if imageOk i s.station.rollback then !s.station.runB else s.station.runB) ∧
       t.station.mode = (if imageOk i s.station.rollback then .updating (s.now + 10000000) else s.station.mode) ∧
       t.station.cores = (if imageOk i s.station.rollback then List.replicate 4 ⟨true, true, some (!s.station.runB)⟩ else s.station.cores) ∧
       (imageOk i s.station.rollback = true → t.station.handover = ⟨1, s.station.ide, s.station.kex⟩) ∧
       ∀ vf q x, QueueIs s vf q x → x.state = .running →
         QueueIs t vf q { x with state := if imageOk i s.station.rollback then .quiesced else .running }) ∧
     (s.station.image (!s.station.runB) = none → exec .firmwareUpdate s = .next (s.answer 6 [])) ∧
     (∀ v sig, ∃ t, exec (.antiRollbackUpdate v sig) s = .next t ∧
       t.station = if Config.signatureOk 0 (leBytes 8 v) sig = true ∧ s.station.rollback ≤ v then { s.station with rollback := v } else s.station) ∧
     exec .stationCoreFault s = .next { s with station := { s.station with
       mode := .restarting s.now none, cores := List.replicate 4 ⟨true, true, none⟩ } }) ∧
   (∀ s : State, s.station.inCharge = false → s.station.mode ≠ .recovery →
     (∀ r, exec (.contextCreate r) s = .next { s with held := s.held ++ [.contextCreate r] }) ∧
     (∀ c, exec (.contextDestroy c) s = .next { s with held := s.held ++ [.contextDestroy c] }) ∧
     (∀ c p, exec (.contextRestore c p) s = .next { s with held := s.held ++ [.contextRestore c p] }) ∧
     (∀ r, exec (.swapOut r) s = .next { s with held := s.held ++ [.swapOut r] }) ∧
     ∀ vf c lo hi, exec (.shootdown vf c lo hi) s = .next { s with held := s.held ++ [.shootdown vf c lo hi] }) ∧
   (∀ (s : State) due, s.station.mode = .updating due →
     (s.now ≤ due → ∃ t, exec .firmwareHeartbeat s = .next t ∧ t.station = { s.station with mode := s.station.settled } ∧
       (∀ vf q x, QueueIs s vf q x → x.state = .quiesced → QueueIs t vf q { x with state := .running }) ∧ t.groups = s.groups) ∧
     (due ≤ s.now → ∃ t, exec .firmwareWatchdogExpiry s = .next t ∧ t.station.runB = !s.station.runB ∧
       t.station.mode = s.station.settled ∧ t.station.cores = List.replicate 4 ⟨true, true, some (!s.station.runB)⟩ ∧
       t.station.ide = s.station.handover.ide ∧ t.station.kex = s.station.handover.kex ∧
       t.groups = s.groups) ∧
     exec .stationCoreFault s = .next { s with station := { s.station with
       mode := .restarting s.now (some due), cores := List.replicate 4 ⟨true, true, none⟩ } }) ∧
   (∀ (s : State) t0 w, s.station.mode = .restarting t0 w → ∃ t, exec .stationRestartComplete s = .next t ∧
     t.station = { s.station with
      ide := s.station.handover.ide, kex := s.station.handover.kex, cores := List.replicate 4 ⟨true, true, some s.station.runB⟩, mode := (match w with
       | none => s.station.settled
       | some due => .updating due) } ∧ t.groups = s.groups))

/-- R284 to R286, R298: a device reset and a life-cycle move leave no context, no group and zero in every byte of the module, and keep what lies
beyond it; a partition's reset discards its contexts, wipes its stacks and keeps DUTY and CEIL (the model's reading, log 40); a function's reset discards its contexts, disables its queues,
sets SCOPE.MAX to 5 and wipes its windows.

Completes: DEVICE_RESET, PARTITION_RESET, VF_RESET, LIFECYCLE_ADVANCE (the conclusion is that exec answers this next state). -/
def Obligations.ResetsWipeTheirScope : Prop :=
  (∀ (s : State) b, ∃ t, exec (.deviceReset b) s = .next t ∧ t.contexts = [] ∧ t.groups = [] ∧ t.blocks = [] ∧ t.launches = [] ∧
    t.tuples = [] ∧ t.manifests = [] ∧ (∀ a, a < 2 ^ 40 → t.mem.byte a = 0) ∧ (∀ a, 2 ^ 40 ≤ a → t.mem.byte a = s.mem.byte a) ∧
    (t.station.mode = .running → t.parts = (b.getD s.configBlock).latched.map Part.reset) ∧
    (t.station.mode ≠ .running → t.parts = [])) ∧
  (∀ (s : State) sig, s.station.inCharge = false → s.station.mode ≠ .recovery →
    exec (.lifecycleAdvance sig) s = .next { s with held := s.held ++ [.lifecycleAdvance sig] }) ∧
  (∀ (s : State) sig l, Served s → s.station.life.next = some l →
    let ok := Config.signatureOk 2 [l.code] sig
    ∃ t, exec (.lifecycleAdvance sig) s = .next t ∧ t.station.lifeNext = (if ok then some l else s.station.lifeNext) ∧
      t.contexts = (if ok then [] else s.contexts) ∧ t.groups = (if ok then [] else s.groups) ∧
      ∀ a, t.mem.byte a = if ok = true ∧ a < 2 ^ 40 then 0 else s.mem.byte a) ∧
  (∀ (s : State) pid p, Served s → s.part? pid = some p → ∃ t p', exec (.partitionReset pid) s = .next t ∧
    (∀ cid c, s.ctx? cid = some c → c.part = pid → t.ctx? cid = none) ∧
    (∀ a, a < 2 ^ 40 → p.cfg.units.contains (a / 2 ^ 36) = true → t.mem.byte a = 0) ∧ (∀ m ∈ t.manifests, m.part ≠ pid) ∧
    (∀ u ∈ t.tuples, u.part ≠ pid) ∧ t.part? pid = some p' ∧ p'.cfg = p.cfg ∧ p'.duty = p.duty ∧ p'.ceil = p.ceil ∧ p'.idle = 0) ∧
  (∀ (s : State) vf v, s.vf? vf = some v → ∃ t v', exec (.vfReset vf) s = .next t ∧ t.vf? vf = some v' ∧ v'.scopeMax = 5 ∧
    (∀ x ∈ v'.queues, x.state = .disabled ∧ x.enable = false) ∧ (∀ cid c, s.ctx? cid = some c → c.vf = vf → t.ctx? cid = none) ∧
    (∀ u ∈ t.tuples, u.vf ≠ vf) ∧
    ((∀ x ∈ s.contexts, x.2.rowTable = none) → (∀ a, s.inWindows v a = true → t.mem.byte a = 0) ∧ (∀ m ∈ t.manifests, m.vf ≠ vf) ∧
      Output.vfResetDone vf ∈ t.outbox))

/-- R150, R189, R195, R218, R220, R225, R257, R262, R263: what device reset leaves in the registers that the spec gives a reset value: in the
model's State.reset, in a partition, a function, a queue, a bank, and a starting group.

The memory of State.reset has its canonical form, and so has that of the state in which a word is placed for execution (the model's own
boot, log 4). -/
def Obligations.ResetValues : Prop :=
  ((∀ i b, State.reset.clusters.get? i = some b → ∀ x ∈ b.banks, x.mode = .cache ∧ x.owner = none) ∧
   (∀ i v, i < 512 → State.reset.vf? i = some v → v.scopeMax = 5 ∧ ∀ q ∈ v.queues, q = SubQueue.reset) ∧
   (∀ c, (Part.reset c).lease = 256 ∧ (Part.reset c).eff = c.allot ∧ (Part.reset c).duty = 64 ∧ (Part.reset c).ceil = 0 ∧
     (Part.reset c).idle = 0 ∧ (Part.reset c).fbHead = 0 ∧ (Part.reset c).fbTail = 0 ∧ (Part.reset c).fbOverflow = false ∧
     (Part.reset c).fbStale = false ∧ (Part.reset c).meter = 0 ∧ (Part.reset c).fbHeld = [] ∧ (Part.reset c).cfg = c) ∧
   SubQueue.reset.addr = 0 ∧ SubQueue.reset.part = 0 ∧ SubQueue.reset.size = 0 ∧ SubQueue.reset.cause = 0 ∧ SubQueue.reset.bmFault = false ∧
   SubQueue.reset.rejSeq = 0 ∧ SubQueue.reset.reason = 0 ∧ SubQueue.reset.enable = false ∧ SubQueue.reset.state = .disabled ∧ SubQueue.reset.wr = 0 ∧ SubQueue.reset.rd = 0 ∧
   SubQueue.reset.seq = 0 ∧ SubQueue.reset.done = 0 ∧ State.reset.pwrCap = 3600 ∧ State.reset.contexts = [] ∧ State.reset.groups = [] ∧
   ∀ id c v l b j (z : Bool) cl k sl nv ng cap r h e now,
     let g := Group.fresh id c v l b j z cl k sl nv ng cap r h e now
     (∀ x i, g.vreg x i = 0) ∧ (∀ x, g.greg x = 0) ∧ (∀ n, (g.addr n).valid = false) ∧ (∀ n, (g.window n).valid = false) ∧
       (∀ n, g.queue n = none) ∧ g.stack = [] ∧ g.trap = TrapRegs.reset ∧ g.exited = 0) ∧
  (MemOk State.reset ∧ ∀ n w, MemOk (State.reset.withFetchWord n w))

/-- Only MEMORY_RESPONSE, TUPLE_RESULT_DELIVERY and BANKCFG_DONE among the events write a register of a group: every other one leaves the vector
and group registers of each group that is still there (derived from the entries of the events; the words write what their own entries say). That
a pass leaves the registers until MWAIT writes the accumulators back is the model's form of R123 (log 30). -/
def Obligations.OnlyThreeEventsWriteRegisters : Prop :=
  ∀ (i : Instr) (s t : State), i.isWord = false → (∀ id, i ≠ .memoryResponse id) → (∀ id, i ≠ .tupleResultDelivery id) →
    (∀ g p, i ≠ .bankcfgDone g p) → (s.groups.map fun g => g.id).Nodup → exec i s = .next t →
    ∀ gid g g', s.group? gid = some g → t.group? gid = some g' → g'.v = g.v ∧ g'.g = g.g

/-- Memory keeps its canonical form through every step: addresses rise strictly and no listed byte is what an unlisted address reads as. -/
def Obligations.StepKeepsMemoryCanonical : Prop :=
  ∀ s t : State, MemOk s → step s = .next t → MemOk t

end
end

