-- ==== Sys2Proof/Laws/State.lean ====
section
/-!
SUPPORT. One lemma per field of State and per named update of it: what the update leaves as it was. The same for the
updates of a group.
-/
namespace Sys2Proof.Machine

variable (s : State)

/-! ## setGroup -/

@[simp] theorem State.setGroup_ticks (g : Group) : (s.setGroup g).ticks = s.ticks := rfl
@[simp] theorem State.setGroup_moduleNo (g : Group) : (s.setGroup g).moduleNo = s.moduleNo := rfl
@[simp] theorem State.setGroup_timeMaster (g : Group) : (s.setGroup g).timeMaster = s.timeMaster := rfl
@[simp] theorem State.setGroup_timeLost (g : Group) : (s.setGroup g).timeLost = s.timeLost := rfl
@[simp] theorem State.setGroup_gBase (g : Group) : (s.setGroup g).gBase = s.gBase := rfl
@[simp] theorem State.setGroup_gTick (g : Group) : (s.setGroup g).gTick = s.gTick := rfl
@[simp] theorem State.setGroup_gLag (g : Group) : (s.setGroup g).gLag = s.gLag := rfl
@[simp] theorem State.setGroup_turns (g : Group) : (s.setGroup g).turns = s.turns := rfl
@[simp] theorem State.setGroup_cur (g : Group) : (s.setGroup g).cur = s.cur := rfl
@[simp] theorem State.setGroup_nextId (g : Group) : (s.setGroup g).nextId = s.nextId := rfl
@[simp] theorem State.setGroup_nextCore (g : Group) : (s.setGroup g).nextCore = s.nextCore := rfl
@[simp] theorem State.setGroup_configBlock (g : Group) : (s.setGroup g).configBlock = s.configBlock := rfl
@[simp] theorem State.setGroup_parts (g : Group) : (s.setGroup g).parts = s.parts := rfl
@[simp] theorem State.setGroup_vfs (g : Group) : (s.setGroup g).vfs = s.vfs := rfl
@[simp] theorem State.setGroup_contexts (g : Group) : (s.setGroup g).contexts = s.contexts := rfl
@[simp] theorem State.setGroup_launches (g : Group) : (s.setGroup g).launches = s.launches := rfl
@[simp] theorem State.setGroup_blocks (g : Group) : (s.setGroup g).blocks = s.blocks := rfl
@[simp] theorem State.setGroup_clusters (g : Group) : (s.setGroup g).clusters = s.clusters := rfl
@[simp] theorem State.setGroup_mem (g : Group) : (s.setGroup g).mem = s.mem := rfl
@[simp] theorem State.setGroup_poison (g : Group) : (s.setGroup g).poison = s.poison := rfl
@[simp] theorem State.setGroup_homeLines (g : Group) : (s.setGroup g).homeLines = s.homeLines := rfl
@[simp] theorem State.setGroup_pending (g : Group) : (s.setGroup g).pending = s.pending := rfl
@[simp] theorem State.setGroup_flights (g : Group) : (s.setGroup g).flights = s.flights := rfl
@[simp] theorem State.setGroup_l2 (g : Group) : (s.setGroup g).l2 = s.l2 := rfl
@[simp] theorem State.setGroup_wayFills (g : Group) : (s.setGroup g).wayFills = s.wayFills := rfl
@[simp] theorem State.setGroup_manifests (g : Group) : (s.setGroup g).manifests = s.manifests := rfl
@[simp] theorem State.setGroup_fetches (g : Group) : (s.setGroup g).fetches = s.fetches := rfl
@[simp] theorem State.setGroup_replays (g : Group) : (s.setGroup g).replays = s.replays := rfl
@[simp] theorem State.setGroup_swaps (g : Group) : (s.setGroup g).swaps = s.swaps := rfl
@[simp] theorem State.setGroup_tuples (g : Group) : (s.setGroup g).tuples = s.tuples := rfl
@[simp] theorem State.setGroup_tupleReqs (g : Group) : (s.setGroup g).tupleReqs = s.tupleReqs := rfl
@[simp] theorem State.setGroup_depositSeq (g : Group) : (s.setGroup g).depositSeq = s.depositSeq := rfl
@[simp] theorem State.setGroup_tupleOrder (g : Group) : (s.setGroup g).tupleOrder = s.tupleOrder := rfl
@[simp] theorem State.setGroup_tlb (g : Group) : (s.setGroup g).tlb = s.tlb := rfl
@[simp] theorem State.setGroup_shootdowns (g : Group) : (s.setGroup g).shootdowns = s.shootdowns := rfl
@[simp] theorem State.setGroup_rowResets (g : Group) : (s.setGroup g).rowResets = s.rowResets := rfl
@[simp] theorem State.setGroup_peerGrants (g : Group) : (s.setGroup g).peerGrants = s.peerGrants := rfl
@[simp] theorem State.setGroup_peerLeases (g : Group) : (s.setGroup g).peerLeases = s.peerLeases := rfl
@[simp] theorem State.setGroup_castQueues (g : Group) : (s.setGroup g).castQueues = s.castQueues := rfl
@[simp] theorem State.setGroup_ports (g : Group) : (s.setGroup g).ports = s.ports := rfl
@[simp] theorem State.setGroup_routes (g : Group) : (s.setGroup g).routes = s.routes := rfl
@[simp] theorem State.setGroup_station (g : Group) : (s.setGroup g).station = s.station := rfl
@[simp] theorem State.setGroup_pwrCap (g : Group) : (s.setGroup g).pwrCap = s.pwrCap := rfl
@[simp] theorem State.setGroup_pwrIdle (g : Group) : (s.setGroup g).pwrIdle = s.pwrIdle := rfl
@[simp] theorem State.setGroup_pwrUncore (g : Group) : (s.setGroup g).pwrUncore = s.pwrUncore := rfl
@[simp] theorem State.setGroup_capBelowFloors (g : Group) : (s.setGroup g).capBelowFloors = s.capBelowFloors := rfl
@[simp] theorem State.setGroup_capUnreachable (g : Group) : (s.setGroup g).capUnreachable = s.capUnreachable := rfl
@[simp] theorem State.setGroup_nextMeter (g : Group) : (s.setGroup g).nextMeter = s.nextMeter := rfl
@[simp] theorem State.setGroup_nextFrame (g : Group) : (s.setGroup g).nextFrame = s.nextFrame := rfl
@[simp] theorem State.setGroup_lastRead (g : Group) : (s.setGroup g).lastRead = s.lastRead := rfl
@[simp] theorem State.setGroup_outbox (g : Group) : (s.setGroup g).outbox = s.outbox := rfl
@[simp] theorem State.setGroup_held (g : Group) : (s.setGroup g).held = s.held := rfl

/-! ## modGroup -/

@[simp] theorem State.modGroup_ticks (i : Nat) (f : Group → Group) : (s.modGroup i f).ticks = s.ticks := rfl
@[simp] theorem State.modGroup_moduleNo (i : Nat) (f : Group → Group) : (s.modGroup i f).moduleNo = s.moduleNo := rfl
@[simp] theorem State.modGroup_timeMaster (i : Nat) (f : Group → Group) : (s.modGroup i f).timeMaster = s.timeMaster := rfl
@[simp] theorem State.modGroup_timeLost (i : Nat) (f : Group → Group) : (s.modGroup i f).timeLost = s.timeLost := rfl
@[simp] theorem State.modGroup_gBase (i : Nat) (f : Group → Group) : (s.modGroup i f).gBase = s.gBase := rfl
@[simp] theorem State.modGroup_gTick (i : Nat) (f : Group → Group) : (s.modGroup i f).gTick = s.gTick := rfl
@[simp] theorem State.modGroup_gLag (i : Nat) (f : Group → Group) : (s.modGroup i f).gLag = s.gLag := rfl
@[simp] theorem State.modGroup_turns (i : Nat) (f : Group → Group) : (s.modGroup i f).turns = s.turns := rfl
@[simp] theorem State.modGroup_cur (i : Nat) (f : Group → Group) : (s.modGroup i f).cur = s.cur := rfl
@[simp] theorem State.modGroup_nextId (i : Nat) (f : Group → Group) : (s.modGroup i f).nextId = s.nextId := rfl
@[simp] theorem State.modGroup_nextCore (i : Nat) (f : Group → Group) : (s.modGroup i f).nextCore = s.nextCore := rfl
@[simp] theorem State.modGroup_configBlock (i : Nat) (f : Group → Group) : (s.modGroup i f).configBlock = s.configBlock := rfl
@[simp] theorem State.modGroup_parts (i : Nat) (f : Group → Group) : (s.modGroup i f).parts = s.parts := rfl
@[simp] theorem State.modGroup_vfs (i : Nat) (f : Group → Group) : (s.modGroup i f).vfs = s.vfs := rfl
@[simp] theorem State.modGroup_contexts (i : Nat) (f : Group → Group) : (s.modGroup i f).contexts = s.contexts := rfl
@[simp] theorem State.modGroup_launches (i : Nat) (f : Group → Group) : (s.modGroup i f).launches = s.launches := rfl
@[simp] theorem State.modGroup_blocks (i : Nat) (f : Group → Group) : (s.modGroup i f).blocks = s.blocks := rfl
@[simp] theorem State.modGroup_clusters (i : Nat) (f : Group → Group) : (s.modGroup i f).clusters = s.clusters := rfl
@[simp] theorem State.modGroup_mem (i : Nat) (f : Group → Group) : (s.modGroup i f).mem = s.mem := rfl
@[simp] theorem State.modGroup_poison (i : Nat) (f : Group → Group) : (s.modGroup i f).poison = s.poison := rfl
@[simp] theorem State.modGroup_homeLines (i : Nat) (f : Group → Group) : (s.modGroup i f).homeLines = s.homeLines := rfl
@[simp] theorem State.modGroup_pending (i : Nat) (f : Group → Group) : (s.modGroup i f).pending = s.pending := rfl
@[simp] theorem State.modGroup_flights (i : Nat) (f : Group → Group) : (s.modGroup i f).flights = s.flights := rfl
@[simp] theorem State.modGroup_l2 (i : Nat) (f : Group → Group) : (s.modGroup i f).l2 = s.l2 := rfl
@[simp] theorem State.modGroup_wayFills (i : Nat) (f : Group → Group) : (s.modGroup i f).wayFills = s.wayFills := rfl
@[simp] theorem State.modGroup_manifests (i : Nat) (f : Group → Group) : (s.modGroup i f).manifests = s.manifests := rfl
@[simp] theorem State.modGroup_fetches (i : Nat) (f : Group → Group) : (s.modGroup i f).fetches = s.fetches := rfl
@[simp] theorem State.modGroup_replays (i : Nat) (f : Group → Group) : (s.modGroup i f).replays = s.replays := rfl
@[simp] theorem State.modGroup_swaps (i : Nat) (f : Group → Group) : (s.modGroup i f).swaps = s.swaps := rfl
@[simp] theorem State.modGroup_tuples (i : Nat) (f : Group → Group) : (s.modGroup i f).tuples = s.tuples := rfl
@[simp] theorem State.modGroup_tupleReqs (i : Nat) (f : Group → Group) : (s.modGroup i f).tupleReqs = s.tupleReqs := rfl
@[simp] theorem State.modGroup_depositSeq (i : Nat) (f : Group → Group) : (s.modGroup i f).depositSeq = s.depositSeq := rfl
@[simp] theorem State.modGroup_tupleOrder (i : Nat) (f : Group → Group) : (s.modGroup i f).tupleOrder = s.tupleOrder := rfl
@[simp] theorem State.modGroup_tlb (i : Nat) (f : Group → Group) : (s.modGroup i f).tlb = s.tlb := rfl
@[simp] theorem State.modGroup_shootdowns (i : Nat) (f : Group → Group) : (s.modGroup i f).shootdowns = s.shootdowns := rfl
@[simp] theorem State.modGroup_rowResets (i : Nat) (f : Group → Group) : (s.modGroup i f).rowResets = s.rowResets := rfl
@[simp] theorem State.modGroup_peerGrants (i : Nat) (f : Group → Group) : (s.modGroup i f).peerGrants = s.peerGrants := rfl
@[simp] theorem State.modGroup_peerLeases (i : Nat) (f : Group → Group) : (s.modGroup i f).peerLeases = s.peerLeases := rfl
@[simp] theorem State.modGroup_castQueues (i : Nat) (f : Group → Group) : (s.modGroup i f).castQueues = s.castQueues := rfl
@[simp] theorem State.modGroup_ports (i : Nat) (f : Group → Group) : (s.modGroup i f).ports = s.ports := rfl
@[simp] theorem State.modGroup_routes (i : Nat) (f : Group → Group) : (s.modGroup i f).routes = s.routes := rfl
@[simp] theorem State.modGroup_station (i : Nat) (f : Group → Group) : (s.modGroup i f).station = s.station := rfl
@[simp] theorem State.modGroup_pwrCap (i : Nat) (f : Group → Group) : (s.modGroup i f).pwrCap = s.pwrCap := rfl
@[simp] theorem State.modGroup_pwrIdle (i : Nat) (f : Group → Group) : (s.modGroup i f).pwrIdle = s.pwrIdle := rfl
@[simp] theorem State.modGroup_pwrUncore (i : Nat) (f : Group → Group) : (s.modGroup i f).pwrUncore = s.pwrUncore := rfl
@[simp] theorem State.modGroup_capBelowFloors (i : Nat) (f : Group → Group) : (s.modGroup i f).capBelowFloors = s.capBelowFloors := rfl
@[simp] theorem State.modGroup_capUnreachable (i : Nat) (f : Group → Group) : (s.modGroup i f).capUnreachable = s.capUnreachable := rfl
@[simp] theorem State.modGroup_nextMeter (i : Nat) (f : Group → Group) : (s.modGroup i f).nextMeter = s.nextMeter := rfl
@[simp] theorem State.modGroup_nextFrame (i : Nat) (f : Group → Group) : (s.modGroup i f).nextFrame = s.nextFrame := rfl
@[simp] theorem State.modGroup_lastRead (i : Nat) (f : Group → Group) : (s.modGroup i f).lastRead = s.lastRead := rfl
@[simp] theorem State.modGroup_outbox (i : Nat) (f : Group → Group) : (s.modGroup i f).outbox = s.outbox := rfl
@[simp] theorem State.modGroup_held (i : Nat) (f : Group → Group) : (s.modGroup i f).held = s.held := rfl

/-! ## modBlock -/

@[simp] theorem State.modBlock_ticks (i : Nat) (f : Block → Block) : (s.modBlock i f).ticks = s.ticks := rfl
@[simp] theorem State.modBlock_moduleNo (i : Nat) (f : Block → Block) : (s.modBlock i f).moduleNo = s.moduleNo := rfl
@[simp] theorem State.modBlock_timeMaster (i : Nat) (f : Block → Block) : (s.modBlock i f).timeMaster = s.timeMaster := rfl
@[simp] theorem State.modBlock_timeLost (i : Nat) (f : Block → Block) : (s.modBlock i f).timeLost = s.timeLost := rfl
@[simp] theorem State.modBlock_gBase (i : Nat) (f : Block → Block) : (s.modBlock i f).gBase = s.gBase := rfl
@[simp] theorem State.modBlock_gTick (i : Nat) (f : Block → Block) : (s.modBlock i f).gTick = s.gTick := rfl
@[simp] theorem State.modBlock_gLag (i : Nat) (f : Block → Block) : (s.modBlock i f).gLag = s.gLag := rfl
@[simp] theorem State.modBlock_turns (i : Nat) (f : Block → Block) : (s.modBlock i f).turns = s.turns := rfl
@[simp] theorem State.modBlock_cur (i : Nat) (f : Block → Block) : (s.modBlock i f).cur = s.cur := rfl
@[simp] theorem State.modBlock_nextId (i : Nat) (f : Block → Block) : (s.modBlock i f).nextId = s.nextId := rfl
@[simp] theorem State.modBlock_nextCore (i : Nat) (f : Block → Block) : (s.modBlock i f).nextCore = s.nextCore := rfl
@[simp] theorem State.modBlock_configBlock (i : Nat) (f : Block → Block) : (s.modBlock i f).configBlock = s.configBlock := rfl
@[simp] theorem State.modBlock_parts (i : Nat) (f : Block → Block) : (s.modBlock i f).parts = s.parts := rfl
@[simp] theorem State.modBlock_vfs (i : Nat) (f : Block → Block) : (s.modBlock i f).vfs = s.vfs := rfl
@[simp] theorem State.modBlock_contexts (i : Nat) (f : Block → Block) : (s.modBlock i f).contexts = s.contexts := rfl
@[simp] theorem State.modBlock_launches (i : Nat) (f : Block → Block) : (s.modBlock i f).launches = s.launches := rfl
@[simp] theorem State.modBlock_groups (i : Nat) (f : Block → Block) : (s.modBlock i f).groups = s.groups := rfl
@[simp] theorem State.modBlock_clusters (i : Nat) (f : Block → Block) : (s.modBlock i f).clusters = s.clusters := rfl
@[simp] theorem State.modBlock_mem (i : Nat) (f : Block → Block) : (s.modBlock i f).mem = s.mem := rfl
@[simp] theorem State.modBlock_poison (i : Nat) (f : Block → Block) : (s.modBlock i f).poison = s.poison := rfl
@[simp] theorem State.modBlock_homeLines (i : Nat) (f : Block → Block) : (s.modBlock i f).homeLines = s.homeLines := rfl
@[simp] theorem State.modBlock_pending (i : Nat) (f : Block → Block) : (s.modBlock i f).pending = s.pending := rfl
@[simp] theorem State.modBlock_flights (i : Nat) (f : Block → Block) : (s.modBlock i f).flights = s.flights := rfl
@[simp] theorem State.modBlock_l2 (i : Nat) (f : Block → Block) : (s.modBlock i f).l2 = s.l2 := rfl
@[simp] theorem State.modBlock_wayFills (i : Nat) (f : Block → Block) : (s.modBlock i f).wayFills = s.wayFills := rfl
@[simp] theorem State.modBlock_manifests (i : Nat) (f : Block → Block) : (s.modBlock i f).manifests = s.manifests := rfl
@[simp] theorem State.modBlock_fetches (i : Nat) (f : Block → Block) : (s.modBlock i f).fetches = s.fetches := rfl
@[simp] theorem State.modBlock_replays (i : Nat) (f : Block → Block) : (s.modBlock i f).replays = s.replays := rfl
@[simp] theorem State.modBlock_swaps (i : Nat) (f : Block → Block) : (s.modBlock i f).swaps = s.swaps := rfl
@[simp] theorem State.modBlock_tuples (i : Nat) (f : Block → Block) : (s.modBlock i f).tuples = s.tuples := rfl
@[simp] theorem State.modBlock_tupleReqs (i : Nat) (f : Block → Block) : (s.modBlock i f).tupleReqs = s.tupleReqs := rfl
@[simp] theorem State.modBlock_depositSeq (i : Nat) (f : Block → Block) : (s.modBlock i f).depositSeq = s.depositSeq := rfl
@[simp] theorem State.modBlock_tupleOrder (i : Nat) (f : Block → Block) : (s.modBlock i f).tupleOrder = s.tupleOrder := rfl
@[simp] theorem State.modBlock_tlb (i : Nat) (f : Block → Block) : (s.modBlock i f).tlb = s.tlb := rfl
@[simp] theorem State.modBlock_shootdowns (i : Nat) (f : Block → Block) : (s.modBlock i f).shootdowns = s.shootdowns := rfl
@[simp] theorem State.modBlock_rowResets (i : Nat) (f : Block → Block) : (s.modBlock i f).rowResets = s.rowResets := rfl
@[simp] theorem State.modBlock_peerGrants (i : Nat) (f : Block → Block) : (s.modBlock i f).peerGrants = s.peerGrants := rfl
@[simp] theorem State.modBlock_peerLeases (i : Nat) (f : Block → Block) : (s.modBlock i f).peerLeases = s.peerLeases := rfl
@[simp] theorem State.modBlock_castQueues (i : Nat) (f : Block → Block) : (s.modBlock i f).castQueues = s.castQueues := rfl
@[simp] theorem State.modBlock_ports (i : Nat) (f : Block → Block) : (s.modBlock i f).ports = s.ports := rfl
@[simp] theorem State.modBlock_routes (i : Nat) (f : Block → Block) : (s.modBlock i f).routes = s.routes := rfl
@[simp] theorem State.modBlock_station (i : Nat) (f : Block → Block) : (s.modBlock i f).station = s.station := rfl
@[simp] theorem State.modBlock_pwrCap (i : Nat) (f : Block → Block) : (s.modBlock i f).pwrCap = s.pwrCap := rfl
@[simp] theorem State.modBlock_pwrIdle (i : Nat) (f : Block → Block) : (s.modBlock i f).pwrIdle = s.pwrIdle := rfl
@[simp] theorem State.modBlock_pwrUncore (i : Nat) (f : Block → Block) : (s.modBlock i f).pwrUncore = s.pwrUncore := rfl
@[simp] theorem State.modBlock_capBelowFloors (i : Nat) (f : Block → Block) : (s.modBlock i f).capBelowFloors = s.capBelowFloors := rfl
@[simp] theorem State.modBlock_capUnreachable (i : Nat) (f : Block → Block) : (s.modBlock i f).capUnreachable = s.capUnreachable := rfl
@[simp] theorem State.modBlock_nextMeter (i : Nat) (f : Block → Block) : (s.modBlock i f).nextMeter = s.nextMeter := rfl
@[simp] theorem State.modBlock_nextFrame (i : Nat) (f : Block → Block) : (s.modBlock i f).nextFrame = s.nextFrame := rfl
@[simp] theorem State.modBlock_lastRead (i : Nat) (f : Block → Block) : (s.modBlock i f).lastRead = s.lastRead := rfl
@[simp] theorem State.modBlock_outbox (i : Nat) (f : Block → Block) : (s.modBlock i f).outbox = s.outbox := rfl
@[simp] theorem State.modBlock_held (i : Nat) (f : Block → Block) : (s.modBlock i f).held = s.held := rfl

/-! ## modLaunch -/

@[simp] theorem State.modLaunch_ticks (i : Nat) (f : Launch → Launch) : (s.modLaunch i f).ticks = s.ticks := rfl
@[simp] theorem State.modLaunch_moduleNo (i : Nat) (f : Launch → Launch) : (s.modLaunch i f).moduleNo = s.moduleNo := rfl
@[simp] theorem State.modLaunch_timeMaster (i : Nat) (f : Launch → Launch) : (s.modLaunch i f).timeMaster = s.timeMaster := rfl
@[simp] theorem State.modLaunch_timeLost (i : Nat) (f : Launch → Launch) : (s.modLaunch i f).timeLost = s.timeLost := rfl
@[simp] theorem State.modLaunch_gBase (i : Nat) (f : Launch → Launch) : (s.modLaunch i f).gBase = s.gBase := rfl
@[simp] theorem State.modLaunch_gTick (i : Nat) (f : Launch → Launch) : (s.modLaunch i f).gTick = s.gTick := rfl
@[simp] theorem State.modLaunch_gLag (i : Nat) (f : Launch → Launch) : (s.modLaunch i f).gLag = s.gLag := rfl
@[simp] theorem State.modLaunch_turns (i : Nat) (f : Launch → Launch) : (s.modLaunch i f).turns = s.turns := rfl
@[simp] theorem State.modLaunch_cur (i : Nat) (f : Launch → Launch) : (s.modLaunch i f).cur = s.cur := rfl
@[simp] theorem State.modLaunch_nextId (i : Nat) (f : Launch → Launch) : (s.modLaunch i f).nextId = s.nextId := rfl
@[simp] theorem State.modLaunch_nextCore (i : Nat) (f : Launch → Launch) : (s.modLaunch i f).nextCore = s.nextCore := rfl
@[simp] theorem State.modLaunch_configBlock (i : Nat) (f : Launch → Launch) : (s.modLaunch i f).configBlock = s.configBlock := rfl
@[simp] theorem State.modLaunch_parts (i : Nat) (f : Launch → Launch) : (s.modLaunch i f).parts = s.parts := rfl
@[simp] theorem State.modLaunch_vfs (i : Nat) (f : Launch → Launch) : (s.modLaunch i f).vfs = s.vfs := rfl
@[simp] theorem State.modLaunch_contexts (i : Nat) (f : Launch → Launch) : (s.modLaunch i f).contexts = s.contexts := rfl
@[simp] theorem State.modLaunch_blocks (i : Nat) (f : Launch → Launch) : (s.modLaunch i f).blocks = s.blocks := rfl
@[simp] theorem State.modLaunch_groups (i : Nat) (f : Launch → Launch) : (s.modLaunch i f).groups = s.groups := rfl
@[simp] theorem State.modLaunch_clusters (i : Nat) (f : Launch → Launch) : (s.modLaunch i f).clusters = s.clusters := rfl
@[simp] theorem State.modLaunch_mem (i : Nat) (f : Launch → Launch) : (s.modLaunch i f).mem = s.mem := rfl
@[simp] theorem State.modLaunch_poison (i : Nat) (f : Launch → Launch) : (s.modLaunch i f).poison = s.poison := rfl
@[simp] theorem State.modLaunch_homeLines (i : Nat) (f : Launch → Launch) : (s.modLaunch i f).homeLines = s.homeLines := rfl
@[simp] theorem State.modLaunch_pending (i : Nat) (f : Launch → Launch) : (s.modLaunch i f).pending = s.pending := rfl
@[simp] theorem State.modLaunch_flights (i : Nat) (f : Launch → Launch) : (s.modLaunch i f).flights = s.flights := rfl
@[simp] theorem State.modLaunch_l2 (i : Nat) (f : Launch → Launch) : (s.modLaunch i f).l2 = s.l2 := rfl
@[simp] theorem State.modLaunch_wayFills (i : Nat) (f : Launch → Launch) : (s.modLaunch i f).wayFills = s.wayFills := rfl
@[simp] theorem State.modLaunch_manifests (i : Nat) (f : Launch → Launch) : (s.modLaunch i f).manifests = s.manifests := rfl
@[simp] theorem State.modLaunch_fetches (i : Nat) (f : Launch → Launch) : (s.modLaunch i f).fetches = s.fetches := rfl
@[simp] theorem State.modLaunch_replays (i : Nat) (f : Launch → Launch) : (s.modLaunch i f).replays = s.replays := rfl
@[simp] theorem State.modLaunch_swaps (i : Nat) (f : Launch → Launch) : (s.modLaunch i f).swaps = s.swaps := rfl
@[simp] theorem State.modLaunch_tuples (i : Nat) (f : Launch → Launch) : (s.modLaunch i f).tuples = s.tuples := rfl
@[simp] theorem State.modLaunch_tupleReqs (i : Nat) (f : Launch → Launch) : (s.modLaunch i f).tupleReqs = s.tupleReqs := rfl
@[simp] theorem State.modLaunch_depositSeq (i : Nat) (f : Launch → Launch) : (s.modLaunch i f).depositSeq = s.depositSeq := rfl
@[simp] theorem State.modLaunch_tupleOrder (i : Nat) (f : Launch → Launch) : (s.modLaunch i f).tupleOrder = s.tupleOrder := rfl
@[simp] theorem State.modLaunch_tlb (i : Nat) (f : Launch → Launch) : (s.modLaunch i f).tlb = s.tlb := rfl
@[simp] theorem State.modLaunch_shootdowns (i : Nat) (f : Launch → Launch) : (s.modLaunch i f).shootdowns = s.shootdowns := rfl
@[simp] theorem State.modLaunch_rowResets (i : Nat) (f : Launch → Launch) : (s.modLaunch i f).rowResets = s.rowResets := rfl
@[simp] theorem State.modLaunch_peerGrants (i : Nat) (f : Launch → Launch) : (s.modLaunch i f).peerGrants = s.peerGrants := rfl
@[simp] theorem State.modLaunch_peerLeases (i : Nat) (f : Launch → Launch) : (s.modLaunch i f).peerLeases = s.peerLeases := rfl
@[simp] theorem State.modLaunch_castQueues (i : Nat) (f : Launch → Launch) : (s.modLaunch i f).castQueues = s.castQueues := rfl
@[simp] theorem State.modLaunch_ports (i : Nat) (f : Launch → Launch) : (s.modLaunch i f).ports = s.ports := rfl
@[simp] theorem State.modLaunch_routes (i : Nat) (f : Launch → Launch) : (s.modLaunch i f).routes = s.routes := rfl
@[simp] theorem State.modLaunch_station (i : Nat) (f : Launch → Launch) : (s.modLaunch i f).station = s.station := rfl
@[simp] theorem State.modLaunch_pwrCap (i : Nat) (f : Launch → Launch) : (s.modLaunch i f).pwrCap = s.pwrCap := rfl
@[simp] theorem State.modLaunch_pwrIdle (i : Nat) (f : Launch → Launch) : (s.modLaunch i f).pwrIdle = s.pwrIdle := rfl
@[simp] theorem State.modLaunch_pwrUncore (i : Nat) (f : Launch → Launch) : (s.modLaunch i f).pwrUncore = s.pwrUncore := rfl
@[simp] theorem State.modLaunch_capBelowFloors (i : Nat) (f : Launch → Launch) : (s.modLaunch i f).capBelowFloors = s.capBelowFloors := rfl
@[simp] theorem State.modLaunch_capUnreachable (i : Nat) (f : Launch → Launch) : (s.modLaunch i f).capUnreachable = s.capUnreachable := rfl
@[simp] theorem State.modLaunch_nextMeter (i : Nat) (f : Launch → Launch) : (s.modLaunch i f).nextMeter = s.nextMeter := rfl
@[simp] theorem State.modLaunch_nextFrame (i : Nat) (f : Launch → Launch) : (s.modLaunch i f).nextFrame = s.nextFrame := rfl
@[simp] theorem State.modLaunch_lastRead (i : Nat) (f : Launch → Launch) : (s.modLaunch i f).lastRead = s.lastRead := rfl
@[simp] theorem State.modLaunch_outbox (i : Nat) (f : Launch → Launch) : (s.modLaunch i f).outbox = s.outbox := rfl
@[simp] theorem State.modLaunch_held (i : Nat) (f : Launch → Launch) : (s.modLaunch i f).held = s.held := rfl

/-! ## modCtx -/

@[simp] theorem State.modCtx_ticks (c : Nat) (f : Context → Context) : (s.modCtx c f).ticks = s.ticks := rfl
@[simp] theorem State.modCtx_moduleNo (c : Nat) (f : Context → Context) : (s.modCtx c f).moduleNo = s.moduleNo := rfl
@[simp] theorem State.modCtx_timeMaster (c : Nat) (f : Context → Context) : (s.modCtx c f).timeMaster = s.timeMaster := rfl
@[simp] theorem State.modCtx_timeLost (c : Nat) (f : Context → Context) : (s.modCtx c f).timeLost = s.timeLost := rfl
@[simp] theorem State.modCtx_gBase (c : Nat) (f : Context → Context) : (s.modCtx c f).gBase = s.gBase := rfl
@[simp] theorem State.modCtx_gTick (c : Nat) (f : Context → Context) : (s.modCtx c f).gTick = s.gTick := rfl
@[simp] theorem State.modCtx_gLag (c : Nat) (f : Context → Context) : (s.modCtx c f).gLag = s.gLag := rfl
@[simp] theorem State.modCtx_turns (c : Nat) (f : Context → Context) : (s.modCtx c f).turns = s.turns := rfl
@[simp] theorem State.modCtx_cur (c : Nat) (f : Context → Context) : (s.modCtx c f).cur = s.cur := rfl
@[simp] theorem State.modCtx_nextId (c : Nat) (f : Context → Context) : (s.modCtx c f).nextId = s.nextId := rfl
@[simp] theorem State.modCtx_nextCore (c : Nat) (f : Context → Context) : (s.modCtx c f).nextCore = s.nextCore := rfl
@[simp] theorem State.modCtx_configBlock (c : Nat) (f : Context → Context) : (s.modCtx c f).configBlock = s.configBlock := rfl
@[simp] theorem State.modCtx_parts (c : Nat) (f : Context → Context) : (s.modCtx c f).parts = s.parts := rfl
@[simp] theorem State.modCtx_vfs (c : Nat) (f : Context → Context) : (s.modCtx c f).vfs = s.vfs := rfl
@[simp] theorem State.modCtx_launches (c : Nat) (f : Context → Context) : (s.modCtx c f).launches = s.launches := rfl
@[simp] theorem State.modCtx_blocks (c : Nat) (f : Context → Context) : (s.modCtx c f).blocks = s.blocks := rfl
@[simp] theorem State.modCtx_groups (c : Nat) (f : Context → Context) : (s.modCtx c f).groups = s.groups := rfl
@[simp] theorem State.modCtx_clusters (c : Nat) (f : Context → Context) : (s.modCtx c f).clusters = s.clusters := rfl
@[simp] theorem State.modCtx_mem (c : Nat) (f : Context → Context) : (s.modCtx c f).mem = s.mem := rfl
@[simp] theorem State.modCtx_poison (c : Nat) (f : Context → Context) : (s.modCtx c f).poison = s.poison := rfl
@[simp] theorem State.modCtx_homeLines (c : Nat) (f : Context → Context) : (s.modCtx c f).homeLines = s.homeLines := rfl
@[simp] theorem State.modCtx_pending (c : Nat) (f : Context → Context) : (s.modCtx c f).pending = s.pending := rfl
@[simp] theorem State.modCtx_flights (c : Nat) (f : Context → Context) : (s.modCtx c f).flights = s.flights := rfl
@[simp] theorem State.modCtx_l2 (c : Nat) (f : Context → Context) : (s.modCtx c f).l2 = s.l2 := rfl
@[simp] theorem State.modCtx_wayFills (c : Nat) (f : Context → Context) : (s.modCtx c f).wayFills = s.wayFills := rfl
@[simp] theorem State.modCtx_manifests (c : Nat) (f : Context → Context) : (s.modCtx c f).manifests = s.manifests := rfl
@[simp] theorem State.modCtx_fetches (c : Nat) (f : Context → Context) : (s.modCtx c f).fetches = s.fetches := rfl
@[simp] theorem State.modCtx_replays (c : Nat) (f : Context → Context) : (s.modCtx c f).replays = s.replays := rfl
@[simp] theorem State.modCtx_swaps (c : Nat) (f : Context → Context) : (s.modCtx c f).swaps = s.swaps := rfl
@[simp] theorem State.modCtx_tuples (c : Nat) (f : Context → Context) : (s.modCtx c f).tuples = s.tuples := rfl
@[simp] theorem State.modCtx_tupleReqs (c : Nat) (f : Context → Context) : (s.modCtx c f).tupleReqs = s.tupleReqs := rfl
@[simp] theorem State.modCtx_depositSeq (c : Nat) (f : Context → Context) : (s.modCtx c f).depositSeq = s.depositSeq := rfl
@[simp] theorem State.modCtx_tupleOrder (c : Nat) (f : Context → Context) : (s.modCtx c f).tupleOrder = s.tupleOrder := rfl
@[simp] theorem State.modCtx_tlb (c : Nat) (f : Context → Context) : (s.modCtx c f).tlb = s.tlb := rfl
@[simp] theorem State.modCtx_shootdowns (c : Nat) (f : Context → Context) : (s.modCtx c f).shootdowns = s.shootdowns := rfl
@[simp] theorem State.modCtx_rowResets (c : Nat) (f : Context → Context) : (s.modCtx c f).rowResets = s.rowResets := rfl
@[simp] theorem State.modCtx_peerGrants (c : Nat) (f : Context → Context) : (s.modCtx c f).peerGrants = s.peerGrants := rfl
@[simp] theorem State.modCtx_peerLeases (c : Nat) (f : Context → Context) : (s.modCtx c f).peerLeases = s.peerLeases := rfl
@[simp] theorem State.modCtx_castQueues (c : Nat) (f : Context → Context) : (s.modCtx c f).castQueues = s.castQueues := rfl
@[simp] theorem State.modCtx_ports (c : Nat) (f : Context → Context) : (s.modCtx c f).ports = s.ports := rfl
@[simp] theorem State.modCtx_routes (c : Nat) (f : Context → Context) : (s.modCtx c f).routes = s.routes := rfl
@[simp] theorem State.modCtx_station (c : Nat) (f : Context → Context) : (s.modCtx c f).station = s.station := rfl
@[simp] theorem State.modCtx_pwrCap (c : Nat) (f : Context → Context) : (s.modCtx c f).pwrCap = s.pwrCap := rfl
@[simp] theorem State.modCtx_pwrIdle (c : Nat) (f : Context → Context) : (s.modCtx c f).pwrIdle = s.pwrIdle := rfl
@[simp] theorem State.modCtx_pwrUncore (c : Nat) (f : Context → Context) : (s.modCtx c f).pwrUncore = s.pwrUncore := rfl
@[simp] theorem State.modCtx_capBelowFloors (c : Nat) (f : Context → Context) : (s.modCtx c f).capBelowFloors = s.capBelowFloors := rfl
@[simp] theorem State.modCtx_capUnreachable (c : Nat) (f : Context → Context) : (s.modCtx c f).capUnreachable = s.capUnreachable := rfl
@[simp] theorem State.modCtx_nextMeter (c : Nat) (f : Context → Context) : (s.modCtx c f).nextMeter = s.nextMeter := rfl
@[simp] theorem State.modCtx_nextFrame (c : Nat) (f : Context → Context) : (s.modCtx c f).nextFrame = s.nextFrame := rfl
@[simp] theorem State.modCtx_lastRead (c : Nat) (f : Context → Context) : (s.modCtx c f).lastRead = s.lastRead := rfl
@[simp] theorem State.modCtx_outbox (c : Nat) (f : Context → Context) : (s.modCtx c f).outbox = s.outbox := rfl
@[simp] theorem State.modCtx_held (c : Nat) (f : Context → Context) : (s.modCtx c f).held = s.held := rfl

/-! ## modCluster -/

@[simp] theorem State.modCluster_ticks (c : Nat) (f : Cluster → Cluster) : (s.modCluster c f).ticks = s.ticks := rfl
@[simp] theorem State.modCluster_moduleNo (c : Nat) (f : Cluster → Cluster) : (s.modCluster c f).moduleNo = s.moduleNo := rfl
@[simp] theorem State.modCluster_timeMaster (c : Nat) (f : Cluster → Cluster) : (s.modCluster c f).timeMaster = s.timeMaster := rfl
@[simp] theorem State.modCluster_timeLost (c : Nat) (f : Cluster → Cluster) : (s.modCluster c f).timeLost = s.timeLost := rfl
@[simp] theorem State.modCluster_gBase (c : Nat) (f : Cluster → Cluster) : (s.modCluster c f).gBase = s.gBase := rfl
@[simp] theorem State.modCluster_gTick (c : Nat) (f : Cluster → Cluster) : (s.modCluster c f).gTick = s.gTick := rfl
@[simp] theorem State.modCluster_gLag (c : Nat) (f : Cluster → Cluster) : (s.modCluster c f).gLag = s.gLag := rfl
@[simp] theorem State.modCluster_turns (c : Nat) (f : Cluster → Cluster) : (s.modCluster c f).turns = s.turns := rfl
@[simp] theorem State.modCluster_cur (c : Nat) (f : Cluster → Cluster) : (s.modCluster c f).cur = s.cur := rfl
@[simp] theorem State.modCluster_nextId (c : Nat) (f : Cluster → Cluster) : (s.modCluster c f).nextId = s.nextId := rfl
@[simp] theorem State.modCluster_nextCore (c : Nat) (f : Cluster → Cluster) : (s.modCluster c f).nextCore = s.nextCore := rfl
@[simp] theorem State.modCluster_configBlock (c : Nat) (f : Cluster → Cluster) : (s.modCluster c f).configBlock = s.configBlock := rfl
@[simp] theorem State.modCluster_parts (c : Nat) (f : Cluster → Cluster) : (s.modCluster c f).parts = s.parts := rfl
@[simp] theorem State.modCluster_vfs (c : Nat) (f : Cluster → Cluster) : (s.modCluster c f).vfs = s.vfs := rfl
@[simp] theorem State.modCluster_contexts (c : Nat) (f : Cluster → Cluster) : (s.modCluster c f).contexts = s.contexts := rfl
@[simp] theorem State.modCluster_launches (c : Nat) (f : Cluster → Cluster) : (s.modCluster c f).launches = s.launches := rfl
@[simp] theorem State.modCluster_blocks (c : Nat) (f : Cluster → Cluster) : (s.modCluster c f).blocks = s.blocks := rfl
@[simp] theorem State.modCluster_groups (c : Nat) (f : Cluster → Cluster) : (s.modCluster c f).groups = s.groups := rfl
@[simp] theorem State.modCluster_mem (c : Nat) (f : Cluster → Cluster) : (s.modCluster c f).mem = s.mem := rfl
@[simp] theorem State.modCluster_poison (c : Nat) (f : Cluster → Cluster) : (s.modCluster c f).poison = s.poison := rfl
@[simp] theorem State.modCluster_homeLines (c : Nat) (f : Cluster → Cluster) : (s.modCluster c f).homeLines = s.homeLines := rfl
@[simp] theorem State.modCluster_pending (c : Nat) (f : Cluster → Cluster) : (s.modCluster c f).pending = s.pending := rfl
@[simp] theorem State.modCluster_flights (c : Nat) (f : Cluster → Cluster) : (s.modCluster c f).flights = s.flights := rfl
@[simp] theorem State.modCluster_l2 (c : Nat) (f : Cluster → Cluster) : (s.modCluster c f).l2 = s.l2 := rfl
@[simp] theorem State.modCluster_wayFills (c : Nat) (f : Cluster → Cluster) : (s.modCluster c f).wayFills = s.wayFills := rfl
@[simp] theorem State.modCluster_manifests (c : Nat) (f : Cluster → Cluster) : (s.modCluster c f).manifests = s.manifests := rfl
@[simp] theorem State.modCluster_fetches (c : Nat) (f : Cluster → Cluster) : (s.modCluster c f).fetches = s.fetches := rfl
@[simp] theorem State.modCluster_replays (c : Nat) (f : Cluster → Cluster) : (s.modCluster c f).replays = s.replays := rfl
@[simp] theorem State.modCluster_swaps (c : Nat) (f : Cluster → Cluster) : (s.modCluster c f).swaps = s.swaps := rfl
@[simp] theorem State.modCluster_tuples (c : Nat) (f : Cluster → Cluster) : (s.modCluster c f).tuples = s.tuples := rfl
@[simp] theorem State.modCluster_tupleReqs (c : Nat) (f : Cluster → Cluster) : (s.modCluster c f).tupleReqs = s.tupleReqs := rfl
@[simp] theorem State.modCluster_depositSeq (c : Nat) (f : Cluster → Cluster) : (s.modCluster c f).depositSeq = s.depositSeq := rfl
@[simp] theorem State.modCluster_tupleOrder (c : Nat) (f : Cluster → Cluster) : (s.modCluster c f).tupleOrder = s.tupleOrder := rfl
@[simp] theorem State.modCluster_tlb (c : Nat) (f : Cluster → Cluster) : (s.modCluster c f).tlb = s.tlb := rfl
@[simp] theorem State.modCluster_shootdowns (c : Nat) (f : Cluster → Cluster) : (s.modCluster c f).shootdowns = s.shootdowns := rfl
@[simp] theorem State.modCluster_rowResets (c : Nat) (f : Cluster → Cluster) : (s.modCluster c f).rowResets = s.rowResets := rfl
@[simp] theorem State.modCluster_peerGrants (c : Nat) (f : Cluster → Cluster) : (s.modCluster c f).peerGrants = s.peerGrants := rfl
@[simp] theorem State.modCluster_peerLeases (c : Nat) (f : Cluster → Cluster) : (s.modCluster c f).peerLeases = s.peerLeases := rfl
@[simp] theorem State.modCluster_castQueues (c : Nat) (f : Cluster → Cluster) : (s.modCluster c f).castQueues = s.castQueues := rfl
@[simp] theorem State.modCluster_ports (c : Nat) (f : Cluster → Cluster) : (s.modCluster c f).ports = s.ports := rfl
@[simp] theorem State.modCluster_routes (c : Nat) (f : Cluster → Cluster) : (s.modCluster c f).routes = s.routes := rfl
@[simp] theorem State.modCluster_station (c : Nat) (f : Cluster → Cluster) : (s.modCluster c f).station = s.station := rfl
@[simp] theorem State.modCluster_pwrCap (c : Nat) (f : Cluster → Cluster) : (s.modCluster c f).pwrCap = s.pwrCap := rfl
@[simp] theorem State.modCluster_pwrIdle (c : Nat) (f : Cluster → Cluster) : (s.modCluster c f).pwrIdle = s.pwrIdle := rfl
@[simp] theorem State.modCluster_pwrUncore (c : Nat) (f : Cluster → Cluster) : (s.modCluster c f).pwrUncore = s.pwrUncore := rfl
@[simp] theorem State.modCluster_capBelowFloors (c : Nat) (f : Cluster → Cluster) : (s.modCluster c f).capBelowFloors = s.capBelowFloors := rfl
@[simp] theorem State.modCluster_capUnreachable (c : Nat) (f : Cluster → Cluster) : (s.modCluster c f).capUnreachable = s.capUnreachable := rfl
@[simp] theorem State.modCluster_nextMeter (c : Nat) (f : Cluster → Cluster) : (s.modCluster c f).nextMeter = s.nextMeter := rfl
@[simp] theorem State.modCluster_nextFrame (c : Nat) (f : Cluster → Cluster) : (s.modCluster c f).nextFrame = s.nextFrame := rfl
@[simp] theorem State.modCluster_lastRead (c : Nat) (f : Cluster → Cluster) : (s.modCluster c f).lastRead = s.lastRead := rfl
@[simp] theorem State.modCluster_outbox (c : Nat) (f : Cluster → Cluster) : (s.modCluster c f).outbox = s.outbox := rfl
@[simp] theorem State.modCluster_held (c : Nat) (f : Cluster → Cluster) : (s.modCluster c f).held = s.held := rfl

/-! ## modPart -/

@[simp] theorem State.modPart_ticks (p : Nat) (f : Part → Part) : (s.modPart p f).ticks = s.ticks := rfl
@[simp] theorem State.modPart_moduleNo (p : Nat) (f : Part → Part) : (s.modPart p f).moduleNo = s.moduleNo := rfl
@[simp] theorem State.modPart_timeMaster (p : Nat) (f : Part → Part) : (s.modPart p f).timeMaster = s.timeMaster := rfl
@[simp] theorem State.modPart_timeLost (p : Nat) (f : Part → Part) : (s.modPart p f).timeLost = s.timeLost := rfl
@[simp] theorem State.modPart_gBase (p : Nat) (f : Part → Part) : (s.modPart p f).gBase = s.gBase := rfl
@[simp] theorem State.modPart_gTick (p : Nat) (f : Part → Part) : (s.modPart p f).gTick = s.gTick := rfl
@[simp] theorem State.modPart_gLag (p : Nat) (f : Part → Part) : (s.modPart p f).gLag = s.gLag := rfl
@[simp] theorem State.modPart_turns (p : Nat) (f : Part → Part) : (s.modPart p f).turns = s.turns := rfl
@[simp] theorem State.modPart_cur (p : Nat) (f : Part → Part) : (s.modPart p f).cur = s.cur := rfl
@[simp] theorem State.modPart_nextId (p : Nat) (f : Part → Part) : (s.modPart p f).nextId = s.nextId := rfl
@[simp] theorem State.modPart_nextCore (p : Nat) (f : Part → Part) : (s.modPart p f).nextCore = s.nextCore := rfl
@[simp] theorem State.modPart_configBlock (p : Nat) (f : Part → Part) : (s.modPart p f).configBlock = s.configBlock := rfl
@[simp] theorem State.modPart_vfs (p : Nat) (f : Part → Part) : (s.modPart p f).vfs = s.vfs := rfl
@[simp] theorem State.modPart_contexts (p : Nat) (f : Part → Part) : (s.modPart p f).contexts = s.contexts := rfl
@[simp] theorem State.modPart_launches (p : Nat) (f : Part → Part) : (s.modPart p f).launches = s.launches := rfl
@[simp] theorem State.modPart_blocks (p : Nat) (f : Part → Part) : (s.modPart p f).blocks = s.blocks := rfl
@[simp] theorem State.modPart_groups (p : Nat) (f : Part → Part) : (s.modPart p f).groups = s.groups := rfl
@[simp] theorem State.modPart_clusters (p : Nat) (f : Part → Part) : (s.modPart p f).clusters = s.clusters := rfl
@[simp] theorem State.modPart_mem (p : Nat) (f : Part → Part) : (s.modPart p f).mem = s.mem := rfl
@[simp] theorem State.modPart_poison (p : Nat) (f : Part → Part) : (s.modPart p f).poison = s.poison := rfl
@[simp] theorem State.modPart_homeLines (p : Nat) (f : Part → Part) : (s.modPart p f).homeLines = s.homeLines := rfl
@[simp] theorem State.modPart_pending (p : Nat) (f : Part → Part) : (s.modPart p f).pending = s.pending := rfl
@[simp] theorem State.modPart_flights (p : Nat) (f : Part → Part) : (s.modPart p f).flights = s.flights := rfl
@[simp] theorem State.modPart_l2 (p : Nat) (f : Part → Part) : (s.modPart p f).l2 = s.l2 := rfl
@[simp] theorem State.modPart_wayFills (p : Nat) (f : Part → Part) : (s.modPart p f).wayFills = s.wayFills := rfl
@[simp] theorem State.modPart_manifests (p : Nat) (f : Part → Part) : (s.modPart p f).manifests = s.manifests := rfl
@[simp] theorem State.modPart_fetches (p : Nat) (f : Part → Part) : (s.modPart p f).fetches = s.fetches := rfl
@[simp] theorem State.modPart_replays (p : Nat) (f : Part → Part) : (s.modPart p f).replays = s.replays := rfl
@[simp] theorem State.modPart_swaps (p : Nat) (f : Part → Part) : (s.modPart p f).swaps = s.swaps := rfl
@[simp] theorem State.modPart_tuples (p : Nat) (f : Part → Part) : (s.modPart p f).tuples = s.tuples := rfl
@[simp] theorem State.modPart_tupleReqs (p : Nat) (f : Part → Part) : (s.modPart p f).tupleReqs = s.tupleReqs := rfl
@[simp] theorem State.modPart_depositSeq (p : Nat) (f : Part → Part) : (s.modPart p f).depositSeq = s.depositSeq := rfl
@[simp] theorem State.modPart_tupleOrder (p : Nat) (f : Part → Part) : (s.modPart p f).tupleOrder = s.tupleOrder := rfl
@[simp] theorem State.modPart_tlb (p : Nat) (f : Part → Part) : (s.modPart p f).tlb = s.tlb := rfl
@[simp] theorem State.modPart_shootdowns (p : Nat) (f : Part → Part) : (s.modPart p f).shootdowns = s.shootdowns := rfl
@[simp] theorem State.modPart_rowResets (p : Nat) (f : Part → Part) : (s.modPart p f).rowResets = s.rowResets := rfl
@[simp] theorem State.modPart_peerGrants (p : Nat) (f : Part → Part) : (s.modPart p f).peerGrants = s.peerGrants := rfl
@[simp] theorem State.modPart_peerLeases (p : Nat) (f : Part → Part) : (s.modPart p f).peerLeases = s.peerLeases := rfl
@[simp] theorem State.modPart_castQueues (p : Nat) (f : Part → Part) : (s.modPart p f).castQueues = s.castQueues := rfl
@[simp] theorem State.modPart_ports (p : Nat) (f : Part → Part) : (s.modPart p f).ports = s.ports := rfl
@[simp] theorem State.modPart_routes (p : Nat) (f : Part → Part) : (s.modPart p f).routes = s.routes := rfl
@[simp] theorem State.modPart_station (p : Nat) (f : Part → Part) : (s.modPart p f).station = s.station := rfl
@[simp] theorem State.modPart_pwrCap (p : Nat) (f : Part → Part) : (s.modPart p f).pwrCap = s.pwrCap := rfl
@[simp] theorem State.modPart_pwrIdle (p : Nat) (f : Part → Part) : (s.modPart p f).pwrIdle = s.pwrIdle := rfl
@[simp] theorem State.modPart_pwrUncore (p : Nat) (f : Part → Part) : (s.modPart p f).pwrUncore = s.pwrUncore := rfl
@[simp] theorem State.modPart_capBelowFloors (p : Nat) (f : Part → Part) : (s.modPart p f).capBelowFloors = s.capBelowFloors := rfl
@[simp] theorem State.modPart_capUnreachable (p : Nat) (f : Part → Part) : (s.modPart p f).capUnreachable = s.capUnreachable := rfl
@[simp] theorem State.modPart_nextMeter (p : Nat) (f : Part → Part) : (s.modPart p f).nextMeter = s.nextMeter := rfl
@[simp] theorem State.modPart_nextFrame (p : Nat) (f : Part → Part) : (s.modPart p f).nextFrame = s.nextFrame := rfl
@[simp] theorem State.modPart_lastRead (p : Nat) (f : Part → Part) : (s.modPart p f).lastRead = s.lastRead := rfl
@[simp] theorem State.modPart_outbox (p : Nat) (f : Part → Part) : (s.modPart p f).outbox = s.outbox := rfl
@[simp] theorem State.modPart_held (p : Nat) (f : Part → Part) : (s.modPart p f).held = s.held := rfl

/-! ## took -/

@[simp] theorem State.took_ticks (c : Nat) : (s.took c).ticks = s.ticks := rfl
@[simp] theorem State.took_moduleNo (c : Nat) : (s.took c).moduleNo = s.moduleNo := rfl
@[simp] theorem State.took_timeMaster (c : Nat) : (s.took c).timeMaster = s.timeMaster := rfl
@[simp] theorem State.took_timeLost (c : Nat) : (s.took c).timeLost = s.timeLost := rfl
@[simp] theorem State.took_gBase (c : Nat) : (s.took c).gBase = s.gBase := rfl
@[simp] theorem State.took_gTick (c : Nat) : (s.took c).gTick = s.gTick := rfl
@[simp] theorem State.took_gLag (c : Nat) : (s.took c).gLag = s.gLag := rfl
@[simp] theorem State.took_turns (c : Nat) : (s.took c).turns = s.turns := rfl
@[simp] theorem State.took_cur (c : Nat) : (s.took c).cur = s.cur := rfl
@[simp] theorem State.took_nextId (c : Nat) : (s.took c).nextId = s.nextId := rfl
@[simp] theorem State.took_nextCore (c : Nat) : (s.took c).nextCore = s.nextCore := rfl
@[simp] theorem State.took_configBlock (c : Nat) : (s.took c).configBlock = s.configBlock := rfl
@[simp] theorem State.took_parts (c : Nat) : (s.took c).parts = s.parts := rfl
@[simp] theorem State.took_vfs (c : Nat) : (s.took c).vfs = s.vfs := rfl
@[simp] theorem State.took_launches (c : Nat) : (s.took c).launches = s.launches := rfl
@[simp] theorem State.took_blocks (c : Nat) : (s.took c).blocks = s.blocks := rfl
@[simp] theorem State.took_groups (c : Nat) : (s.took c).groups = s.groups := rfl
@[simp] theorem State.took_clusters (c : Nat) : (s.took c).clusters = s.clusters := rfl
@[simp] theorem State.took_mem (c : Nat) : (s.took c).mem = s.mem := rfl
@[simp] theorem State.took_poison (c : Nat) : (s.took c).poison = s.poison := rfl
@[simp] theorem State.took_homeLines (c : Nat) : (s.took c).homeLines = s.homeLines := rfl
@[simp] theorem State.took_pending (c : Nat) : (s.took c).pending = s.pending := rfl
@[simp] theorem State.took_flights (c : Nat) : (s.took c).flights = s.flights := rfl
@[simp] theorem State.took_l2 (c : Nat) : (s.took c).l2 = s.l2 := rfl
@[simp] theorem State.took_wayFills (c : Nat) : (s.took c).wayFills = s.wayFills := rfl
@[simp] theorem State.took_manifests (c : Nat) : (s.took c).manifests = s.manifests := rfl
@[simp] theorem State.took_fetches (c : Nat) : (s.took c).fetches = s.fetches := rfl
@[simp] theorem State.took_replays (c : Nat) : (s.took c).replays = s.replays := rfl
@[simp] theorem State.took_swaps (c : Nat) : (s.took c).swaps = s.swaps := rfl
@[simp] theorem State.took_tuples (c : Nat) : (s.took c).tuples = s.tuples := rfl
@[simp] theorem State.took_tupleReqs (c : Nat) : (s.took c).tupleReqs = s.tupleReqs := rfl
@[simp] theorem State.took_depositSeq (c : Nat) : (s.took c).depositSeq = s.depositSeq := rfl
@[simp] theorem State.took_tupleOrder (c : Nat) : (s.took c).tupleOrder = s.tupleOrder := rfl
@[simp] theorem State.took_tlb (c : Nat) : (s.took c).tlb = s.tlb := rfl
@[simp] theorem State.took_shootdowns (c : Nat) : (s.took c).shootdowns = s.shootdowns := rfl
@[simp] theorem State.took_rowResets (c : Nat) : (s.took c).rowResets = s.rowResets := rfl
@[simp] theorem State.took_peerGrants (c : Nat) : (s.took c).peerGrants = s.peerGrants := rfl
@[simp] theorem State.took_peerLeases (c : Nat) : (s.took c).peerLeases = s.peerLeases := rfl
@[simp] theorem State.took_castQueues (c : Nat) : (s.took c).castQueues = s.castQueues := rfl
@[simp] theorem State.took_ports (c : Nat) : (s.took c).ports = s.ports := rfl
@[simp] theorem State.took_routes (c : Nat) : (s.took c).routes = s.routes := rfl
@[simp] theorem State.took_station (c : Nat) : (s.took c).station = s.station := rfl
@[simp] theorem State.took_pwrCap (c : Nat) : (s.took c).pwrCap = s.pwrCap := rfl
@[simp] theorem State.took_pwrIdle (c : Nat) : (s.took c).pwrIdle = s.pwrIdle := rfl
@[simp] theorem State.took_pwrUncore (c : Nat) : (s.took c).pwrUncore = s.pwrUncore := rfl
@[simp] theorem State.took_capBelowFloors (c : Nat) : (s.took c).capBelowFloors = s.capBelowFloors := rfl
@[simp] theorem State.took_capUnreachable (c : Nat) : (s.took c).capUnreachable = s.capUnreachable := rfl
@[simp] theorem State.took_nextMeter (c : Nat) : (s.took c).nextMeter = s.nextMeter := rfl
@[simp] theorem State.took_nextFrame (c : Nat) : (s.took c).nextFrame = s.nextFrame := rfl
@[simp] theorem State.took_lastRead (c : Nat) : (s.took c).lastRead = s.lastRead := rfl
@[simp] theorem State.took_outbox (c : Nat) : (s.took c).outbox = s.outbox := rfl
@[simp] theorem State.took_held (c : Nat) : (s.took c).held = s.held := rfl

/-! ## parkPath -/

@[simp] theorem State.parkPath_ticks (i : Nat) (b : Bool) (w : Wait) : (s.parkPath i b w).ticks = s.ticks := rfl
@[simp] theorem State.parkPath_moduleNo (i : Nat) (b : Bool) (w : Wait) : (s.parkPath i b w).moduleNo = s.moduleNo := rfl
@[simp] theorem State.parkPath_timeMaster (i : Nat) (b : Bool) (w : Wait) : (s.parkPath i b w).timeMaster = s.timeMaster := rfl
@[simp] theorem State.parkPath_timeLost (i : Nat) (b : Bool) (w : Wait) : (s.parkPath i b w).timeLost = s.timeLost := rfl
@[simp] theorem State.parkPath_gBase (i : Nat) (b : Bool) (w : Wait) : (s.parkPath i b w).gBase = s.gBase := rfl
@[simp] theorem State.parkPath_gTick (i : Nat) (b : Bool) (w : Wait) : (s.parkPath i b w).gTick = s.gTick := rfl
@[simp] theorem State.parkPath_gLag (i : Nat) (b : Bool) (w : Wait) : (s.parkPath i b w).gLag = s.gLag := rfl
@[simp] theorem State.parkPath_turns (i : Nat) (b : Bool) (w : Wait) : (s.parkPath i b w).turns = s.turns := rfl
@[simp] theorem State.parkPath_cur (i : Nat) (b : Bool) (w : Wait) : (s.parkPath i b w).cur = s.cur := rfl
@[simp] theorem State.parkPath_nextId (i : Nat) (b : Bool) (w : Wait) : (s.parkPath i b w).nextId = s.nextId := rfl
@[simp] theorem State.parkPath_nextCore (i : Nat) (b : Bool) (w : Wait) : (s.parkPath i b w).nextCore = s.nextCore := rfl
@[simp] theorem State.parkPath_configBlock (i : Nat) (b : Bool) (w : Wait) : (s.parkPath i b w).configBlock = s.configBlock := rfl
@[simp] theorem State.parkPath_parts (i : Nat) (b : Bool) (w : Wait) : (s.parkPath i b w).parts = s.parts := rfl
@[simp] theorem State.parkPath_vfs (i : Nat) (b : Bool) (w : Wait) : (s.parkPath i b w).vfs = s.vfs := rfl
@[simp] theorem State.parkPath_contexts (i : Nat) (b : Bool) (w : Wait) : (s.parkPath i b w).contexts = s.contexts := rfl
@[simp] theorem State.parkPath_launches (i : Nat) (b : Bool) (w : Wait) : (s.parkPath i b w).launches = s.launches := rfl
@[simp] theorem State.parkPath_blocks (i : Nat) (b : Bool) (w : Wait) : (s.parkPath i b w).blocks = s.blocks := rfl
@[simp] theorem State.parkPath_clusters (i : Nat) (b : Bool) (w : Wait) : (s.parkPath i b w).clusters = s.clusters := rfl
@[simp] theorem State.parkPath_mem (i : Nat) (b : Bool) (w : Wait) : (s.parkPath i b w).mem = s.mem := rfl
@[simp] theorem State.parkPath_poison (i : Nat) (b : Bool) (w : Wait) : (s.parkPath i b w).poison = s.poison := rfl
@[simp] theorem State.parkPath_homeLines (i : Nat) (b : Bool) (w : Wait) : (s.parkPath i b w).homeLines = s.homeLines := rfl
@[simp] theorem State.parkPath_pending (i : Nat) (b : Bool) (w : Wait) : (s.parkPath i b w).pending = s.pending := rfl
@[simp] theorem State.parkPath_flights (i : Nat) (b : Bool) (w : Wait) : (s.parkPath i b w).flights = s.flights := rfl
@[simp] theorem State.parkPath_l2 (i : Nat) (b : Bool) (w : Wait) : (s.parkPath i b w).l2 = s.l2 := rfl
@[simp] theorem State.parkPath_wayFills (i : Nat) (b : Bool) (w : Wait) : (s.parkPath i b w).wayFills = s.wayFills := rfl
@[simp] theorem State.parkPath_manifests (i : Nat) (b : Bool) (w : Wait) : (s.parkPath i b w).manifests = s.manifests := rfl
@[simp] theorem State.parkPath_fetches (i : Nat) (b : Bool) (w : Wait) : (s.parkPath i b w).fetches = s.fetches := rfl
@[simp] theorem State.parkPath_replays (i : Nat) (b : Bool) (w : Wait) : (s.parkPath i b w).replays = s.replays := rfl
@[simp] theorem State.parkPath_swaps (i : Nat) (b : Bool) (w : Wait) : (s.parkPath i b w).swaps = s.swaps := rfl
@[simp] theorem State.parkPath_tuples (i : Nat) (b : Bool) (w : Wait) : (s.parkPath i b w).tuples = s.tuples := rfl
@[simp] theorem State.parkPath_tupleReqs (i : Nat) (b : Bool) (w : Wait) : (s.parkPath i b w).tupleReqs = s.tupleReqs := rfl
@[simp] theorem State.parkPath_depositSeq (i : Nat) (b : Bool) (w : Wait) : (s.parkPath i b w).depositSeq = s.depositSeq := rfl
@[simp] theorem State.parkPath_tupleOrder (i : Nat) (b : Bool) (w : Wait) : (s.parkPath i b w).tupleOrder = s.tupleOrder := rfl
@[simp] theorem State.parkPath_tlb (i : Nat) (b : Bool) (w : Wait) : (s.parkPath i b w).tlb = s.tlb := rfl
@[simp] theorem State.parkPath_shootdowns (i : Nat) (b : Bool) (w : Wait) : (s.parkPath i b w).shootdowns = s.shootdowns := rfl
@[simp] theorem State.parkPath_rowResets (i : Nat) (b : Bool) (w : Wait) : (s.parkPath i b w).rowResets = s.rowResets := rfl
@[simp] theorem State.parkPath_peerGrants (i : Nat) (b : Bool) (w : Wait) : (s.parkPath i b w).peerGrants = s.peerGrants := rfl
@[simp] theorem State.parkPath_peerLeases (i : Nat) (b : Bool) (w : Wait) : (s.parkPath i b w).peerLeases = s.peerLeases := rfl
@[simp] theorem State.parkPath_castQueues (i : Nat) (b : Bool) (w : Wait) : (s.parkPath i b w).castQueues = s.castQueues := rfl
@[simp] theorem State.parkPath_ports (i : Nat) (b : Bool) (w : Wait) : (s.parkPath i b w).ports = s.ports := rfl
@[simp] theorem State.parkPath_routes (i : Nat) (b : Bool) (w : Wait) : (s.parkPath i b w).routes = s.routes := rfl
@[simp] theorem State.parkPath_station (i : Nat) (b : Bool) (w : Wait) : (s.parkPath i b w).station = s.station := rfl
@[simp] theorem State.parkPath_pwrCap (i : Nat) (b : Bool) (w : Wait) : (s.parkPath i b w).pwrCap = s.pwrCap := rfl
@[simp] theorem State.parkPath_pwrIdle (i : Nat) (b : Bool) (w : Wait) : (s.parkPath i b w).pwrIdle = s.pwrIdle := rfl
@[simp] theorem State.parkPath_pwrUncore (i : Nat) (b : Bool) (w : Wait) : (s.parkPath i b w).pwrUncore = s.pwrUncore := rfl
@[simp] theorem State.parkPath_capBelowFloors (i : Nat) (b : Bool) (w : Wait) : (s.parkPath i b w).capBelowFloors = s.capBelowFloors := rfl
@[simp] theorem State.parkPath_capUnreachable (i : Nat) (b : Bool) (w : Wait) : (s.parkPath i b w).capUnreachable = s.capUnreachable := rfl
@[simp] theorem State.parkPath_nextMeter (i : Nat) (b : Bool) (w : Wait) : (s.parkPath i b w).nextMeter = s.nextMeter := rfl
@[simp] theorem State.parkPath_nextFrame (i : Nat) (b : Bool) (w : Wait) : (s.parkPath i b w).nextFrame = s.nextFrame := rfl
@[simp] theorem State.parkPath_lastRead (i : Nat) (b : Bool) (w : Wait) : (s.parkPath i b w).lastRead = s.lastRead := rfl
@[simp] theorem State.parkPath_outbox (i : Nat) (b : Bool) (w : Wait) : (s.parkPath i b w).outbox = s.outbox := rfl
@[simp] theorem State.parkPath_held (i : Nat) (b : Bool) (w : Wait) : (s.parkPath i b w).held = s.held := rfl

/-! ## wakePath -/

@[simp] theorem State.wakePath_ticks (i : Nat) (b : Bool) : (s.wakePath i b).ticks = s.ticks := rfl
@[simp] theorem State.wakePath_moduleNo (i : Nat) (b : Bool) : (s.wakePath i b).moduleNo = s.moduleNo := rfl
@[simp] theorem State.wakePath_timeMaster (i : Nat) (b : Bool) : (s.wakePath i b).timeMaster = s.timeMaster := rfl
@[simp] theorem State.wakePath_timeLost (i : Nat) (b : Bool) : (s.wakePath i b).timeLost = s.timeLost := rfl
@[simp] theorem State.wakePath_gBase (i : Nat) (b : Bool) : (s.wakePath i b).gBase = s.gBase := rfl
@[simp] theorem State.wakePath_gTick (i : Nat) (b : Bool) : (s.wakePath i b).gTick = s.gTick := rfl
@[simp] theorem State.wakePath_gLag (i : Nat) (b : Bool) : (s.wakePath i b).gLag = s.gLag := rfl
@[simp] theorem State.wakePath_turns (i : Nat) (b : Bool) : (s.wakePath i b).turns = s.turns := rfl
@[simp] theorem State.wakePath_cur (i : Nat) (b : Bool) : (s.wakePath i b).cur = s.cur := rfl
@[simp] theorem State.wakePath_nextId (i : Nat) (b : Bool) : (s.wakePath i b).nextId = s.nextId := rfl
@[simp] theorem State.wakePath_nextCore (i : Nat) (b : Bool) : (s.wakePath i b).nextCore = s.nextCore := rfl
@[simp] theorem State.wakePath_configBlock (i : Nat) (b : Bool) : (s.wakePath i b).configBlock = s.configBlock := rfl
@[simp] theorem State.wakePath_parts (i : Nat) (b : Bool) : (s.wakePath i b).parts = s.parts := rfl
@[simp] theorem State.wakePath_vfs (i : Nat) (b : Bool) : (s.wakePath i b).vfs = s.vfs := rfl
@[simp] theorem State.wakePath_contexts (i : Nat) (b : Bool) : (s.wakePath i b).contexts = s.contexts := rfl
@[simp] theorem State.wakePath_launches (i : Nat) (b : Bool) : (s.wakePath i b).launches = s.launches := rfl
@[simp] theorem State.wakePath_blocks (i : Nat) (b : Bool) : (s.wakePath i b).blocks = s.blocks := rfl
@[simp] theorem State.wakePath_clusters (i : Nat) (b : Bool) : (s.wakePath i b).clusters = s.clusters := rfl
@[simp] theorem State.wakePath_mem (i : Nat) (b : Bool) : (s.wakePath i b).mem = s.mem := rfl
@[simp] theorem State.wakePath_poison (i : Nat) (b : Bool) : (s.wakePath i b).poison = s.poison := rfl
@[simp] theorem State.wakePath_homeLines (i : Nat) (b : Bool) : (s.wakePath i b).homeLines = s.homeLines := rfl
@[simp] theorem State.wakePath_pending (i : Nat) (b : Bool) : (s.wakePath i b).pending = s.pending := rfl
@[simp] theorem State.wakePath_flights (i : Nat) (b : Bool) : (s.wakePath i b).flights = s.flights := rfl
@[simp] theorem State.wakePath_l2 (i : Nat) (b : Bool) : (s.wakePath i b).l2 = s.l2 := rfl
@[simp] theorem State.wakePath_wayFills (i : Nat) (b : Bool) : (s.wakePath i b).wayFills = s.wayFills := rfl
@[simp] theorem State.wakePath_manifests (i : Nat) (b : Bool) : (s.wakePath i b).manifests = s.manifests := rfl
@[simp] theorem State.wakePath_fetches (i : Nat) (b : Bool) : (s.wakePath i b).fetches = s.fetches := rfl
@[simp] theorem State.wakePath_replays (i : Nat) (b : Bool) : (s.wakePath i b).replays = s.replays := rfl
@[simp] theorem State.wakePath_swaps (i : Nat) (b : Bool) : (s.wakePath i b).swaps = s.swaps := rfl
@[simp] theorem State.wakePath_tuples (i : Nat) (b : Bool) : (s.wakePath i b).tuples = s.tuples := rfl
@[simp] theorem State.wakePath_tupleReqs (i : Nat) (b : Bool) : (s.wakePath i b).tupleReqs = s.tupleReqs := rfl
@[simp] theorem State.wakePath_depositSeq (i : Nat) (b : Bool) : (s.wakePath i b).depositSeq = s.depositSeq := rfl
@[simp] theorem State.wakePath_tupleOrder (i : Nat) (b : Bool) : (s.wakePath i b).tupleOrder = s.tupleOrder := rfl
@[simp] theorem State.wakePath_tlb (i : Nat) (b : Bool) : (s.wakePath i b).tlb = s.tlb := rfl
@[simp] theorem State.wakePath_shootdowns (i : Nat) (b : Bool) : (s.wakePath i b).shootdowns = s.shootdowns := rfl
@[simp] theorem State.wakePath_rowResets (i : Nat) (b : Bool) : (s.wakePath i b).rowResets = s.rowResets := rfl
@[simp] theorem State.wakePath_peerGrants (i : Nat) (b : Bool) : (s.wakePath i b).peerGrants = s.peerGrants := rfl
@[simp] theorem State.wakePath_peerLeases (i : Nat) (b : Bool) : (s.wakePath i b).peerLeases = s.peerLeases := rfl
@[simp] theorem State.wakePath_castQueues (i : Nat) (b : Bool) : (s.wakePath i b).castQueues = s.castQueues := rfl
@[simp] theorem State.wakePath_ports (i : Nat) (b : Bool) : (s.wakePath i b).ports = s.ports := rfl
@[simp] theorem State.wakePath_routes (i : Nat) (b : Bool) : (s.wakePath i b).routes = s.routes := rfl
@[simp] theorem State.wakePath_station (i : Nat) (b : Bool) : (s.wakePath i b).station = s.station := rfl
@[simp] theorem State.wakePath_pwrCap (i : Nat) (b : Bool) : (s.wakePath i b).pwrCap = s.pwrCap := rfl
@[simp] theorem State.wakePath_pwrIdle (i : Nat) (b : Bool) : (s.wakePath i b).pwrIdle = s.pwrIdle := rfl
@[simp] theorem State.wakePath_pwrUncore (i : Nat) (b : Bool) : (s.wakePath i b).pwrUncore = s.pwrUncore := rfl
@[simp] theorem State.wakePath_capBelowFloors (i : Nat) (b : Bool) : (s.wakePath i b).capBelowFloors = s.capBelowFloors := rfl
@[simp] theorem State.wakePath_capUnreachable (i : Nat) (b : Bool) : (s.wakePath i b).capUnreachable = s.capUnreachable := rfl
@[simp] theorem State.wakePath_nextMeter (i : Nat) (b : Bool) : (s.wakePath i b).nextMeter = s.nextMeter := rfl
@[simp] theorem State.wakePath_nextFrame (i : Nat) (b : Bool) : (s.wakePath i b).nextFrame = s.nextFrame := rfl
@[simp] theorem State.wakePath_lastRead (i : Nat) (b : Bool) : (s.wakePath i b).lastRead = s.lastRead := rfl
@[simp] theorem State.wakePath_outbox (i : Nat) (b : Bool) : (s.wakePath i b).outbox = s.outbox := rfl
@[simp] theorem State.wakePath_held (i : Nat) (b : Bool) : (s.wakePath i b).held = s.held := rfl

/-! ## wakeWhere -/

@[simp] theorem State.wakeWhere_ticks (t : Group → Wait → Bool) : (s.wakeWhere t).ticks = s.ticks := rfl
@[simp] theorem State.wakeWhere_moduleNo (t : Group → Wait → Bool) : (s.wakeWhere t).moduleNo = s.moduleNo := rfl
@[simp] theorem State.wakeWhere_timeMaster (t : Group → Wait → Bool) : (s.wakeWhere t).timeMaster = s.timeMaster := rfl
@[simp] theorem State.wakeWhere_timeLost (t : Group → Wait → Bool) : (s.wakeWhere t).timeLost = s.timeLost := rfl
@[simp] theorem State.wakeWhere_gBase (t : Group → Wait → Bool) : (s.wakeWhere t).gBase = s.gBase := rfl
@[simp] theorem State.wakeWhere_gTick (t : Group → Wait → Bool) : (s.wakeWhere t).gTick = s.gTick := rfl
@[simp] theorem State.wakeWhere_gLag (t : Group → Wait → Bool) : (s.wakeWhere t).gLag = s.gLag := rfl
@[simp] theorem State.wakeWhere_turns (t : Group → Wait → Bool) : (s.wakeWhere t).turns = s.turns := rfl
@[simp] theorem State.wakeWhere_cur (t : Group → Wait → Bool) : (s.wakeWhere t).cur = s.cur := rfl
@[simp] theorem State.wakeWhere_nextId (t : Group → Wait → Bool) : (s.wakeWhere t).nextId = s.nextId := rfl
@[simp] theorem State.wakeWhere_nextCore (t : Group → Wait → Bool) : (s.wakeWhere t).nextCore = s.nextCore := rfl
@[simp] theorem State.wakeWhere_configBlock (t : Group → Wait → Bool) : (s.wakeWhere t).configBlock = s.configBlock := rfl
@[simp] theorem State.wakeWhere_parts (t : Group → Wait → Bool) : (s.wakeWhere t).parts = s.parts := rfl
@[simp] theorem State.wakeWhere_vfs (t : Group → Wait → Bool) : (s.wakeWhere t).vfs = s.vfs := rfl
@[simp] theorem State.wakeWhere_contexts (t : Group → Wait → Bool) : (s.wakeWhere t).contexts = s.contexts := rfl
@[simp] theorem State.wakeWhere_launches (t : Group → Wait → Bool) : (s.wakeWhere t).launches = s.launches := rfl
@[simp] theorem State.wakeWhere_blocks (t : Group → Wait → Bool) : (s.wakeWhere t).blocks = s.blocks := rfl
@[simp] theorem State.wakeWhere_clusters (t : Group → Wait → Bool) : (s.wakeWhere t).clusters = s.clusters := rfl
@[simp] theorem State.wakeWhere_mem (t : Group → Wait → Bool) : (s.wakeWhere t).mem = s.mem := rfl
@[simp] theorem State.wakeWhere_poison (t : Group → Wait → Bool) : (s.wakeWhere t).poison = s.poison := rfl
@[simp] theorem State.wakeWhere_homeLines (t : Group → Wait → Bool) : (s.wakeWhere t).homeLines = s.homeLines := rfl
@[simp] theorem State.wakeWhere_pending (t : Group → Wait → Bool) : (s.wakeWhere t).pending = s.pending := rfl
@[simp] theorem State.wakeWhere_flights (t : Group → Wait → Bool) : (s.wakeWhere t).flights = s.flights := rfl
@[simp] theorem State.wakeWhere_l2 (t : Group → Wait → Bool) : (s.wakeWhere t).l2 = s.l2 := rfl
@[simp] theorem State.wakeWhere_wayFills (t : Group → Wait → Bool) : (s.wakeWhere t).wayFills = s.wayFills := rfl
@[simp] theorem State.wakeWhere_manifests (t : Group → Wait → Bool) : (s.wakeWhere t).manifests = s.manifests := rfl
@[simp] theorem State.wakeWhere_fetches (t : Group → Wait → Bool) : (s.wakeWhere t).fetches = s.fetches := rfl
@[simp] theorem State.wakeWhere_replays (t : Group → Wait → Bool) : (s.wakeWhere t).replays = s.replays := rfl
@[simp] theorem State.wakeWhere_swaps (t : Group → Wait → Bool) : (s.wakeWhere t).swaps = s.swaps := rfl
@[simp] theorem State.wakeWhere_tuples (t : Group → Wait → Bool) : (s.wakeWhere t).tuples = s.tuples := rfl
@[simp] theorem State.wakeWhere_tupleReqs (t : Group → Wait → Bool) : (s.wakeWhere t).tupleReqs = s.tupleReqs := rfl
@[simp] theorem State.wakeWhere_depositSeq (t : Group → Wait → Bool) : (s.wakeWhere t).depositSeq = s.depositSeq := rfl
@[simp] theorem State.wakeWhere_tupleOrder (t : Group → Wait → Bool) : (s.wakeWhere t).tupleOrder = s.tupleOrder := rfl
@[simp] theorem State.wakeWhere_tlb (t : Group → Wait → Bool) : (s.wakeWhere t).tlb = s.tlb := rfl
@[simp] theorem State.wakeWhere_shootdowns (t : Group → Wait → Bool) : (s.wakeWhere t).shootdowns = s.shootdowns := rfl
@[simp] theorem State.wakeWhere_rowResets (t : Group → Wait → Bool) : (s.wakeWhere t).rowResets = s.rowResets := rfl
@[simp] theorem State.wakeWhere_peerGrants (t : Group → Wait → Bool) : (s.wakeWhere t).peerGrants = s.peerGrants := rfl
@[simp] theorem State.wakeWhere_peerLeases (t : Group → Wait → Bool) : (s.wakeWhere t).peerLeases = s.peerLeases := rfl
@[simp] theorem State.wakeWhere_castQueues (t : Group → Wait → Bool) : (s.wakeWhere t).castQueues = s.castQueues := rfl
@[simp] theorem State.wakeWhere_ports (t : Group → Wait → Bool) : (s.wakeWhere t).ports = s.ports := rfl
@[simp] theorem State.wakeWhere_routes (t : Group → Wait → Bool) : (s.wakeWhere t).routes = s.routes := rfl
@[simp] theorem State.wakeWhere_station (t : Group → Wait → Bool) : (s.wakeWhere t).station = s.station := rfl
@[simp] theorem State.wakeWhere_pwrCap (t : Group → Wait → Bool) : (s.wakeWhere t).pwrCap = s.pwrCap := rfl
@[simp] theorem State.wakeWhere_pwrIdle (t : Group → Wait → Bool) : (s.wakeWhere t).pwrIdle = s.pwrIdle := rfl
@[simp] theorem State.wakeWhere_pwrUncore (t : Group → Wait → Bool) : (s.wakeWhere t).pwrUncore = s.pwrUncore := rfl
@[simp] theorem State.wakeWhere_capBelowFloors (t : Group → Wait → Bool) : (s.wakeWhere t).capBelowFloors = s.capBelowFloors := rfl
@[simp] theorem State.wakeWhere_capUnreachable (t : Group → Wait → Bool) : (s.wakeWhere t).capUnreachable = s.capUnreachable := rfl
@[simp] theorem State.wakeWhere_nextMeter (t : Group → Wait → Bool) : (s.wakeWhere t).nextMeter = s.nextMeter := rfl
@[simp] theorem State.wakeWhere_nextFrame (t : Group → Wait → Bool) : (s.wakeWhere t).nextFrame = s.nextFrame := rfl
@[simp] theorem State.wakeWhere_lastRead (t : Group → Wait → Bool) : (s.wakeWhere t).lastRead = s.lastRead := rfl
@[simp] theorem State.wakeWhere_outbox (t : Group → Wait → Bool) : (s.wakeWhere t).outbox = s.outbox := rfl
@[simp] theorem State.wakeWhere_held (t : Group → Wait → Bool) : (s.wakeWhere t).held = s.held := rfl

/-! ## stopGroups -/

@[simp] theorem State.stopGroups_ticks (c : Nat) : (s.stopGroups c).ticks = s.ticks := rfl
@[simp] theorem State.stopGroups_moduleNo (c : Nat) : (s.stopGroups c).moduleNo = s.moduleNo := rfl
@[simp] theorem State.stopGroups_timeMaster (c : Nat) : (s.stopGroups c).timeMaster = s.timeMaster := rfl
@[simp] theorem State.stopGroups_timeLost (c : Nat) : (s.stopGroups c).timeLost = s.timeLost := rfl
@[simp] theorem State.stopGroups_gBase (c : Nat) : (s.stopGroups c).gBase = s.gBase := rfl
@[simp] theorem State.stopGroups_gTick (c : Nat) : (s.stopGroups c).gTick = s.gTick := rfl
@[simp] theorem State.stopGroups_gLag (c : Nat) : (s.stopGroups c).gLag = s.gLag := rfl
@[simp] theorem State.stopGroups_turns (c : Nat) : (s.stopGroups c).turns = s.turns := rfl
@[simp] theorem State.stopGroups_cur (c : Nat) : (s.stopGroups c).cur = s.cur := rfl
@[simp] theorem State.stopGroups_nextId (c : Nat) : (s.stopGroups c).nextId = s.nextId := rfl
@[simp] theorem State.stopGroups_nextCore (c : Nat) : (s.stopGroups c).nextCore = s.nextCore := rfl
@[simp] theorem State.stopGroups_configBlock (c : Nat) : (s.stopGroups c).configBlock = s.configBlock := rfl
@[simp] theorem State.stopGroups_parts (c : Nat) : (s.stopGroups c).parts = s.parts := rfl
@[simp] theorem State.stopGroups_vfs (c : Nat) : (s.stopGroups c).vfs = s.vfs := rfl
@[simp] theorem State.stopGroups_contexts (c : Nat) : (s.stopGroups c).contexts = s.contexts := rfl
@[simp] theorem State.stopGroups_launches (c : Nat) : (s.stopGroups c).launches = s.launches := rfl
@[simp] theorem State.stopGroups_blocks (c : Nat) : (s.stopGroups c).blocks = s.blocks := rfl
@[simp] theorem State.stopGroups_clusters (c : Nat) : (s.stopGroups c).clusters = s.clusters := rfl
@[simp] theorem State.stopGroups_mem (c : Nat) : (s.stopGroups c).mem = s.mem := rfl
@[simp] theorem State.stopGroups_poison (c : Nat) : (s.stopGroups c).poison = s.poison := rfl
@[simp] theorem State.stopGroups_homeLines (c : Nat) : (s.stopGroups c).homeLines = s.homeLines := rfl
@[simp] theorem State.stopGroups_pending (c : Nat) : (s.stopGroups c).pending = s.pending := rfl
@[simp] theorem State.stopGroups_flights (c : Nat) : (s.stopGroups c).flights = s.flights := rfl
@[simp] theorem State.stopGroups_l2 (c : Nat) : (s.stopGroups c).l2 = s.l2 := rfl
@[simp] theorem State.stopGroups_wayFills (c : Nat) : (s.stopGroups c).wayFills = s.wayFills := rfl
@[simp] theorem State.stopGroups_manifests (c : Nat) : (s.stopGroups c).manifests = s.manifests := rfl
@[simp] theorem State.stopGroups_fetches (c : Nat) : (s.stopGroups c).fetches = s.fetches := rfl
@[simp] theorem State.stopGroups_replays (c : Nat) : (s.stopGroups c).replays = s.replays := rfl
@[simp] theorem State.stopGroups_swaps (c : Nat) : (s.stopGroups c).swaps = s.swaps := rfl
@[simp] theorem State.stopGroups_tuples (c : Nat) : (s.stopGroups c).tuples = s.tuples := rfl
@[simp] theorem State.stopGroups_tupleReqs (c : Nat) : (s.stopGroups c).tupleReqs = s.tupleReqs := rfl
@[simp] theorem State.stopGroups_depositSeq (c : Nat) : (s.stopGroups c).depositSeq = s.depositSeq := rfl
@[simp] theorem State.stopGroups_tupleOrder (c : Nat) : (s.stopGroups c).tupleOrder = s.tupleOrder := rfl
@[simp] theorem State.stopGroups_tlb (c : Nat) : (s.stopGroups c).tlb = s.tlb := rfl
@[simp] theorem State.stopGroups_shootdowns (c : Nat) : (s.stopGroups c).shootdowns = s.shootdowns := rfl
@[simp] theorem State.stopGroups_rowResets (c : Nat) : (s.stopGroups c).rowResets = s.rowResets := rfl
@[simp] theorem State.stopGroups_peerGrants (c : Nat) : (s.stopGroups c).peerGrants = s.peerGrants := rfl
@[simp] theorem State.stopGroups_peerLeases (c : Nat) : (s.stopGroups c).peerLeases = s.peerLeases := rfl
@[simp] theorem State.stopGroups_castQueues (c : Nat) : (s.stopGroups c).castQueues = s.castQueues := rfl
@[simp] theorem State.stopGroups_ports (c : Nat) : (s.stopGroups c).ports = s.ports := rfl
@[simp] theorem State.stopGroups_routes (c : Nat) : (s.stopGroups c).routes = s.routes := rfl
@[simp] theorem State.stopGroups_station (c : Nat) : (s.stopGroups c).station = s.station := rfl
@[simp] theorem State.stopGroups_pwrCap (c : Nat) : (s.stopGroups c).pwrCap = s.pwrCap := rfl
@[simp] theorem State.stopGroups_pwrIdle (c : Nat) : (s.stopGroups c).pwrIdle = s.pwrIdle := rfl
@[simp] theorem State.stopGroups_pwrUncore (c : Nat) : (s.stopGroups c).pwrUncore = s.pwrUncore := rfl
@[simp] theorem State.stopGroups_capBelowFloors (c : Nat) : (s.stopGroups c).capBelowFloors = s.capBelowFloors := rfl
@[simp] theorem State.stopGroups_capUnreachable (c : Nat) : (s.stopGroups c).capUnreachable = s.capUnreachable := rfl
@[simp] theorem State.stopGroups_nextMeter (c : Nat) : (s.stopGroups c).nextMeter = s.nextMeter := rfl
@[simp] theorem State.stopGroups_nextFrame (c : Nat) : (s.stopGroups c).nextFrame = s.nextFrame := rfl
@[simp] theorem State.stopGroups_lastRead (c : Nat) : (s.stopGroups c).lastRead = s.lastRead := rfl
@[simp] theorem State.stopGroups_outbox (c : Nat) : (s.stopGroups c).outbox = s.outbox := rfl
@[simp] theorem State.stopGroups_held (c : Nat) : (s.stopGroups c).held = s.held := rfl

/-! ## setFifo -/

@[simp] theorem State.setFifo_ticks (c : Nat) (f : Fifo) : (s.setFifo c f).ticks = s.ticks := rfl
@[simp] theorem State.setFifo_moduleNo (c : Nat) (f : Fifo) : (s.setFifo c f).moduleNo = s.moduleNo := rfl
@[simp] theorem State.setFifo_timeMaster (c : Nat) (f : Fifo) : (s.setFifo c f).timeMaster = s.timeMaster := rfl
@[simp] theorem State.setFifo_timeLost (c : Nat) (f : Fifo) : (s.setFifo c f).timeLost = s.timeLost := rfl
@[simp] theorem State.setFifo_gBase (c : Nat) (f : Fifo) : (s.setFifo c f).gBase = s.gBase := rfl
@[simp] theorem State.setFifo_gTick (c : Nat) (f : Fifo) : (s.setFifo c f).gTick = s.gTick := rfl
@[simp] theorem State.setFifo_gLag (c : Nat) (f : Fifo) : (s.setFifo c f).gLag = s.gLag := rfl
@[simp] theorem State.setFifo_turns (c : Nat) (f : Fifo) : (s.setFifo c f).turns = s.turns := rfl
@[simp] theorem State.setFifo_cur (c : Nat) (f : Fifo) : (s.setFifo c f).cur = s.cur := rfl
@[simp] theorem State.setFifo_nextId (c : Nat) (f : Fifo) : (s.setFifo c f).nextId = s.nextId := rfl
@[simp] theorem State.setFifo_nextCore (c : Nat) (f : Fifo) : (s.setFifo c f).nextCore = s.nextCore := rfl
@[simp] theorem State.setFifo_configBlock (c : Nat) (f : Fifo) : (s.setFifo c f).configBlock = s.configBlock := rfl
@[simp] theorem State.setFifo_parts (c : Nat) (f : Fifo) : (s.setFifo c f).parts = s.parts := rfl
@[simp] theorem State.setFifo_vfs (c : Nat) (f : Fifo) : (s.setFifo c f).vfs = s.vfs := rfl
@[simp] theorem State.setFifo_contexts (c : Nat) (f : Fifo) : (s.setFifo c f).contexts = s.contexts := rfl
@[simp] theorem State.setFifo_launches (c : Nat) (f : Fifo) : (s.setFifo c f).launches = s.launches := rfl
@[simp] theorem State.setFifo_blocks (c : Nat) (f : Fifo) : (s.setFifo c f).blocks = s.blocks := rfl
@[simp] theorem State.setFifo_groups (c : Nat) (f : Fifo) : (s.setFifo c f).groups = s.groups := rfl
@[simp] theorem State.setFifo_mem (c : Nat) (f : Fifo) : (s.setFifo c f).mem = s.mem := rfl
@[simp] theorem State.setFifo_poison (c : Nat) (f : Fifo) : (s.setFifo c f).poison = s.poison := rfl
@[simp] theorem State.setFifo_homeLines (c : Nat) (f : Fifo) : (s.setFifo c f).homeLines = s.homeLines := rfl
@[simp] theorem State.setFifo_pending (c : Nat) (f : Fifo) : (s.setFifo c f).pending = s.pending := rfl
@[simp] theorem State.setFifo_flights (c : Nat) (f : Fifo) : (s.setFifo c f).flights = s.flights := rfl
@[simp] theorem State.setFifo_l2 (c : Nat) (f : Fifo) : (s.setFifo c f).l2 = s.l2 := rfl
@[simp] theorem State.setFifo_wayFills (c : Nat) (f : Fifo) : (s.setFifo c f).wayFills = s.wayFills := rfl
@[simp] theorem State.setFifo_manifests (c : Nat) (f : Fifo) : (s.setFifo c f).manifests = s.manifests := rfl
@[simp] theorem State.setFifo_fetches (c : Nat) (f : Fifo) : (s.setFifo c f).fetches = s.fetches := rfl
@[simp] theorem State.setFifo_replays (c : Nat) (f : Fifo) : (s.setFifo c f).replays = s.replays := rfl
@[simp] theorem State.setFifo_swaps (c : Nat) (f : Fifo) : (s.setFifo c f).swaps = s.swaps := rfl
@[simp] theorem State.setFifo_tuples (c : Nat) (f : Fifo) : (s.setFifo c f).tuples = s.tuples := rfl
@[simp] theorem State.setFifo_tupleReqs (c : Nat) (f : Fifo) : (s.setFifo c f).tupleReqs = s.tupleReqs := rfl
@[simp] theorem State.setFifo_depositSeq (c : Nat) (f : Fifo) : (s.setFifo c f).depositSeq = s.depositSeq := rfl
@[simp] theorem State.setFifo_tupleOrder (c : Nat) (f : Fifo) : (s.setFifo c f).tupleOrder = s.tupleOrder := rfl
@[simp] theorem State.setFifo_tlb (c : Nat) (f : Fifo) : (s.setFifo c f).tlb = s.tlb := rfl
@[simp] theorem State.setFifo_shootdowns (c : Nat) (f : Fifo) : (s.setFifo c f).shootdowns = s.shootdowns := rfl
@[simp] theorem State.setFifo_rowResets (c : Nat) (f : Fifo) : (s.setFifo c f).rowResets = s.rowResets := rfl
@[simp] theorem State.setFifo_peerGrants (c : Nat) (f : Fifo) : (s.setFifo c f).peerGrants = s.peerGrants := rfl
@[simp] theorem State.setFifo_peerLeases (c : Nat) (f : Fifo) : (s.setFifo c f).peerLeases = s.peerLeases := rfl
@[simp] theorem State.setFifo_castQueues (c : Nat) (f : Fifo) : (s.setFifo c f).castQueues = s.castQueues := rfl
@[simp] theorem State.setFifo_ports (c : Nat) (f : Fifo) : (s.setFifo c f).ports = s.ports := rfl
@[simp] theorem State.setFifo_routes (c : Nat) (f : Fifo) : (s.setFifo c f).routes = s.routes := rfl
@[simp] theorem State.setFifo_station (c : Nat) (f : Fifo) : (s.setFifo c f).station = s.station := rfl
@[simp] theorem State.setFifo_pwrCap (c : Nat) (f : Fifo) : (s.setFifo c f).pwrCap = s.pwrCap := rfl
@[simp] theorem State.setFifo_pwrIdle (c : Nat) (f : Fifo) : (s.setFifo c f).pwrIdle = s.pwrIdle := rfl
@[simp] theorem State.setFifo_pwrUncore (c : Nat) (f : Fifo) : (s.setFifo c f).pwrUncore = s.pwrUncore := rfl
@[simp] theorem State.setFifo_capBelowFloors (c : Nat) (f : Fifo) : (s.setFifo c f).capBelowFloors = s.capBelowFloors := rfl
@[simp] theorem State.setFifo_capUnreachable (c : Nat) (f : Fifo) : (s.setFifo c f).capUnreachable = s.capUnreachable := rfl
@[simp] theorem State.setFifo_nextMeter (c : Nat) (f : Fifo) : (s.setFifo c f).nextMeter = s.nextMeter := rfl
@[simp] theorem State.setFifo_nextFrame (c : Nat) (f : Fifo) : (s.setFifo c f).nextFrame = s.nextFrame := rfl
@[simp] theorem State.setFifo_lastRead (c : Nat) (f : Fifo) : (s.setFifo c f).lastRead = s.lastRead := rfl
@[simp] theorem State.setFifo_outbox (c : Nat) (f : Fifo) : (s.setFifo c f).outbox = s.outbox := rfl
@[simp] theorem State.setFifo_held (c : Nat) (f : Fifo) : (s.setFifo c f).held = s.held := rfl

/-! ## charge: only the contexts -/

/-- Charging energy writes contexts and nothing else (R263). -/
theorem State.charge_only (c k n : Nat) : s.charge c k n = { s with contexts := (s.charge c k n).contexts } := by
  unfold State.charge
  split
  · rfl
  · split <;> rfl

@[simp] theorem State.charge_ticks (c k n : Nat) : (s.charge c k n).ticks = s.ticks := by rw [State.charge_only]
@[simp] theorem State.charge_moduleNo (c k n : Nat) : (s.charge c k n).moduleNo = s.moduleNo := by rw [State.charge_only]
@[simp] theorem State.charge_timeMaster (c k n : Nat) : (s.charge c k n).timeMaster = s.timeMaster := by rw [State.charge_only]
@[simp] theorem State.charge_timeLost (c k n : Nat) : (s.charge c k n).timeLost = s.timeLost := by rw [State.charge_only]
@[simp] theorem State.charge_gBase (c k n : Nat) : (s.charge c k n).gBase = s.gBase := by rw [State.charge_only]
@[simp] theorem State.charge_gTick (c k n : Nat) : (s.charge c k n).gTick = s.gTick := by rw [State.charge_only]
@[simp] theorem State.charge_gLag (c k n : Nat) : (s.charge c k n).gLag = s.gLag := by rw [State.charge_only]
@[simp] theorem State.charge_turns (c k n : Nat) : (s.charge c k n).turns = s.turns := by rw [State.charge_only]
@[simp] theorem State.charge_cur (c k n : Nat) : (s.charge c k n).cur = s.cur := by rw [State.charge_only]
@[simp] theorem State.charge_nextId (c k n : Nat) : (s.charge c k n).nextId = s.nextId := by rw [State.charge_only]
@[simp] theorem State.charge_nextCore (c k n : Nat) : (s.charge c k n).nextCore = s.nextCore := by rw [State.charge_only]
@[simp] theorem State.charge_configBlock (c k n : Nat) : (s.charge c k n).configBlock = s.configBlock := by rw [State.charge_only]
@[simp] theorem State.charge_parts (c k n : Nat) : (s.charge c k n).parts = s.parts := by rw [State.charge_only]
@[simp] theorem State.charge_vfs (c k n : Nat) : (s.charge c k n).vfs = s.vfs := by rw [State.charge_only]
@[simp] theorem State.charge_launches (c k n : Nat) : (s.charge c k n).launches = s.launches := by rw [State.charge_only]
@[simp] theorem State.charge_blocks (c k n : Nat) : (s.charge c k n).blocks = s.blocks := by rw [State.charge_only]
@[simp] theorem State.charge_groups (c k n : Nat) : (s.charge c k n).groups = s.groups := by rw [State.charge_only]
@[simp] theorem State.charge_clusters (c k n : Nat) : (s.charge c k n).clusters = s.clusters := by rw [State.charge_only]
@[simp] theorem State.charge_mem (c k n : Nat) : (s.charge c k n).mem = s.mem := by rw [State.charge_only]
@[simp] theorem State.charge_poison (c k n : Nat) : (s.charge c k n).poison = s.poison := by rw [State.charge_only]
@[simp] theorem State.charge_homeLines (c k n : Nat) : (s.charge c k n).homeLines = s.homeLines := by rw [State.charge_only]
@[simp] theorem State.charge_pending (c k n : Nat) : (s.charge c k n).pending = s.pending := by rw [State.charge_only]
@[simp] theorem State.charge_flights (c k n : Nat) : (s.charge c k n).flights = s.flights := by rw [State.charge_only]
@[simp] theorem State.charge_l2 (c k n : Nat) : (s.charge c k n).l2 = s.l2 := by rw [State.charge_only]
@[simp] theorem State.charge_wayFills (c k n : Nat) : (s.charge c k n).wayFills = s.wayFills := by rw [State.charge_only]
@[simp] theorem State.charge_manifests (c k n : Nat) : (s.charge c k n).manifests = s.manifests := by rw [State.charge_only]
@[simp] theorem State.charge_fetches (c k n : Nat) : (s.charge c k n).fetches = s.fetches := by rw [State.charge_only]
@[simp] theorem State.charge_replays (c k n : Nat) : (s.charge c k n).replays = s.replays := by rw [State.charge_only]
@[simp] theorem State.charge_swaps (c k n : Nat) : (s.charge c k n).swaps = s.swaps := by rw [State.charge_only]
@[simp] theorem State.charge_tuples (c k n : Nat) : (s.charge c k n).tuples = s.tuples := by rw [State.charge_only]
@[simp] theorem State.charge_tupleReqs (c k n : Nat) : (s.charge c k n).tupleReqs = s.tupleReqs := by rw [State.charge_only]
@[simp] theorem State.charge_depositSeq (c k n : Nat) : (s.charge c k n).depositSeq = s.depositSeq := by rw [State.charge_only]
@[simp] theorem State.charge_tupleOrder (c k n : Nat) : (s.charge c k n).tupleOrder = s.tupleOrder := by rw [State.charge_only]
@[simp] theorem State.charge_tlb (c k n : Nat) : (s.charge c k n).tlb = s.tlb := by rw [State.charge_only]
@[simp] theorem State.charge_shootdowns (c k n : Nat) : (s.charge c k n).shootdowns = s.shootdowns := by rw [State.charge_only]
@[simp] theorem State.charge_rowResets (c k n : Nat) : (s.charge c k n).rowResets = s.rowResets := by rw [State.charge_only]
@[simp] theorem State.charge_peerGrants (c k n : Nat) : (s.charge c k n).peerGrants = s.peerGrants := by rw [State.charge_only]
@[simp] theorem State.charge_peerLeases (c k n : Nat) : (s.charge c k n).peerLeases = s.peerLeases := by rw [State.charge_only]
@[simp] theorem State.charge_castQueues (c k n : Nat) : (s.charge c k n).castQueues = s.castQueues := by rw [State.charge_only]
@[simp] theorem State.charge_ports (c k n : Nat) : (s.charge c k n).ports = s.ports := by rw [State.charge_only]
@[simp] theorem State.charge_routes (c k n : Nat) : (s.charge c k n).routes = s.routes := by rw [State.charge_only]
@[simp] theorem State.charge_station (c k n : Nat) : (s.charge c k n).station = s.station := by rw [State.charge_only]
@[simp] theorem State.charge_pwrCap (c k n : Nat) : (s.charge c k n).pwrCap = s.pwrCap := by rw [State.charge_only]
@[simp] theorem State.charge_pwrIdle (c k n : Nat) : (s.charge c k n).pwrIdle = s.pwrIdle := by rw [State.charge_only]
@[simp] theorem State.charge_pwrUncore (c k n : Nat) : (s.charge c k n).pwrUncore = s.pwrUncore := by rw [State.charge_only]
@[simp] theorem State.charge_capBelowFloors (c k n : Nat) : (s.charge c k n).capBelowFloors = s.capBelowFloors := by rw [State.charge_only]
@[simp] theorem State.charge_capUnreachable (c k n : Nat) : (s.charge c k n).capUnreachable = s.capUnreachable := by rw [State.charge_only]
@[simp] theorem State.charge_nextMeter (c k n : Nat) : (s.charge c k n).nextMeter = s.nextMeter := by rw [State.charge_only]
@[simp] theorem State.charge_nextFrame (c k n : Nat) : (s.charge c k n).nextFrame = s.nextFrame := by rw [State.charge_only]
@[simp] theorem State.charge_lastRead (c k n : Nat) : (s.charge c k n).lastRead = s.lastRead := by rw [State.charge_only]
@[simp] theorem State.charge_outbox (c k n : Nat) : (s.charge c k n).outbox = s.outbox := by rw [State.charge_only]
@[simp] theorem State.charge_held (c k n : Nat) : (s.charge c k n).held = s.held := by rw [State.charge_only]

/-! ## finishAt: groups and contexts -/

/-- Completing a word writes groups and contexts and nothing else. -/
theorem State.finishAt_only (g : Group) (b : Bool) (pc : Word) (c : Chain) (k : Nat) :
    s.finishAt g b pc c k =
      { s with groups := (s.finishAt g b pc c k).groups, contexts := (s.finishAt g b pc c k).contexts } := by
  unfold State.finishAt
  rw [State.charge_only]
  rfl

@[simp] theorem State.finishAt_ticks (g : Group) (b : Bool) (pc : Word) (c : Chain) (k : Nat) :
    (s.finishAt g b pc c k).ticks = s.ticks := by rw [State.finishAt_only]
@[simp] theorem State.finishAt_moduleNo (g : Group) (b : Bool) (pc : Word) (c : Chain) (k : Nat) :
    (s.finishAt g b pc c k).moduleNo = s.moduleNo := by rw [State.finishAt_only]
@[simp] theorem State.finishAt_timeMaster (g : Group) (b : Bool) (pc : Word) (c : Chain) (k : Nat) :
    (s.finishAt g b pc c k).timeMaster = s.timeMaster := by rw [State.finishAt_only]
@[simp] theorem State.finishAt_timeLost (g : Group) (b : Bool) (pc : Word) (c : Chain) (k : Nat) :
    (s.finishAt g b pc c k).timeLost = s.timeLost := by rw [State.finishAt_only]
@[simp] theorem State.finishAt_gBase (g : Group) (b : Bool) (pc : Word) (c : Chain) (k : Nat) :
    (s.finishAt g b pc c k).gBase = s.gBase := by rw [State.finishAt_only]
@[simp] theorem State.finishAt_gTick (g : Group) (b : Bool) (pc : Word) (c : Chain) (k : Nat) :
    (s.finishAt g b pc c k).gTick = s.gTick := by rw [State.finishAt_only]
@[simp] theorem State.finishAt_gLag (g : Group) (b : Bool) (pc : Word) (c : Chain) (k : Nat) :
    (s.finishAt g b pc c k).gLag = s.gLag := by rw [State.finishAt_only]
@[simp] theorem State.finishAt_turns (g : Group) (b : Bool) (pc : Word) (c : Chain) (k : Nat) :
    (s.finishAt g b pc c k).turns = s.turns := by rw [State.finishAt_only]
@[simp] theorem State.finishAt_cur (g : Group) (b : Bool) (pc : Word) (c : Chain) (k : Nat) :
    (s.finishAt g b pc c k).cur = s.cur := by rw [State.finishAt_only]
@[simp] theorem State.finishAt_nextId (g : Group) (b : Bool) (pc : Word) (c : Chain) (k : Nat) :
    (s.finishAt g b pc c k).nextId = s.nextId := by rw [State.finishAt_only]
@[simp] theorem State.finishAt_nextCore (g : Group) (b : Bool) (pc : Word) (c : Chain) (k : Nat) :
    (s.finishAt g b pc c k).nextCore = s.nextCore := by rw [State.finishAt_only]
@[simp] theorem State.finishAt_configBlock (g : Group) (b : Bool) (pc : Word) (c : Chain) (k : Nat) :
    (s.finishAt g b pc c k).configBlock = s.configBlock := by rw [State.finishAt_only]
@[simp] theorem State.finishAt_parts (g : Group) (b : Bool) (pc : Word) (c : Chain) (k : Nat) :
    (s.finishAt g b pc c k).parts = s.parts := by rw [State.finishAt_only]
@[simp] theorem State.finishAt_vfs (g : Group) (b : Bool) (pc : Word) (c : Chain) (k : Nat) :
    (s.finishAt g b pc c k).vfs = s.vfs := by rw [State.finishAt_only]
@[simp] theorem State.finishAt_launches (g : Group) (b : Bool) (pc : Word) (c : Chain) (k : Nat) :
    (s.finishAt g b pc c k).launches = s.launches := by rw [State.finishAt_only]
@[simp] theorem State.finishAt_blocks (g : Group) (b : Bool) (pc : Word) (c : Chain) (k : Nat) :
    (s.finishAt g b pc c k).blocks = s.blocks := by rw [State.finishAt_only]
@[simp] theorem State.finishAt_clusters (g : Group) (b : Bool) (pc : Word) (c : Chain) (k : Nat) :
    (s.finishAt g b pc c k).clusters = s.clusters := by rw [State.finishAt_only]
@[simp] theorem State.finishAt_mem (g : Group) (b : Bool) (pc : Word) (c : Chain) (k : Nat) :
    (s.finishAt g b pc c k).mem = s.mem := by rw [State.finishAt_only]
@[simp] theorem State.finishAt_poison (g : Group) (b : Bool) (pc : Word) (c : Chain) (k : Nat) :
    (s.finishAt g b pc c k).poison = s.poison := by rw [State.finishAt_only]
@[simp] theorem State.finishAt_homeLines (g : Group) (b : Bool) (pc : Word) (c : Chain) (k : Nat) :
    (s.finishAt g b pc c k).homeLines = s.homeLines := by rw [State.finishAt_only]
@[simp] theorem State.finishAt_pending (g : Group) (b : Bool) (pc : Word) (c : Chain) (k : Nat) :
    (s.finishAt g b pc c k).pending = s.pending := by rw [State.finishAt_only]
@[simp] theorem State.finishAt_flights (g : Group) (b : Bool) (pc : Word) (c : Chain) (k : Nat) :
    (s.finishAt g b pc c k).flights = s.flights := by rw [State.finishAt_only]
@[simp] theorem State.finishAt_l2 (g : Group) (b : Bool) (pc : Word) (c : Chain) (k : Nat) :
    (s.finishAt g b pc c k).l2 = s.l2 := by rw [State.finishAt_only]
@[simp] theorem State.finishAt_wayFills (g : Group) (b : Bool) (pc : Word) (c : Chain) (k : Nat) :
    (s.finishAt g b pc c k).wayFills = s.wayFills := by rw [State.finishAt_only]
@[simp] theorem State.finishAt_manifests (g : Group) (b : Bool) (pc : Word) (c : Chain) (k : Nat) :
    (s.finishAt g b pc c k).manifests = s.manifests := by rw [State.finishAt_only]
@[simp] theorem State.finishAt_fetches (g : Group) (b : Bool) (pc : Word) (c : Chain) (k : Nat) :
    (s.finishAt g b pc c k).fetches = s.fetches := by rw [State.finishAt_only]
@[simp] theorem State.finishAt_replays (g : Group) (b : Bool) (pc : Word) (c : Chain) (k : Nat) :
    (s.finishAt g b pc c k).replays = s.replays := by rw [State.finishAt_only]
@[simp] theorem State.finishAt_swaps (g : Group) (b : Bool) (pc : Word) (c : Chain) (k : Nat) :
    (s.finishAt g b pc c k).swaps = s.swaps := by rw [State.finishAt_only]
@[simp] theorem State.finishAt_tuples (g : Group) (b : Bool) (pc : Word) (c : Chain) (k : Nat) :
    (s.finishAt g b pc c k).tuples = s.tuples := by rw [State.finishAt_only]
@[simp] theorem State.finishAt_tupleReqs (g : Group) (b : Bool) (pc : Word) (c : Chain) (k : Nat) :
    (s.finishAt g b pc c k).tupleReqs = s.tupleReqs := by rw [State.finishAt_only]
@[simp] theorem State.finishAt_depositSeq (g : Group) (b : Bool) (pc : Word) (c : Chain) (k : Nat) :
    (s.finishAt g b pc c k).depositSeq = s.depositSeq := by rw [State.finishAt_only]
@[simp] theorem State.finishAt_tupleOrder (g : Group) (b : Bool) (pc : Word) (c : Chain) (k : Nat) :
    (s.finishAt g b pc c k).tupleOrder = s.tupleOrder := by rw [State.finishAt_only]
@[simp] theorem State.finishAt_tlb (g : Group) (b : Bool) (pc : Word) (c : Chain) (k : Nat) :
    (s.finishAt g b pc c k).tlb = s.tlb := by rw [State.finishAt_only]
@[simp] theorem State.finishAt_shootdowns (g : Group) (b : Bool) (pc : Word) (c : Chain) (k : Nat) :
    (s.finishAt g b pc c k).shootdowns = s.shootdowns := by rw [State.finishAt_only]
@[simp] theorem State.finishAt_rowResets (g : Group) (b : Bool) (pc : Word) (c : Chain) (k : Nat) :
    (s.finishAt g b pc c k).rowResets = s.rowResets := by rw [State.finishAt_only]
@[simp] theorem State.finishAt_peerGrants (g : Group) (b : Bool) (pc : Word) (c : Chain) (k : Nat) :
    (s.finishAt g b pc c k).peerGrants = s.peerGrants := by rw [State.finishAt_only]
@[simp] theorem State.finishAt_peerLeases (g : Group) (b : Bool) (pc : Word) (c : Chain) (k : Nat) :
    (s.finishAt g b pc c k).peerLeases = s.peerLeases := by rw [State.finishAt_only]
@[simp] theorem State.finishAt_castQueues (g : Group) (b : Bool) (pc : Word) (c : Chain) (k : Nat) :
    (s.finishAt g b pc c k).castQueues = s.castQueues := by rw [State.finishAt_only]
@[simp] theorem State.finishAt_ports (g : Group) (b : Bool) (pc : Word) (c : Chain) (k : Nat) :
    (s.finishAt g b pc c k).ports = s.ports := by rw [State.finishAt_only]
@[simp] theorem State.finishAt_routes (g : Group) (b : Bool) (pc : Word) (c : Chain) (k : Nat) :
    (s.finishAt g b pc c k).routes = s.routes := by rw [State.finishAt_only]
@[simp] theorem State.finishAt_station (g : Group) (b : Bool) (pc : Word) (c : Chain) (k : Nat) :
    (s.finishAt g b pc c k).station = s.station := by rw [State.finishAt_only]
@[simp] theorem State.finishAt_pwrCap (g : Group) (b : Bool) (pc : Word) (c : Chain) (k : Nat) :
    (s.finishAt g b pc c k).pwrCap = s.pwrCap := by rw [State.finishAt_only]
@[simp] theorem State.finishAt_pwrIdle (g : Group) (b : Bool) (pc : Word) (c : Chain) (k : Nat) :
    (s.finishAt g b pc c k).pwrIdle = s.pwrIdle := by rw [State.finishAt_only]
@[simp] theorem State.finishAt_pwrUncore (g : Group) (b : Bool) (pc : Word) (c : Chain) (k : Nat) :
    (s.finishAt g b pc c k).pwrUncore = s.pwrUncore := by rw [State.finishAt_only]
@[simp] theorem State.finishAt_capBelowFloors (g : Group) (b : Bool) (pc : Word) (c : Chain) (k : Nat) :
    (s.finishAt g b pc c k).capBelowFloors = s.capBelowFloors := by rw [State.finishAt_only]
@[simp] theorem State.finishAt_capUnreachable (g : Group) (b : Bool) (pc : Word) (c : Chain) (k : Nat) :
    (s.finishAt g b pc c k).capUnreachable = s.capUnreachable := by rw [State.finishAt_only]
@[simp] theorem State.finishAt_nextMeter (g : Group) (b : Bool) (pc : Word) (c : Chain) (k : Nat) :
    (s.finishAt g b pc c k).nextMeter = s.nextMeter := by rw [State.finishAt_only]
@[simp] theorem State.finishAt_nextFrame (g : Group) (b : Bool) (pc : Word) (c : Chain) (k : Nat) :
    (s.finishAt g b pc c k).nextFrame = s.nextFrame := by rw [State.finishAt_only]
@[simp] theorem State.finishAt_lastRead (g : Group) (b : Bool) (pc : Word) (c : Chain) (k : Nat) :
    (s.finishAt g b pc c k).lastRead = s.lastRead := by rw [State.finishAt_only]
@[simp] theorem State.finishAt_outbox (g : Group) (b : Bool) (pc : Word) (c : Chain) (k : Nat) :
    (s.finishAt g b pc c k).outbox = s.outbox := by rw [State.finishAt_only]
@[simp] theorem State.finishAt_held (g : Group) (b : Bool) (pc : Word) (c : Chain) (k : Nat) :
    (s.finishAt g b pc c k).held = s.held := by rw [State.finishAt_only]

/-! ## pass: the time, and what falls due meanwhile -/

/-- The accounts of epochs write contexts and partitions alone (R264). -/
theorem State.chargeEpochs_only (cl core k : Nat) (l : List Nat) : s.chargeEpochs cl core k l =
    { s with contexts := (s.chargeEpochs cl core k l).contexts, parts := (s.chargeEpochs cl core k l).parts } := by
  have slots : ∀ (f : Context → Context) (l : List Nat) (s : State),
      l.foldl (fun s x => s.modCtx x f) s = { s with contexts := (l.foldl (fun s x => s.modCtx x f) s).contexts } := by
    intro f l
    induction l with
    | nil => intro s; rfl
    | cons x l ih => intro s; exact ih _
  unfold State.chargeEpochs
  split
  · rfl
  · dsimp only
    rw [slots]
    split <;> rfl

/-- Epochs write the accounts, and the counts of their core (R264). -/
theorem State.endEpochs_only (cl core k : Nat) : s.endEpochs cl core k =
    { s with contexts := (s.endEpochs cl core k).contexts, clusters := (s.endEpochs cl core k).clusters,
             parts := (s.endEpochs cl core k).parts } := by
  unfold State.endEpochs
  dsimp only
  rw [State.chargeEpochs_only, State.chargeEpochs_only]
  rfl

theorem State.settleEpochs_only : s.settleEpochs =
    { s with contexts := s.settleEpochs.contexts, clusters := s.settleEpochs.clusters, parts := s.settleEpochs.parts } := by
  unfold State.settleEpochs
  generalize s.dueEpochs = l
  induction l generalizing s with
  | nil => rfl
  | cons x l ih =>
    simp only [List.foldl_cons]
    refine (ih (s.endEpochs x.1 x.2.1 x.2.2)).trans ?_
    generalize List.foldl (fun s (x : Nat × Nat × Nat) => State.endEpochs s x.1 x.2.1 x.2.2) (s.endEpochs x.1 x.2.1 x.2.2) l = u
    rw [State.endEpochs_only]

/-- The clock and the inputs of a state are those of another. -/
structure State.SameClock (s t : State) : Prop where
  ticks : t.ticks = s.ticks
  gBase : t.gBase = s.gBase
  gTick : t.gTick = s.gTick
  gLag : t.gLag = s.gLag
  turns : t.turns = s.turns

theorem State.SameClock.refl : s.SameClock s := ⟨rfl, rfl, rfl, rfl, rfl⟩

theorem State.SameClock.trans {s t u : State} (h : s.SameClock t) (k : t.SameClock u) : s.SameClock u :=
  ⟨k.ticks.trans h.ticks, k.gBase.trans h.gBase, k.gTick.trans h.gTick, k.gLag.trans h.gLag, k.turns.trans h.turns⟩

theorem State.SameClock.skip {s t : State} (h : s.SameClock t) : s.SameClock t.skip := ⟨h.ticks, h.gBase, h.gTick, h.gLag, h.turns⟩

theorem State.try_sameClock (m : Move) : s.SameClock (s.try m) := ⟨rfl, rfl, rfl, rfl, rfl⟩

theorem sameClock_foldl {α : Type} (f : State → α → State) (h : ∀ s x, State.SameClock s (f s x)) (l : List α) (s : State) :
    s.SameClock (l.foldl f s) := by
  induction l generalizing s with
  | nil => exact .refl s
  | cons x l ih => exact (h s x).trans (ih _)

theorem State.SameClock.try {s t : State} (h : s.SameClock t) (m : Move) : s.SameClock (t.try m) := h.trans (t.try_sameClock m)

theorem State.SameClock.bitmaps {s t : State} (h : s.SameClock t) (cl : Nat) : s.SameClock (t.readBitmaps cl) :=
  h.trans (sameClock_foldl _ (fun s _ => s.try_sameClock _) _ t)

theorem dueCluster_sameClock (cl : Nat) : s.SameClock (dueCluster cl s) := by
  have h := ((((State.SameClock.refl s).try (State.readSides cl)).try (onPassComplete cl)).try (onPassComplete cl)).bitmaps cl
  exact ((((h.try (onPassGrant cl)).try (onFactorMatrixComplete cl)).try (onFactorCommandStart cl)).try
    (onThrottleDrainTimeout cl)).try (onPoolReassignDone cl)

theorem State.runLoops_sameClock : s.SameClock s.runLoops :=
  ((sameClock_foldl _ (fun s c => (((State.SameClock.refl s).try (onMergeCountDeadline c)).try (onMergeResultDeadline c)).try (onLoopBoundary c))
    _ s).trans (sameClock_foldl _ (fun s p => ((State.SameClock.refl s).try (onGrantsInForce p)).try (onAllocation p)) _ _)).try onLinkFrameStart

theorem State.runDue_sameClock : s.SameClock s.runDue :=
  ((((sameClock_foldl _ (fun s x => dueCluster_sameClock s x) _ s).trans (sameClock_foldl _ (fun s _ => s.try_sameClock _) _ _)).trans
    (sameClock_foldl _ (fun s _ => s.try_sameClock _) _ _)).trans (sameClock_foldl _ (fun s _ => s.try_sameClock _) _ _)).trans
    (State.runLoops_sameClock _)

theorem State.settleEpochs_sameClock : s.SameClock s.settleEpochs := by
  rw [State.settleEpochs_only]
  exact ⟨rfl, rfl, rfl, rfl, rfl⟩

theorem State.overdue_sameClock : s.SameClock s.overdue := by
  have h := s.settleEpochs_sameClock
  unfold State.overdue
  dsimp only
  split <;> split
  · exact ((h.try _).try _).skip
  · exact (h.try _).skip
  · exact (h.try _).skip
  · exact h.skip

/-- A state is another at a later tick, as far as the clock and the inputs go. -/
structure State.ClockAt (s t : State) (n : Nat) : Prop where
  ticks : t.ticks = n
  gBase : t.gBase = s.gBase
  gTick : t.gTick = s.gTick
  gLag : t.gLag = s.gLag
  turns : t.turns = s.turns

theorem State.clockAt_clock (n : Nat) : s.ClockAt (s.clockAt n) n :=
  let h := State.overdue_sameClock { s.notEligible n with ticks := n }
  ⟨h.ticks, h.gBase, h.gTick, h.gLag, h.turns⟩

theorem State.runTo_clock (t n : Nat) : s.ClockAt (s.runTo t n) t := by
  induction n generalizing s with
  | zero => exact s.clockAt_clock t
  | succ n ih =>
    have h := s.runDue_sameClock
    unfold State.runTo
    dsimp only
    split
    · rename_i d _
      have a := s.runDue.clockAt_clock d
      have b := ih (s.runDue.clockAt d)
      exact ⟨b.ticks, b.gBase.trans (a.gBase.trans h.gBase), b.gTick.trans (a.gTick.trans h.gTick), b.gLag.trans (a.gLag.trans h.gLag),
        b.turns.trans (a.turns.trans h.turns)⟩
    · have a := s.runDue.clockAt_clock t
      exact ⟨a.ticks, a.gBase.trans h.gBase, a.gTick.trans h.gTick, a.gLag.trans h.gLag, a.turns.trans h.turns⟩

/-- Time passes: the clock is at the end of it, and the inputs stay. -/
theorem State.pass_clock (dt : Nat) : s.ClockAt (s.pass dt) (s.ticks + dt) := by
  unfold State.pass
  split
  · rename_i h
    subst h
    exact ⟨rfl, rfl, rfl, rfl, rfl⟩
  · exact s.runTo_clock _ _

@[simp] theorem State.pass_zero : s.pass 0 = s := rfl
@[simp] theorem State.pass_ticks (dt : Nat) : (s.pass dt).ticks = s.ticks + dt := (s.pass_clock dt).ticks
@[simp] theorem State.pass_gBase (dt : Nat) : (s.pass dt).gBase = s.gBase := (s.pass_clock dt).gBase
@[simp] theorem State.pass_gTick (dt : Nat) : (s.pass dt).gTick = s.gTick := (s.pass_clock dt).gTick
@[simp] theorem State.pass_gLag (dt : Nat) : (s.pass dt).gLag = s.gLag := (s.pass_clock dt).gLag
@[simp] theorem State.pass_turns (dt : Nat) : (s.pass dt).turns = s.turns := (s.pass_clock dt).turns

variable (g : Group)

/-! ## setG -/

@[simp] theorem Group.setG_id (r : Nat) (w : Word) : (g.setG r w).id = g.id := rfl
@[simp] theorem Group.setG_ctx (r : Nat) (w : Word) : (g.setG r w).ctx = g.ctx := rfl
@[simp] theorem Group.setG_vf (r : Nat) (w : Word) : (g.setG r w).vf = g.vf := rfl
@[simp] theorem Group.setG_launch (r : Nat) (w : Word) : (g.setG r w).launch = g.launch := rfl
@[simp] theorem Group.setG_block (r : Nat) (w : Word) : (g.setG r w).block = g.block := rfl
@[simp] theorem Group.setG_index (r : Nat) (w : Word) : (g.setG r w).index = g.index := rfl
@[simp] theorem Group.setG_secure (r : Nat) (w : Word) : (g.setG r w).secure = g.secure := rfl
@[simp] theorem Group.setG_cluster (r : Nat) (w : Word) : (g.setG r w).cluster = g.cluster := rfl
@[simp] theorem Group.setG_core (r : Nat) (w : Word) : (g.setG r w).core = g.core := rfl
@[simp] theorem Group.setG_slot (r : Nat) (w : Word) : (g.setG r w).slot = g.slot := rfl
@[simp] theorem Group.setG_vCount (r : Nat) (w : Word) : (g.setG r w).vCount = g.vCount := rfl
@[simp] theorem Group.setG_gCount (r : Nat) (w : Word) : (g.setG r w).gCount = g.gCount := rfl
@[simp] theorem Group.setG_v (r : Nat) (w : Word) : (g.setG r w).v = g.v := rfl
@[simp] theorem Group.setG_areg (r : Nat) (w : Word) : (g.setG r w).areg = g.areg := rfl
@[simp] theorem Group.setG_wreg (r : Nat) (w : Word) : (g.setG r w).wreg = g.wreg := rfl
@[simp] theorem Group.setG_qreg (r : Nat) (w : Word) : (g.setG r w).qreg = g.qreg := rfl
@[simp] theorem Group.setG_path0 (r : Nat) (w : Word) : (g.setG r w).path0 = g.path0 := rfl
@[simp] theorem Group.setG_path1 (r : Nat) (w : Word) : (g.setG r w).path1 = g.path1 := rfl
@[simp] theorem Group.setG_real (r : Nat) (w : Word) : (g.setG r w).real = g.real := rfl
@[simp] theorem Group.setG_helper (r : Nat) (w : Word) : (g.setG r w).helper = g.helper := rfl
@[simp] theorem Group.setG_exited (r : Nat) (w : Word) : (g.setG r w).exited = g.exited := rfl
@[simp] theorem Group.setG_stack (r : Nat) (w : Word) : (g.setG r w).stack = g.stack := rfl
@[simp] theorem Group.setG_stackCap (r : Nat) (w : Word) : (g.setG r w).stackCap = g.stackCap := rfl
@[simp] theorem Group.setG_stackPsn (r : Nat) (w : Word) : (g.setG r w).stackPsn = g.stackPsn := rfl
@[simp] theorem Group.setG_trap (r : Nat) (w : Word) : (g.setG r w).trap = g.trap := rfl
@[simp] theorem Group.setG_ret (r : Nat) (w : Word) : (g.setG r w).ret = g.ret := rfl
@[simp] theorem Group.setG_timeSnap (r : Nat) (w : Word) : (g.setG r w).timeSnap = g.timeSnap := rfl
@[simp] theorem Group.setG_enSnap (r : Nat) (w : Word) : (g.setG r w).enSnap = g.enSnap := rfl
@[simp] theorem Group.setG_horizons (r : Nat) (w : Word) : (g.setG r w).horizons = g.horizons := rfl
@[simp] theorem Group.setG_outstanding (r : Nat) (w : Word) : (g.setG r w).outstanding = g.outstanding := rfl
@[simp] theorem Group.setG_psnOps (r : Nat) (w : Word) : (g.setG r w).psnOps = g.psnOps := rfl
@[simp] theorem Group.setG_accRuns (r : Nat) (w : Word) : (g.setG r w).accRuns = g.accRuns := rfl
@[simp] theorem Group.setG_acc (r : Nat) (w : Word) : (g.setG r w).acc = g.acc := rfl
@[simp] theorem Group.setG_accHit (r : Nat) (w : Word) : (g.setG r w).accHit = g.accHit := rfl
@[simp] theorem Group.setG_batchNext (r : Nat) (w : Word) : (g.setG r w).batchNext = g.batchNext := rfl
@[simp] theorem Group.setG_batches (r : Nat) (w : Word) : (g.setG r w).batches = g.batches := rfl
@[simp] theorem Group.setG_triggered (r : Nat) (w : Word) : (g.setG r w).triggered = g.triggered := rfl
@[simp] theorem Group.setG_park (r : Nat) (w : Word) : (g.setG r w).park = g.park := rfl
@[simp] theorem Group.setG_stopping (r : Nat) (w : Word) : (g.setG r w).stopping = g.stopping := rfl
@[simp] theorem Group.setG_lost (r : Nat) (w : Word) : (g.setG r w).lost = g.lost := rfl
@[simp] theorem Group.setG_since (r : Nat) (w : Word) : (g.setG r w).since = g.since := rfl

/-! ## setPath -/

@[simp] theorem Group.setPath_id (b : Bool) (p : Option Path) : (g.setPath b p).id = g.id := by cases b <;> rfl
@[simp] theorem Group.setPath_ctx (b : Bool) (p : Option Path) : (g.setPath b p).ctx = g.ctx := by cases b <;> rfl
@[simp] theorem Group.setPath_vf (b : Bool) (p : Option Path) : (g.setPath b p).vf = g.vf := by cases b <;> rfl
@[simp] theorem Group.setPath_launch (b : Bool) (p : Option Path) : (g.setPath b p).launch = g.launch := by cases b <;> rfl
@[simp] theorem Group.setPath_block (b : Bool) (p : Option Path) : (g.setPath b p).block = g.block := by cases b <;> rfl
@[simp] theorem Group.setPath_index (b : Bool) (p : Option Path) : (g.setPath b p).index = g.index := by cases b <;> rfl
@[simp] theorem Group.setPath_secure (b : Bool) (p : Option Path) : (g.setPath b p).secure = g.secure := by cases b <;> rfl
@[simp] theorem Group.setPath_cluster (b : Bool) (p : Option Path) : (g.setPath b p).cluster = g.cluster := by cases b <;> rfl
@[simp] theorem Group.setPath_core (b : Bool) (p : Option Path) : (g.setPath b p).core = g.core := by cases b <;> rfl
@[simp] theorem Group.setPath_slot (b : Bool) (p : Option Path) : (g.setPath b p).slot = g.slot := by cases b <;> rfl
@[simp] theorem Group.setPath_vCount (b : Bool) (p : Option Path) : (g.setPath b p).vCount = g.vCount := by cases b <;> rfl
@[simp] theorem Group.setPath_gCount (b : Bool) (p : Option Path) : (g.setPath b p).gCount = g.gCount := by cases b <;> rfl
@[simp] theorem Group.setPath_v (b : Bool) (p : Option Path) : (g.setPath b p).v = g.v := by cases b <;> rfl
@[simp] theorem Group.setPath_g (b : Bool) (p : Option Path) : (g.setPath b p).g = g.g := by cases b <;> rfl
@[simp] theorem Group.setPath_areg (b : Bool) (p : Option Path) : (g.setPath b p).areg = g.areg := by cases b <;> rfl
@[simp] theorem Group.setPath_wreg (b : Bool) (p : Option Path) : (g.setPath b p).wreg = g.wreg := by cases b <;> rfl
@[simp] theorem Group.setPath_qreg (b : Bool) (p : Option Path) : (g.setPath b p).qreg = g.qreg := by cases b <;> rfl
@[simp] theorem Group.setPath_real (b : Bool) (p : Option Path) : (g.setPath b p).real = g.real := by cases b <;> rfl
@[simp] theorem Group.setPath_helper (b : Bool) (p : Option Path) : (g.setPath b p).helper = g.helper := by cases b <;> rfl
@[simp] theorem Group.setPath_exited (b : Bool) (p : Option Path) : (g.setPath b p).exited = g.exited := by cases b <;> rfl
@[simp] theorem Group.setPath_stack (b : Bool) (p : Option Path) : (g.setPath b p).stack = g.stack := by cases b <;> rfl
@[simp] theorem Group.setPath_stackCap (b : Bool) (p : Option Path) : (g.setPath b p).stackCap = g.stackCap := by cases b <;> rfl
@[simp] theorem Group.setPath_stackPsn (b : Bool) (p : Option Path) : (g.setPath b p).stackPsn = g.stackPsn := by cases b <;> rfl
@[simp] theorem Group.setPath_trap (b : Bool) (p : Option Path) : (g.setPath b p).trap = g.trap := by cases b <;> rfl
@[simp] theorem Group.setPath_ret (b : Bool) (p : Option Path) : (g.setPath b p).ret = g.ret := by cases b <;> rfl
@[simp] theorem Group.setPath_timeSnap (b : Bool) (p : Option Path) : (g.setPath b p).timeSnap = g.timeSnap := by cases b <;> rfl
@[simp] theorem Group.setPath_enSnap (b : Bool) (p : Option Path) : (g.setPath b p).enSnap = g.enSnap := by cases b <;> rfl
@[simp] theorem Group.setPath_horizons (b : Bool) (p : Option Path) : (g.setPath b p).horizons = g.horizons := by cases b <;> rfl
@[simp] theorem Group.setPath_outstanding (b : Bool) (p : Option Path) : (g.setPath b p).outstanding = g.outstanding := by cases b <;> rfl
@[simp] theorem Group.setPath_psnOps (b : Bool) (p : Option Path) : (g.setPath b p).psnOps = g.psnOps := by cases b <;> rfl
@[simp] theorem Group.setPath_accRuns (b : Bool) (p : Option Path) : (g.setPath b p).accRuns = g.accRuns := by cases b <;> rfl
@[simp] theorem Group.setPath_acc (b : Bool) (p : Option Path) : (g.setPath b p).acc = g.acc := by cases b <;> rfl
@[simp] theorem Group.setPath_accHit (b : Bool) (p : Option Path) : (g.setPath b p).accHit = g.accHit := by cases b <;> rfl
@[simp] theorem Group.setPath_batchNext (b : Bool) (p : Option Path) : (g.setPath b p).batchNext = g.batchNext := by cases b <;> rfl
@[simp] theorem Group.setPath_batches (b : Bool) (p : Option Path) : (g.setPath b p).batches = g.batches := by cases b <;> rfl
@[simp] theorem Group.setPath_triggered (b : Bool) (p : Option Path) : (g.setPath b p).triggered = g.triggered := by cases b <;> rfl
@[simp] theorem Group.setPath_park (b : Bool) (p : Option Path) : (g.setPath b p).park = g.park := by cases b <;> rfl
@[simp] theorem Group.setPath_stopping (b : Bool) (p : Option Path) : (g.setPath b p).stopping = g.stopping := by cases b <;> rfl
@[simp] theorem Group.setPath_lost (b : Bool) (p : Option Path) : (g.setPath b p).lost = g.lost := by cases b <;> rfl
@[simp] theorem Group.setPath_since (b : Bool) (p : Option Path) : (g.setPath b p).since = g.since := by cases b <;> rfl

/-! ## modPath -/

@[simp] theorem Group.tell_id (t : Option Told) : (g.tell t).id = g.id := by cases t <;> rfl
@[simp] theorem Group.tell_v (t : Option Told) : (g.tell t).v = g.v := by cases t <;> rfl
@[simp] theorem Group.tell_g (t : Option Told) : (g.tell t).g = g.g := by cases t <;> rfl
@[simp] theorem Group.modPath_id (b : Bool) (f : Path → Path) : (g.modPath b f).id = g.id := by cases b <;> rfl
@[simp] theorem Group.modPath_ctx (b : Bool) (f : Path → Path) : (g.modPath b f).ctx = g.ctx := by cases b <;> rfl
@[simp] theorem Group.modPath_vf (b : Bool) (f : Path → Path) : (g.modPath b f).vf = g.vf := by cases b <;> rfl
@[simp] theorem Group.modPath_launch (b : Bool) (f : Path → Path) : (g.modPath b f).launch = g.launch := by cases b <;> rfl
@[simp] theorem Group.modPath_block (b : Bool) (f : Path → Path) : (g.modPath b f).block = g.block := by cases b <;> rfl
@[simp] theorem Group.modPath_index (b : Bool) (f : Path → Path) : (g.modPath b f).index = g.index := by cases b <;> rfl
@[simp] theorem Group.modPath_secure (b : Bool) (f : Path → Path) : (g.modPath b f).secure = g.secure := by cases b <;> rfl
@[simp] theorem Group.modPath_cluster (b : Bool) (f : Path → Path) : (g.modPath b f).cluster = g.cluster := by cases b <;> rfl
@[simp] theorem Group.modPath_core (b : Bool) (f : Path → Path) : (g.modPath b f).core = g.core := by cases b <;> rfl
@[simp] theorem Group.modPath_slot (b : Bool) (f : Path → Path) : (g.modPath b f).slot = g.slot := by cases b <;> rfl
@[simp] theorem Group.modPath_vCount (b : Bool) (f : Path → Path) : (g.modPath b f).vCount = g.vCount := by cases b <;> rfl
@[simp] theorem Group.modPath_gCount (b : Bool) (f : Path → Path) : (g.modPath b f).gCount = g.gCount := by cases b <;> rfl
@[simp] theorem Group.modPath_v (b : Bool) (f : Path → Path) : (g.modPath b f).v = g.v := by cases b <;> rfl
@[simp] theorem Group.modPath_g (b : Bool) (f : Path → Path) : (g.modPath b f).g = g.g := by cases b <;> rfl
@[simp] theorem Group.modPath_areg (b : Bool) (f : Path → Path) : (g.modPath b f).areg = g.areg := by cases b <;> rfl
@[simp] theorem Group.modPath_wreg (b : Bool) (f : Path → Path) : (g.modPath b f).wreg = g.wreg := by cases b <;> rfl
@[simp] theorem Group.modPath_qreg (b : Bool) (f : Path → Path) : (g.modPath b f).qreg = g.qreg := by cases b <;> rfl
@[simp] theorem Group.modPath_real (b : Bool) (f : Path → Path) : (g.modPath b f).real = g.real := by cases b <;> rfl
@[simp] theorem Group.modPath_helper (b : Bool) (f : Path → Path) : (g.modPath b f).helper = g.helper := by cases b <;> rfl
@[simp] theorem Group.modPath_exited (b : Bool) (f : Path → Path) : (g.modPath b f).exited = g.exited := by cases b <;> rfl
@[simp] theorem Group.modPath_stack (b : Bool) (f : Path → Path) : (g.modPath b f).stack = g.stack := by cases b <;> rfl
@[simp] theorem Group.modPath_stackCap (b : Bool) (f : Path → Path) : (g.modPath b f).stackCap = g.stackCap := by cases b <;> rfl
@[simp] theorem Group.modPath_stackPsn (b : Bool) (f : Path → Path) : (g.modPath b f).stackPsn = g.stackPsn := by cases b <;> rfl
@[simp] theorem Group.modPath_trap (b : Bool) (f : Path → Path) : (g.modPath b f).trap = g.trap := by cases b <;> rfl
@[simp] theorem Group.modPath_ret (b : Bool) (f : Path → Path) : (g.modPath b f).ret = g.ret := by cases b <;> rfl
@[simp] theorem Group.modPath_timeSnap (b : Bool) (f : Path → Path) : (g.modPath b f).timeSnap = g.timeSnap := by cases b <;> rfl
@[simp] theorem Group.modPath_enSnap (b : Bool) (f : Path → Path) : (g.modPath b f).enSnap = g.enSnap := by cases b <;> rfl
@[simp] theorem Group.modPath_horizons (b : Bool) (f : Path → Path) : (g.modPath b f).horizons = g.horizons := by cases b <;> rfl
@[simp] theorem Group.modPath_outstanding (b : Bool) (f : Path → Path) : (g.modPath b f).outstanding = g.outstanding := by cases b <;> rfl
@[simp] theorem Group.modPath_psnOps (b : Bool) (f : Path → Path) : (g.modPath b f).psnOps = g.psnOps := by cases b <;> rfl
@[simp] theorem Group.modPath_accRuns (b : Bool) (f : Path → Path) : (g.modPath b f).accRuns = g.accRuns := by cases b <;> rfl
@[simp] theorem Group.modPath_acc (b : Bool) (f : Path → Path) : (g.modPath b f).acc = g.acc := by cases b <;> rfl
@[simp] theorem Group.modPath_accHit (b : Bool) (f : Path → Path) : (g.modPath b f).accHit = g.accHit := by cases b <;> rfl
@[simp] theorem Group.modPath_batchNext (b : Bool) (f : Path → Path) : (g.modPath b f).batchNext = g.batchNext := by cases b <;> rfl
@[simp] theorem Group.modPath_batches (b : Bool) (f : Path → Path) : (g.modPath b f).batches = g.batches := by cases b <;> rfl
@[simp] theorem Group.modPath_triggered (b : Bool) (f : Path → Path) : (g.modPath b f).triggered = g.triggered := by cases b <;> rfl
@[simp] theorem Group.modPath_park (b : Bool) (f : Path → Path) : (g.modPath b f).park = g.park := by cases b <;> rfl
@[simp] theorem Group.modPath_stopping (b : Bool) (f : Path → Path) : (g.modPath b f).stopping = g.stopping := by cases b <;> rfl
@[simp] theorem Group.modPath_lost (b : Bool) (f : Path → Path) : (g.modPath b f).lost = g.lost := by cases b <;> rfl
@[simp] theorem Group.modPath_since (b : Bool) (f : Path → Path) : (g.modPath b f).since = g.since := by cases b <;> rfl

/-! ## setV -/

@[simp] theorem Group.setV_id (r i : Nat) (w : Word) : (g.setV r i w).id = g.id := by unfold Group.setV; split <;> rfl
@[simp] theorem Group.setV_ctx (r i : Nat) (w : Word) : (g.setV r i w).ctx = g.ctx := by unfold Group.setV; split <;> rfl
@[simp] theorem Group.setV_vf (r i : Nat) (w : Word) : (g.setV r i w).vf = g.vf := by unfold Group.setV; split <;> rfl
@[simp] theorem Group.setV_launch (r i : Nat) (w : Word) : (g.setV r i w).launch = g.launch := by unfold Group.setV; split <;> rfl
@[simp] theorem Group.setV_block (r i : Nat) (w : Word) : (g.setV r i w).block = g.block := by unfold Group.setV; split <;> rfl
@[simp] theorem Group.setV_index (r i : Nat) (w : Word) : (g.setV r i w).index = g.index := by unfold Group.setV; split <;> rfl
@[simp] theorem Group.setV_secure (r i : Nat) (w : Word) : (g.setV r i w).secure = g.secure := by unfold Group.setV; split <;> rfl
@[simp] theorem Group.setV_cluster (r i : Nat) (w : Word) : (g.setV r i w).cluster = g.cluster := by unfold Group.setV; split <;> rfl
@[simp] theorem Group.setV_core (r i : Nat) (w : Word) : (g.setV r i w).core = g.core := by unfold Group.setV; split <;> rfl
@[simp] theorem Group.setV_slot (r i : Nat) (w : Word) : (g.setV r i w).slot = g.slot := by unfold Group.setV; split <;> rfl
@[simp] theorem Group.setV_vCount (r i : Nat) (w : Word) : (g.setV r i w).vCount = g.vCount := by unfold Group.setV; split <;> rfl
@[simp] theorem Group.setV_gCount (r i : Nat) (w : Word) : (g.setV r i w).gCount = g.gCount := by unfold Group.setV; split <;> rfl
@[simp] theorem Group.setV_g (r i : Nat) (w : Word) : (g.setV r i w).g = g.g := by unfold Group.setV; split <;> rfl
@[simp] theorem Group.setV_areg (r i : Nat) (w : Word) : (g.setV r i w).areg = g.areg := by unfold Group.setV; split <;> rfl
@[simp] theorem Group.setV_wreg (r i : Nat) (w : Word) : (g.setV r i w).wreg = g.wreg := by unfold Group.setV; split <;> rfl
@[simp] theorem Group.setV_qreg (r i : Nat) (w : Word) : (g.setV r i w).qreg = g.qreg := by unfold Group.setV; split <;> rfl
@[simp] theorem Group.setV_path0 (r i : Nat) (w : Word) : (g.setV r i w).path0 = g.path0 := by unfold Group.setV; split <;> rfl
@[simp] theorem Group.setV_path1 (r i : Nat) (w : Word) : (g.setV r i w).path1 = g.path1 := by unfold Group.setV; split <;> rfl
@[simp] theorem Group.setV_real (r i : Nat) (w : Word) : (g.setV r i w).real = g.real := by unfold Group.setV; split <;> rfl
@[simp] theorem Group.setV_helper (r i : Nat) (w : Word) : (g.setV r i w).helper = g.helper := by unfold Group.setV; split <;> rfl
@[simp] theorem Group.setV_exited (r i : Nat) (w : Word) : (g.setV r i w).exited = g.exited := by unfold Group.setV; split <;> rfl
@[simp] theorem Group.setV_stack (r i : Nat) (w : Word) : (g.setV r i w).stack = g.stack := by unfold Group.setV; split <;> rfl
@[simp] theorem Group.setV_stackCap (r i : Nat) (w : Word) : (g.setV r i w).stackCap = g.stackCap := by unfold Group.setV; split <;> rfl
@[simp] theorem Group.setV_stackPsn (r i : Nat) (w : Word) : (g.setV r i w).stackPsn = g.stackPsn := by unfold Group.setV; split <;> rfl
@[simp] theorem Group.setV_trap (r i : Nat) (w : Word) : (g.setV r i w).trap = g.trap := by unfold Group.setV; split <;> rfl
@[simp] theorem Group.setV_ret (r i : Nat) (w : Word) : (g.setV r i w).ret = g.ret := by unfold Group.setV; split <;> rfl
@[simp] theorem Group.setV_timeSnap (r i : Nat) (w : Word) : (g.setV r i w).timeSnap = g.timeSnap := by unfold Group.setV; split <;> rfl
@[simp] theorem Group.setV_enSnap (r i : Nat) (w : Word) : (g.setV r i w).enSnap = g.enSnap := by unfold Group.setV; split <;> rfl
@[simp] theorem Group.setV_horizons (r i : Nat) (w : Word) : (g.setV r i w).horizons = g.horizons := by unfold Group.setV; split <;> rfl
@[simp] theorem Group.setV_outstanding (r i : Nat) (w : Word) : (g.setV r i w).outstanding = g.outstanding := by unfold Group.setV; split <;> rfl
@[simp] theorem Group.setV_psnOps (r i : Nat) (w : Word) : (g.setV r i w).psnOps = g.psnOps := by unfold Group.setV; split <;> rfl
@[simp] theorem Group.setV_accRuns (r i : Nat) (w : Word) : (g.setV r i w).accRuns = g.accRuns := by unfold Group.setV; split <;> rfl
@[simp] theorem Group.setV_acc (r i : Nat) (w : Word) : (g.setV r i w).acc = g.acc := by unfold Group.setV; split <;> rfl
@[simp] theorem Group.setV_batchNext (r i : Nat) (w : Word) : (g.setV r i w).batchNext = g.batchNext := by unfold Group.setV; split <;> rfl
@[simp] theorem Group.setV_batches (r i : Nat) (w : Word) : (g.setV r i w).batches = g.batches := by unfold Group.setV; split <;> rfl
@[simp] theorem Group.setV_triggered (r i : Nat) (w : Word) : (g.setV r i w).triggered = g.triggered := by unfold Group.setV; split <;> rfl
@[simp] theorem Group.setV_park (r i : Nat) (w : Word) : (g.setV r i w).park = g.park := by unfold Group.setV; split <;> rfl
@[simp] theorem Group.setV_stopping (r i : Nat) (w : Word) : (g.setV r i w).stopping = g.stopping := by unfold Group.setV; split <;> rfl
@[simp] theorem Group.setV_lost (r i : Nat) (w : Word) : (g.setV r i w).lost = g.lost := by unfold Group.setV; split <;> rfl
@[simp] theorem Group.setV_since (r i : Nat) (w : Word) : (g.setV r i w).since = g.since := by unfold Group.setV; split <;> rfl

/-! ## setLanes and setGs: runs of registers -/

/-- Writing lanes of a register leaves everything but the vector registers and the record of claimed accumulators. -/
theorem Group.setLanes_only (r : Nat) (l : List Nat) (f : Nat → Word) :
    g.setLanes r l f = { g with v := (g.setLanes r l f).v, accHit := (g.setLanes r l f).accHit } := by
  have h : ∀ g : Group, ∃ v a, g.setLanes r l f = { g with v := v, accHit := a } := by
    induction l with
    | nil => exact fun g => ⟨g.v, g.accHit, rfl⟩
    | cons i l ih =>
      intro g
      obtain ⟨v, a, e⟩ := ih (g.setV r i (f i))
      refine ⟨v, a, (show g.setLanes r (i :: l) f = (g.setV r i (f i)).setLanes r l f from rfl).trans (e.trans ?_)⟩
      unfold Group.setV
      split <;> rfl
  obtain ⟨v, a, e⟩ := h g
  rw [e]

/-- Writing a run of group registers leaves everything but the group registers. -/
theorem Group.setGs_only (r : Nat) (ws : List Word) : g.setGs r ws = { g with g := (g.setGs r ws).g } := by
  have h : ∀ (g : Group) (r : Nat), ∃ x, g.setGs r ws = { g with g := x } := by
    induction ws with
    | nil => exact fun g _ => ⟨g.g, rfl⟩
    | cons w ws ih => intro g r; obtain ⟨x, e⟩ := ih (g.setG r w) (r + 1); exact ⟨x, e⟩
  obtain ⟨x, e⟩ := h g r
  rw [e]

@[simp] theorem Group.setLanes_id (r : Nat) (l : List Nat) (f : Nat → Word) : (g.setLanes r l f).id = g.id := by
  rw [Group.setLanes_only]
@[simp] theorem Group.setLanes_ctx (r : Nat) (l : List Nat) (f : Nat → Word) : (g.setLanes r l f).ctx = g.ctx := by
  rw [Group.setLanes_only]
@[simp] theorem Group.setLanes_vf (r : Nat) (l : List Nat) (f : Nat → Word) : (g.setLanes r l f).vf = g.vf := by
  rw [Group.setLanes_only]
@[simp] theorem Group.setLanes_launch (r : Nat) (l : List Nat) (f : Nat → Word) : (g.setLanes r l f).launch = g.launch := by
  rw [Group.setLanes_only]
@[simp] theorem Group.setLanes_block (r : Nat) (l : List Nat) (f : Nat → Word) : (g.setLanes r l f).block = g.block := by
  rw [Group.setLanes_only]
@[simp] theorem Group.setLanes_index (r : Nat) (l : List Nat) (f : Nat → Word) : (g.setLanes r l f).index = g.index := by
  rw [Group.setLanes_only]
@[simp] theorem Group.setLanes_secure (r : Nat) (l : List Nat) (f : Nat → Word) : (g.setLanes r l f).secure = g.secure := by
  rw [Group.setLanes_only]
@[simp] theorem Group.setLanes_cluster (r : Nat) (l : List Nat) (f : Nat → Word) : (g.setLanes r l f).cluster = g.cluster := by
  rw [Group.setLanes_only]
@[simp] theorem Group.setLanes_core (r : Nat) (l : List Nat) (f : Nat → Word) : (g.setLanes r l f).core = g.core := by
  rw [Group.setLanes_only]
@[simp] theorem Group.setLanes_slot (r : Nat) (l : List Nat) (f : Nat → Word) : (g.setLanes r l f).slot = g.slot := by
  rw [Group.setLanes_only]
@[simp] theorem Group.setLanes_vCount (r : Nat) (l : List Nat) (f : Nat → Word) : (g.setLanes r l f).vCount = g.vCount := by
  rw [Group.setLanes_only]
@[simp] theorem Group.setLanes_gCount (r : Nat) (l : List Nat) (f : Nat → Word) : (g.setLanes r l f).gCount = g.gCount := by
  rw [Group.setLanes_only]
@[simp] theorem Group.setLanes_g (r : Nat) (l : List Nat) (f : Nat → Word) : (g.setLanes r l f).g = g.g := by
  rw [Group.setLanes_only]
@[simp] theorem Group.setLanes_areg (r : Nat) (l : List Nat) (f : Nat → Word) : (g.setLanes r l f).areg = g.areg := by
  rw [Group.setLanes_only]
@[simp] theorem Group.setLanes_wreg (r : Nat) (l : List Nat) (f : Nat → Word) : (g.setLanes r l f).wreg = g.wreg := by
  rw [Group.setLanes_only]
@[simp] theorem Group.setLanes_qreg (r : Nat) (l : List Nat) (f : Nat → Word) : (g.setLanes r l f).qreg = g.qreg := by
  rw [Group.setLanes_only]
@[simp] theorem Group.setLanes_path0 (r : Nat) (l : List Nat) (f : Nat → Word) : (g.setLanes r l f).path0 = g.path0 := by
  rw [Group.setLanes_only]
@[simp] theorem Group.setLanes_path1 (r : Nat) (l : List Nat) (f : Nat → Word) : (g.setLanes r l f).path1 = g.path1 := by
  rw [Group.setLanes_only]
@[simp] theorem Group.setLanes_real (r : Nat) (l : List Nat) (f : Nat → Word) : (g.setLanes r l f).real = g.real := by
  rw [Group.setLanes_only]
@[simp] theorem Group.setLanes_helper (r : Nat) (l : List Nat) (f : Nat → Word) : (g.setLanes r l f).helper = g.helper := by
  rw [Group.setLanes_only]
@[simp] theorem Group.setLanes_exited (r : Nat) (l : List Nat) (f : Nat → Word) : (g.setLanes r l f).exited = g.exited := by
  rw [Group.setLanes_only]
@[simp] theorem Group.setLanes_stack (r : Nat) (l : List Nat) (f : Nat → Word) : (g.setLanes r l f).stack = g.stack := by
  rw [Group.setLanes_only]
@[simp] theorem Group.setLanes_stackCap (r : Nat) (l : List Nat) (f : Nat → Word) : (g.setLanes r l f).stackCap = g.stackCap := by
  rw [Group.setLanes_only]
@[simp] theorem Group.setLanes_stackPsn (r : Nat) (l : List Nat) (f : Nat → Word) : (g.setLanes r l f).stackPsn = g.stackPsn := by
  rw [Group.setLanes_only]
@[simp] theorem Group.setLanes_trap (r : Nat) (l : List Nat) (f : Nat → Word) : (g.setLanes r l f).trap = g.trap := by
  rw [Group.setLanes_only]
@[simp] theorem Group.setLanes_ret (r : Nat) (l : List Nat) (f : Nat → Word) : (g.setLanes r l f).ret = g.ret := by
  rw [Group.setLanes_only]
@[simp] theorem Group.setLanes_timeSnap (r : Nat) (l : List Nat) (f : Nat → Word) : (g.setLanes r l f).timeSnap = g.timeSnap := by
  rw [Group.setLanes_only]
@[simp] theorem Group.setLanes_enSnap (r : Nat) (l : List Nat) (f : Nat → Word) : (g.setLanes r l f).enSnap = g.enSnap := by
  rw [Group.setLanes_only]
@[simp] theorem Group.setLanes_horizons (r : Nat) (l : List Nat) (f : Nat → Word) : (g.setLanes r l f).horizons = g.horizons := by
  rw [Group.setLanes_only]
@[simp] theorem Group.setLanes_outstanding (r : Nat) (l : List Nat) (f : Nat → Word) : (g.setLanes r l f).outstanding = g.outstanding := by
  rw [Group.setLanes_only]
@[simp] theorem Group.setLanes_psnOps (r : Nat) (l : List Nat) (f : Nat → Word) : (g.setLanes r l f).psnOps = g.psnOps := by
  rw [Group.setLanes_only]
@[simp] theorem Group.setLanes_accRuns (r : Nat) (l : List Nat) (f : Nat → Word) : (g.setLanes r l f).accRuns = g.accRuns := by
  rw [Group.setLanes_only]
@[simp] theorem Group.setLanes_acc (r : Nat) (l : List Nat) (f : Nat → Word) : (g.setLanes r l f).acc = g.acc := by
  rw [Group.setLanes_only]
@[simp] theorem Group.setLanes_batchNext (r : Nat) (l : List Nat) (f : Nat → Word) : (g.setLanes r l f).batchNext = g.batchNext := by
  rw [Group.setLanes_only]
@[simp] theorem Group.setLanes_batches (r : Nat) (l : List Nat) (f : Nat → Word) : (g.setLanes r l f).batches = g.batches := by
  rw [Group.setLanes_only]
@[simp] theorem Group.setLanes_triggered (r : Nat) (l : List Nat) (f : Nat → Word) : (g.setLanes r l f).triggered = g.triggered := by
  rw [Group.setLanes_only]
@[simp] theorem Group.setLanes_park (r : Nat) (l : List Nat) (f : Nat → Word) : (g.setLanes r l f).park = g.park := by
  rw [Group.setLanes_only]
@[simp] theorem Group.setLanes_stopping (r : Nat) (l : List Nat) (f : Nat → Word) : (g.setLanes r l f).stopping = g.stopping := by
  rw [Group.setLanes_only]
@[simp] theorem Group.setLanes_lost (r : Nat) (l : List Nat) (f : Nat → Word) : (g.setLanes r l f).lost = g.lost := by
  rw [Group.setLanes_only]
@[simp] theorem Group.setLanes_since (r : Nat) (l : List Nat) (f : Nat → Word) : (g.setLanes r l f).since = g.since := by
  rw [Group.setLanes_only]
@[simp] theorem Group.setGs_id (r : Nat) (ws : List Word) : (g.setGs r ws).id = g.id := by rw [Group.setGs_only]
@[simp] theorem Group.setGs_ctx (r : Nat) (ws : List Word) : (g.setGs r ws).ctx = g.ctx := by rw [Group.setGs_only]
@[simp] theorem Group.setGs_vf (r : Nat) (ws : List Word) : (g.setGs r ws).vf = g.vf := by rw [Group.setGs_only]
@[simp] theorem Group.setGs_launch (r : Nat) (ws : List Word) : (g.setGs r ws).launch = g.launch := by rw [Group.setGs_only]
@[simp] theorem Group.setGs_block (r : Nat) (ws : List Word) : (g.setGs r ws).block = g.block := by rw [Group.setGs_only]
@[simp] theorem Group.setGs_index (r : Nat) (ws : List Word) : (g.setGs r ws).index = g.index := by rw [Group.setGs_only]
@[simp] theorem Group.setGs_secure (r : Nat) (ws : List Word) : (g.setGs r ws).secure = g.secure := by rw [Group.setGs_only]
@[simp] theorem Group.setGs_cluster (r : Nat) (ws : List Word) : (g.setGs r ws).cluster = g.cluster := by rw [Group.setGs_only]
@[simp] theorem Group.setGs_core (r : Nat) (ws : List Word) : (g.setGs r ws).core = g.core := by rw [Group.setGs_only]
@[simp] theorem Group.setGs_slot (r : Nat) (ws : List Word) : (g.setGs r ws).slot = g.slot := by rw [Group.setGs_only]
@[simp] theorem Group.setGs_vCount (r : Nat) (ws : List Word) : (g.setGs r ws).vCount = g.vCount := by rw [Group.setGs_only]
@[simp] theorem Group.setGs_gCount (r : Nat) (ws : List Word) : (g.setGs r ws).gCount = g.gCount := by rw [Group.setGs_only]
@[simp] theorem Group.setGs_v (r : Nat) (ws : List Word) : (g.setGs r ws).v = g.v := by rw [Group.setGs_only]
@[simp] theorem Group.setGs_areg (r : Nat) (ws : List Word) : (g.setGs r ws).areg = g.areg := by rw [Group.setGs_only]
@[simp] theorem Group.setGs_wreg (r : Nat) (ws : List Word) : (g.setGs r ws).wreg = g.wreg := by rw [Group.setGs_only]
@[simp] theorem Group.setGs_qreg (r : Nat) (ws : List Word) : (g.setGs r ws).qreg = g.qreg := by rw [Group.setGs_only]
@[simp] theorem Group.setGs_path0 (r : Nat) (ws : List Word) : (g.setGs r ws).path0 = g.path0 := by rw [Group.setGs_only]
@[simp] theorem Group.setGs_path1 (r : Nat) (ws : List Word) : (g.setGs r ws).path1 = g.path1 := by rw [Group.setGs_only]
@[simp] theorem Group.setGs_real (r : Nat) (ws : List Word) : (g.setGs r ws).real = g.real := by rw [Group.setGs_only]
@[simp] theorem Group.setGs_helper (r : Nat) (ws : List Word) : (g.setGs r ws).helper = g.helper := by rw [Group.setGs_only]
@[simp] theorem Group.setGs_exited (r : Nat) (ws : List Word) : (g.setGs r ws).exited = g.exited := by rw [Group.setGs_only]
@[simp] theorem Group.setGs_stack (r : Nat) (ws : List Word) : (g.setGs r ws).stack = g.stack := by rw [Group.setGs_only]
@[simp] theorem Group.setGs_stackCap (r : Nat) (ws : List Word) : (g.setGs r ws).stackCap = g.stackCap := by rw [Group.setGs_only]
@[simp] theorem Group.setGs_stackPsn (r : Nat) (ws : List Word) : (g.setGs r ws).stackPsn = g.stackPsn := by rw [Group.setGs_only]
@[simp] theorem Group.setGs_trap (r : Nat) (ws : List Word) : (g.setGs r ws).trap = g.trap := by rw [Group.setGs_only]
@[simp] theorem Group.setGs_ret (r : Nat) (ws : List Word) : (g.setGs r ws).ret = g.ret := by rw [Group.setGs_only]
@[simp] theorem Group.setGs_timeSnap (r : Nat) (ws : List Word) : (g.setGs r ws).timeSnap = g.timeSnap := by rw [Group.setGs_only]
@[simp] theorem Group.setGs_enSnap (r : Nat) (ws : List Word) : (g.setGs r ws).enSnap = g.enSnap := by rw [Group.setGs_only]
@[simp] theorem Group.setGs_horizons (r : Nat) (ws : List Word) : (g.setGs r ws).horizons = g.horizons := by rw [Group.setGs_only]
@[simp] theorem Group.setGs_outstanding (r : Nat) (ws : List Word) : (g.setGs r ws).outstanding = g.outstanding := by rw [Group.setGs_only]
@[simp] theorem Group.setGs_psnOps (r : Nat) (ws : List Word) : (g.setGs r ws).psnOps = g.psnOps := by rw [Group.setGs_only]
@[simp] theorem Group.setGs_accRuns (r : Nat) (ws : List Word) : (g.setGs r ws).accRuns = g.accRuns := by rw [Group.setGs_only]
@[simp] theorem Group.setGs_acc (r : Nat) (ws : List Word) : (g.setGs r ws).acc = g.acc := by rw [Group.setGs_only]
@[simp] theorem Group.setGs_accHit (r : Nat) (ws : List Word) : (g.setGs r ws).accHit = g.accHit := by rw [Group.setGs_only]
@[simp] theorem Group.setGs_batchNext (r : Nat) (ws : List Word) : (g.setGs r ws).batchNext = g.batchNext := by rw [Group.setGs_only]
@[simp] theorem Group.setGs_batches (r : Nat) (ws : List Word) : (g.setGs r ws).batches = g.batches := by rw [Group.setGs_only]
@[simp] theorem Group.setGs_triggered (r : Nat) (ws : List Word) : (g.setGs r ws).triggered = g.triggered := by rw [Group.setGs_only]
@[simp] theorem Group.setGs_park (r : Nat) (ws : List Word) : (g.setGs r ws).park = g.park := by rw [Group.setGs_only]
@[simp] theorem Group.setGs_stopping (r : Nat) (ws : List Word) : (g.setGs r ws).stopping = g.stopping := by rw [Group.setGs_only]
@[simp] theorem Group.setGs_lost (r : Nat) (ws : List Word) : (g.setGs r ws).lost = g.lost := by rw [Group.setGs_only]
@[simp] theorem Group.setGs_since (r : Nat) (ws : List Word) : (g.setGs r ws).since = g.since := by rw [Group.setGs_only]

end Sys2Proof.Machine
end

