-- ==== Sys2Proof/Laws/Store.lean ====
section
/-!
SUPPORT. Maps, memory and lists: reading after writing, what a write leaves alone, and the canonical forms that every
operation keeps.
-/
namespace Sys2Proof.Machine

/-! ## Maps -/

theorem Map.sortedFrom_mono {α : Type} {m : Map α} {a b : Nat} (h : a ≤ b) (hb : m.sortedFrom b = true) :
    m.sortedFrom a = true := by
  cases m with
  | nil => rfl
  | cons x m =>
    obtain ⟨k, v⟩ := x
    simp only [Map.sortedFrom, Bool.and_eq_true, decide_eq_true_eq] at hb ⊢
    exact ⟨h.trans hb.1, hb.2⟩

/-- Reading after putting. -/
theorem Map.get?_put {α : Type} (m : Map α) (n k : Nat) (x : α) :
    (m.put n x).get? k = if k = n then some x else m.get? k := by
  induction m with
  | nil => simp only [Map.put, Map.get?]
  | cons y m ih =>
    obtain ⟨j, v⟩ := y
    simp only [Map.put]
    split
    · simp only [Map.get?]
    · split
      · subst_vars
        simp only [Map.get?]
        split <;> rfl
      · simp only [Map.get?, ih]
        by_cases hk : k = n
        · subst hk
          rw [if_neg (by omega), if_pos rfl, if_pos rfl]
        · simp [hk]

/-- Reading after deleting. -/
theorem Map.get?_del {α : Type} (m : Map α) (n k : Nat) :
    (m.del n).get? k = if k = n then none else m.get? k := by
  induction m with
  | nil => simp [Map.del, Map.get?]
  | cons y m ih =>
    obtain ⟨j, v⟩ := y
    simp only [Map.del]
    split
    · subst_vars
      rw [ih]
      simp only [Map.get?]
      split <;> rfl
    · simp only [Map.get?, ih]
      by_cases hk : k = n
      · subst hk
        rw [if_neg (by omega), if_pos rfl, if_pos rfl]
      · simp [hk]

theorem Map.sortedFrom_put {α : Type} {m : Map α} {a n : Nat} (h : m.sortedFrom a = true) (hn : a ≤ n) (x : α) :
    (m.put n x).sortedFrom a = true := by
  induction m generalizing a with
  | nil => simp [Map.put, Map.sortedFrom, hn]
  | cons y m ih =>
    obtain ⟨j, v⟩ := y
    simp only [Map.sortedFrom, Bool.and_eq_true, decide_eq_true_eq] at h
    simp only [Map.put]
    split
    · simp only [Map.sortedFrom, Bool.and_eq_true, decide_eq_true_eq]
      exact ⟨hn, by omega, h.2⟩
    · split
      · subst_vars
        simp only [Map.sortedFrom, Bool.and_eq_true, decide_eq_true_eq]
        exact ⟨hn, h.2⟩
      · simp only [Map.sortedFrom, Bool.and_eq_true, decide_eq_true_eq]
        exact ⟨h.1, ih h.2 (by omega)⟩

theorem Map.sortedFrom_del {α : Type} {m : Map α} {a : Nat} (h : m.sortedFrom a = true) (n : Nat) :
    (m.del n).sortedFrom a = true := by
  induction m generalizing a with
  | nil => rfl
  | cons y m ih =>
    obtain ⟨j, v⟩ := y
    simp only [Map.sortedFrom, Bool.and_eq_true, decide_eq_true_eq] at h
    simp only [Map.del]
    split
    · exact Map.sortedFrom_mono (by omega) (ih h.2)
    · simp only [Map.sortedFrom, Bool.and_eq_true, decide_eq_true_eq]
      exact ⟨h.1, ih h.2⟩

/-- Putting keeps the keys rising. -/
theorem Map.wf_put {α : Type} {m : Map α} (h : m.wf = true) (n : Nat) (x : α) : (m.put n x).wf = true :=
  Map.sortedFrom_put h (Nat.zero_le n) x

/-- Deleting keeps the keys rising. -/
theorem Map.wf_del {α : Type} {m : Map α} (h : m.wf = true) (n : Nat) : (m.del n).wf = true := Map.sortedFrom_del h n

/-- Changing a value keeps the keys rising. -/
theorem Map.wf_modify {α : Type} {m : Map α} (h : m.wf = true) (n : Nat) (f : α → α) : (m.modify n f).wf = true := by
  unfold Map.modify
  split
  · exact Map.wf_put h _ _
  · exact h

/-- Reading after changing. -/
theorem Map.get?_modify {α : Type} (m : Map α) (n k : Nat) (f : α → α) :
    (m.modify n f).get? k = if k = n then (m.get? n).map f else m.get? k := by
  unfold Map.modify
  split
  · rename_i x hx
    rw [Map.get?_put]
    split <;> simp [hx]
  · rename_i hx
    split
    · subst_vars; simp [hx]
    · rfl

/-- A word read after a word was put. -/
theorem Map.word_setWord (m : Map Word) (n k : Nat) (w : Word) :
    (m.setWord n w).word k = if k = n then w else m.word k := by
  unfold Map.setWord Map.word
  split
  · subst_vars
    rw [Map.get?_del]
    split <;> rfl
  · rw [Map.get?_put]
    split <;> rfl

theorem Map.wf_setWord {m : Map Word} (h : m.wf = true) (n : Nat) (w : Word) : (m.setWord n w).wf = true := by
  unfold Map.setWord
  split
  · exact Map.wf_del h n
  · exact Map.wf_put h n w

/-! ## Memory -/

theorem Memory.wfFrom_mono {m : Memory} {a b : Nat} (h : a ≤ b) (hb : m.wfFrom b = true) : m.wfFrom a = true := by
  cases m with
  | nil => rfl
  | cons x m =>
    obtain ⟨k, v⟩ := x
    simp only [Memory.wfFrom, Bool.and_eq_true, decide_eq_true_eq] at hb ⊢
    exact ⟨⟨h.trans hb.1.1, hb.1.2⟩, hb.2⟩

theorem Memory.byte_put (m : Memory) (a k : Nat) (b : Byte) : (m.put a b).byte k = if k = a then b else m.byte k := by
  induction m with
  | nil => simp only [Memory.put, Memory.byte]
  | cons y m ih =>
    obtain ⟨j, v⟩ := y
    simp only [Memory.put]
    split
    · simp only [Memory.byte]
    · split
      · subst_vars
        simp only [Memory.byte]
        split <;> rfl
      · simp only [Memory.byte, ih]
        by_cases hk : k = a
        · subst hk
          rw [if_neg (by omega), if_pos rfl, if_pos rfl]
        · simp [hk]

theorem Memory.byte_clear (m : Memory) (a k : Nat) : (m.clear a).byte k = if k = a then 0 else m.byte k := by
  induction m with
  | nil => simp [Memory.clear, Memory.byte]
  | cons y m ih =>
    obtain ⟨j, v⟩ := y
    simp only [Memory.clear]
    split
    · subst_vars
      rw [ih]
      simp only [Memory.byte]
      split <;> rfl
    · simp only [Memory.byte, ih]
      by_cases hk : k = a
      · subst hk
        rw [if_neg (by omega), if_pos rfl, if_pos rfl]
      · simp [hk]

/-- A byte read after one byte was written. -/
theorem Memory.byte_setByte (m : Memory) (a k : Nat) (b : Byte) :
    (m.setByte a b).byte k = if k = a then b else m.byte k := by
  unfold Memory.setByte
  split
  · subst_vars; exact Memory.byte_clear m a k
  · exact Memory.byte_put m a k b

theorem Memory.wfFrom_put {m : Memory} {c a : Nat} (h : m.wfFrom c = true) (hc : c ≤ a) {b : Byte} (hb : b ≠ 0) :
    (m.put a b).wfFrom c = true := by
  induction m generalizing c with
  | nil => simpa [Memory.put, Memory.wfFrom, hc] using hb
  | cons y m ih =>
    obtain ⟨j, v⟩ := y
    simp only [Memory.wfFrom, Bool.and_eq_true, decide_eq_true_eq] at h
    simp only [Memory.put]
    split
    · simp only [Memory.wfFrom, Bool.and_eq_true, decide_eq_true_eq]
      exact ⟨⟨hc, hb⟩, ⟨by omega, h.1.2⟩, h.2⟩
    · split
      · subst_vars
        simp only [Memory.wfFrom, Bool.and_eq_true, decide_eq_true_eq]
        exact ⟨⟨hc, hb⟩, h.2⟩
      · simp only [Memory.wfFrom, Bool.and_eq_true, decide_eq_true_eq]
        exact ⟨h.1, ih h.2 (by omega)⟩

theorem Memory.wfFrom_clear {m : Memory} {c : Nat} (h : m.wfFrom c = true) (a : Nat) : (m.clear a).wfFrom c = true := by
  induction m generalizing c with
  | nil => rfl
  | cons y m ih =>
    obtain ⟨j, v⟩ := y
    simp only [Memory.wfFrom, Bool.and_eq_true, decide_eq_true_eq] at h
    simp only [Memory.clear]
    split
    · exact Memory.wfFrom_mono (by omega) (ih h.2)
    · simp only [Memory.wfFrom, Bool.and_eq_true, decide_eq_true_eq]
      exact ⟨h.1, ih h.2⟩

/-- Writing a byte keeps the canonical form. -/
theorem Memory.wf_setByte {m : Memory} (h : m.wf = true) (a : Nat) (b : Byte) : (m.setByte a b).wf = true := by
  unfold Memory.setByte
  split
  · exact Memory.wfFrom_clear h a
  · rename_i hb; exact Memory.wfFrom_put h (Nat.zero_le a) hb

/-- Writing a run of bytes keeps the canonical form. -/
theorem Memory.wf_setBytes {m : Memory} (h : m.wf = true) (a : Nat) (bs : List Byte) : (m.setBytes a bs).wf = true := by
  induction bs generalizing m a with
  | nil => exact h
  | cons b bs ih => exact ih (Memory.wf_setByte h a b) (a + 1)

/-- A byte outside a run that was written is as before. -/
theorem Memory.byte_setBytes_of_not_mem (m : Memory) {a k : Nat} {bs : List Byte} (hk : k < a ∨ a + bs.length ≤ k) :
    (m.setBytes a bs).byte k = m.byte k := by
  induction bs generalizing m a with
  | nil => rfl
  | cons b bs ih =>
    simp only [List.length_cons] at hk
    simp only [Memory.setBytes]
    rw [ih _ (by omega), Memory.byte_setByte, if_neg (by omega)]

/-- A byte inside a run that was written is the run's. -/
theorem Memory.byte_setBytes (m : Memory) (a : Nat) (bs : List Byte) (i : Nat) (hi : i < bs.length) :
    (m.setBytes a bs).byte (a + i) = bs[i] := by
  induction bs generalizing m a i with
  | nil => simp at hi
  | cons b bs ih =>
    simp only [Memory.setBytes]
    cases i with
    | zero =>
      rw [Nat.add_zero, Memory.byte_setBytes_of_not_mem _ (by omega), Memory.byte_setByte]
      simp
    | succ i =>
      have hl : i < bs.length := by simpa using hi
      have := ih (m.setByte a b) (a + 1) i hl
      rw [show a + (i + 1) = a + 1 + i by omega, this]
      simp

theorem Memory.wfFrom_filter {m : Memory} {c : Nat} (h : m.wfFrom c = true) (p : Host.Cell → Bool) :
    Memory.wfFrom c (m.filter p) = true := by
  induction m generalizing c with
  | nil => rfl
  | cons y m ih =>
    obtain ⟨j, v⟩ := y
    simp only [Memory.wfFrom, Bool.and_eq_true, decide_eq_true_eq] at h
    simp only [List.filter]
    split
    · simp only [Memory.wfFrom, Bool.and_eq_true, decide_eq_true_eq]
      exact ⟨h.1, ih h.2⟩
    · exact Memory.wfFrom_mono (by omega) (ih h.2)

/-- Leaving entries out keeps the canonical form. -/
theorem Memory.wf_filter {m : Memory} (h : m.wf = true) (p : Host.Cell → Bool) : Memory.wf (m.filter p) = true :=
  Memory.wfFrom_filter h p

/-- A wipe keeps the canonical form. -/
theorem Memory.wf_wipe {m : Memory} (h : m.wf = true) (a n : Nat) : (m.wipe a n).wf = true := Memory.wf_filter h _

theorem Memory.wf_nil : Memory.wf [] = true := rfl

/-! ## Runs of bytes -/

theorem Memory.bytes_length (m : Memory) (a n : Nat) : (m.bytes a n).length = n := by simp [Memory.bytes]

theorem leBytes_length (n x : Nat) : (leBytes n x).length = n := by
  induction n generalizing x with
  | zero => rfl
  | succ n ih => simp [leBytes, ih]

/-- A number of n bytes comes back from its bytes. -/
theorem leNat_leBytes (n x : Nat) (h : x < 256 ^ n) : leNat (leBytes n x) = x := by
  induction n generalizing x with
  | zero => simp at h; simp [leBytes, leNat, h]
  | succ n ih =>
    simp only [leBytes, leNat]
    rw [ih (x / 256) (by rw [Nat.div_lt_iff_lt_mul (by norm_num)]; rwa [pow_succ] at h)]
    simp only [BitVec.toNat_ofNat]
    omega

/-! ## Lists -/

theorem modifyAt_length {α : Type} (l : List α) (n : Nat) (f : α → α) : (modifyAt l n f).length = l.length := by
  unfold modifyAt
  split <;> simp

theorem modifyAt_get? {α : Type} (l : List α) (n k : Nat) (f : α → α) :
    (modifyAt l n f)[k]? = if k = n then (l[n]?).map f else l[k]? := by
  unfold modifyAt
  split
  · rename_i x hx
    by_cases hk : k = n
    · subst hk
      have hl : k < l.length := by
        by_contra hc
        rw [List.getElem?_eq_none (by omega)] at hx
        cases hx
      rw [List.getElem?_eq_getElem hl] at hx
      cases hx
      simp [hl]
    · rw [List.getElem?_set_ne (fun h => hk h.symm), if_neg hk]
  · rename_i hx
    split
    · subst_vars; simp [hx]
    · rfl

end Sys2Proof.Machine
end

