-- ==== Sys2Proof/Laws/Ops.lean ====
section
/-!
SUPPORT. What each shared operation can do, said once: finding groups and contexts after an update, registers and paths after a
write, the queue effects, completing a word, parking, taking a trap.
-/
namespace Sys2Proof.Machine

/-! ## Finding a record after an update -/

theorem find_map_self {α : Type} (key : α → Nat) (l : List α) (n : Nat) (f : α → α) (hf : ∀ x, key x = n → key (f x) = n) :
    (l.map fun x => if key x == n then f x else x).find? (fun x => key x == n) = (l.find? fun x => key x == n).map f := by
  induction l with
  | nil => rfl
  | cons x l ih =>
    rw [List.map_cons, List.find?_cons, List.find?_cons]
    by_cases h : key x = n
    · have h1 : (key x == n) = true := beq_iff_eq.mpr h
      have h2 : (key (f x) == n) = true := beq_iff_eq.mpr (hf x h)
      simp only [h1, h2, if_true, Option.map]
    · have h1 : (key x == n) = false := beq_eq_false_iff_ne.mpr h
      simp only [h1, Bool.false_eq_true, if_false, ih]

theorem find_map_other {α : Type} (key : α → Nat) (l : List α) (n m : Nat) (f : α → α) (hm : m ≠ n)
    (hf : ∀ x, key x = n → key (f x) = n) :
    (l.map fun x => if key x == n then f x else x).find? (fun x => key x == m) = l.find? fun x => key x == m := by
  induction l with
  | nil => rfl
  | cons x l ih =>
    rw [List.map_cons, List.find?_cons, List.find?_cons, ih]
    by_cases h : key x = n
    · have h1 : (key x == n) = true := beq_iff_eq.mpr h
      have h2 : (key (f x) == m) = false := beq_eq_false_iff_ne.mpr (by rw [hf x h]; exact hm.symm)
      have h3 : (key x == m) = false := beq_eq_false_iff_ne.mpr (by rw [h]; exact hm.symm)
      simp only [h1, h2, h3, if_true]
    · have h1 : (key x == n) = false := beq_eq_false_iff_ne.mpr h
      simp only [h1, Bool.false_eq_true, if_false]

/-- The group that was written is found again. -/
theorem State.group?_modGroup (s : State) (n : Nat) (f : Group → Group) (hf : ∀ g, g.id = n → (f g).id = n) :
    (s.modGroup n f).group? n = (s.group? n).map f := find_map_self (fun g : Group => g.id) s.groups n f hf

theorem State.group?_modGroup_other (s : State) (n m : Nat) (f : Group → Group) (hf : ∀ g, g.id = n → (f g).id = n) (h : m ≠ n) :
    (s.modGroup n f).group? m = s.group? m := find_map_other (fun g : Group => g.id) s.groups n m f h hf

theorem State.group?_setGroup (s : State) (g : Group) : (s.setGroup g).group? g.id = (s.group? g.id).map fun _ => g :=
  find_map_self (fun g : Group => g.id) s.groups g.id (fun _ => g) fun _ _ => rfl

theorem State.group?_setGroup_other (s : State) (g : Group) (m : Nat) (h : m ≠ g.id) : (s.setGroup g).group? m = s.group? m :=
  find_map_other (fun g : Group => g.id) s.groups g.id m (fun _ => g) h fun _ _ => rfl

/-- A group that is found has the number it was looked for under. -/
theorem State.group?_id {s : State} {n : Nat} {g : Group} (h : s.group? n = some g) : g.id = n := by
  have := List.find?_some h
  simpa using this

@[simp] theorem State.group?_charge (s : State) (c k n m : Nat) : (s.charge c k n).group? m = s.group? m := by
  unfold State.group?
  rw [State.charge_groups]

/-- The context that was written is found again. -/
theorem State.ctx?_modCtx (s : State) (c k : Nat) (f : Context → Context) :
    (s.modCtx c f).ctx? k = if k = c then (s.ctx? c).map f else s.ctx? k := Map.get?_modify s.contexts c k f

theorem State.cluster?_modCluster (s : State) (c k : Nat) (f : Cluster → Cluster) :
    (s.modCluster c f).cluster? k = if k = c then (s.cluster? c).map f else s.cluster? k := Map.get?_modify s.clusters c k f

theorem State.part?_modPart (s : State) (p k : Nat) (f : Part → Part) :
    (s.modPart p f).part? k = if k = p then (s.part? p).map f else s.part? k := modifyAt_get? s.parts p k f

/-! ## The executing path -/

/-- A selected path stands in the group that is found under its number. -/
theorem State.here_some {s : State} {g : Group} {slot : Bool} {p : Path} (h : s.here = some (g, slot, p)) :
    s.cur = some (g.id, slot) ∧ s.group? g.id = some g ∧ g.path slot = some p := by
  unfold State.here at h
  split at h
  · cases h
  · rename_i gid b hc
    split at h
    · cases h
    · rename_i x hx
      cases hp : x.path b with
      | none => rw [hp] at h; cases h
      | some q =>
        rw [hp] at h
        cases h
        have hi := State.group?_id hx
        subst hi
        exact ⟨hc, hx, hp⟩

/-- A word's meaning where a path is selected. -/
theorem State.word_at {s : State} {g : Group} {slot : Bool} {p : Path} (h : s.here = some (g, slot, p))
    (body : Group → Bool → Path → Except Stop State) : s.word body = s.settle g.id slot (body g slot p) := by
  unfold State.word
  rw [h]

/-- A word's meaning goes on whenever a path is selected: its effect, its trap or its park. -/
theorem State.word_next {s : State} (h : s.here.isSome = true) (body : Group → Bool → Path → Except Stop State) :
    ∃ t, s.word body = .next t := by
  obtain ⟨⟨g, slot, p⟩, hp⟩ := Option.isSome_iff_exists.mp h
  rw [State.word_at hp]
  unfold State.settle
  split <;> exact ⟨_, rfl⟩

/-! ## Registers and paths of a group -/

@[simp] theorem Group.greg_setG (g : Group) (r k : Nat) (w : Word) : (g.setG r w).greg k = if k = r then w else g.greg k :=
  Map.word_setWord g.g r k w

@[simp] theorem Group.vreg_setG (g : Group) (r k i : Nat) (w : Word) : (g.setG r w).vreg k i = g.vreg k i := rfl

/-- A run of group registers after it was written. -/
theorem Group.greg_setGs (g : Group) (r k : Nat) (ws : List Word) :
    (g.setGs r ws).greg k = if r ≤ k ∧ k < r + ws.length then (ws[k - r]?).getD 0 else g.greg k := by
  induction ws generalizing g r with
  | nil =>
    rw [if_neg (by simp only [List.length_nil]; omega)]
    rfl
  | cons w ws ih =>
    simp only [Group.setGs, ih, Group.greg_setG, List.length_cons]
    by_cases h1 : k = r
    · subst h1
      simp
    · by_cases h2 : r + 1 ≤ k ∧ k < r + 1 + ws.length
      · rw [if_pos h2, if_pos (by omega), show k - r = (k - (r + 1)) + 1 by omega, List.getElem?_cons_succ]
      · rw [if_neg h2, if_neg h1, if_neg (by omega)]

/-- A vector register after one lane of one was written. -/
theorem Group.vreg_setV (g : Group) (r k i j : Nat) (w : Word) (hi : i < 32) (hj : j < 32) :
    (g.setV r i w).vreg k j = if k = r ∧ j = i ∧ g.accBusy r i = false then w else g.vreg k j := by
  unfold Group.setV
  cases hb : g.accBusy r i
  · simp only [Bool.false_eq_true, if_false, Group.vreg, Map.word_setWord, and_true]
    congr 1
    exact propext ⟨fun h => by omega, fun h => by omega⟩
  · simp [Group.vreg]

@[simp] theorem Group.accBusy_setV (g : Group) (r i k j : Nat) (w : Word) : (g.setV r i w).accBusy k j = g.accBusy k j := by
  unfold Group.accBusy
  rw [Group.setV_accRuns]

theorem Group.setLanes_cons (g : Group) (r i : Nat) (l : List Nat) (f : Nat → Word) :
    g.setLanes r (i :: l) f = (g.setV r i (f i)).setLanes r l f := rfl

/-- A vector register after lanes of one were written. -/
theorem Group.vreg_setLanes (g : Group) (r k j : Nat) (l : List Nat) (f : Nat → Word) (hl : ∀ i ∈ l, i < 32) (hj : j < 32) :
    (g.setLanes r l f).vreg k j = if k = r ∧ j ∈ l ∧ g.accBusy r j = false then f j else g.vreg k j := by
  induction l generalizing g with
  | nil => simp [Group.setLanes]
  | cons i l ih =>
    have hi := hl i (by simp)
    rw [Group.setLanes_cons, ih _ (fun x hx => hl x (by simp [hx])), Group.accBusy_setV, Group.vreg_setV _ _ _ _ _ _ hi hj]
    by_cases hk : k = r <;> by_cases hji : j = i <;> cases hb : g.accBusy r j <;> simp_all

/-- Nothing is recorded as a write to an accumulator where none is claimed. -/
theorem Group.setLanes_accHit (g : Group) (r : Nat) (l : List Nat) (f : Nat → Word) (h : g.accRuns = []) :
    (g.setLanes r l f).accHit = g.accHit := by
  induction l generalizing g with
  | nil => rfl
  | cons i l ih =>
    rw [Group.setLanes_cons, ih _ (by rw [Group.setV_accRuns]; exact h)]
    unfold Group.setV
    rw [if_neg (by simp [Group.accBusy, h])]

theorem lanesOf_lt (m : Mask) (i : Nat) (h : i ∈ lanesOf m) : i < 32 := by
  simp [lanesOf] at h
  omega

theorem mem_lanesOf (m : Mask) (i : Nat) (h : i < 32) : i ∈ lanesOf m ↔ m.getLsbD i = true := by
  simp [lanesOf, h]

@[simp] theorem Group.path_setPath (g : Group) (b : Bool) (p : Option Path) : (g.setPath b p).path b = p := by cases b <;> rfl

@[simp] theorem Group.path_setPath_other (g : Group) (b : Bool) (p : Option Path) : (g.setPath b p).path (!b) = g.path (!b) := by
  cases b <;> rfl

@[simp] theorem Group.path_modPath (g : Group) (b : Bool) (f : Path → Path) : (g.modPath b f).path b = (g.path b).map f :=
  Group.path_setPath g b _

@[simp] theorem Group.path_modPath_other (g : Group) (b : Bool) (f : Path → Path) : (g.modPath b f).path (!b) = g.path (!b) :=
  Group.path_setPath_other g b _

@[simp] theorem Group.greg_modPath (g : Group) (b : Bool) (f : Path → Path) (r : Nat) : (g.modPath b f).greg r = g.greg r := by
  unfold Group.greg
  rw [Group.modPath_g]

@[simp] theorem Group.vreg_modPath (g : Group) (b : Bool) (f : Path → Path) (r i : Nat) : (g.modPath b f).vreg r i = g.vreg r i := by
  unfold Group.vreg
  rw [Group.modPath_v]

/-! ## Completing a word -/

/-- Completing a word over a group that stands for the executing one. -/
theorem State.finishAt_completes {s : State} {g g1 : Group} {slot : Bool} {p : Path} (hs : (s.group? g.id).isSome = true)
    (hi : g1.id = g.id) (hc : g1.ctx = g.ctx) (hp : g1.path slot = some p) (pc : Word) (c : Chain) (cls : Nat) :
    Completes s (s.finishAt g1 slot pc c cls) g (g1.modPath slot fun q => q.done s.ticks pc c) slot (p.done s.ticks pc c) cls := by
  obtain ⟨g0, h0⟩ := Option.isSome_iff_exists.mp hs
  have hid : (g1.modPath slot fun q => q.done s.ticks pc c).id = g.id := by rw [Group.modPath_id, hi]
  refine ⟨?_, ?_, ?_, ?_, ?_, State.finishAt_only ..⟩
  · unfold State.finishAt
    rw [State.group?_charge, ← hid, State.group?_setGroup, hid, h0]
    rfl
  · rw [Group.path_modPath, hp]; rfl
  · intro i hne
    unfold State.finishAt
    rw [State.group?_charge, State.group?_setGroup_other _ _ _ (by rw [hid]; exact hne)]
  · unfold State.finishAt
    rw [hc]
    unfold State.charge State.ctx? State.part? State.modCtx
    simp only [State.setGroup_contexts, State.setGroup_parts]
    split
    · rfl
    · split <;> rfl
  · intro a
    rw [State.finishAt_mem]

/-- Completing a word that writes no register. -/
theorem State.finishAt_moves {s : State} {g : Group} {slot : Bool} {p : Path} (hs : s.group? g.id = some g)
    (hp : g.path slot = some p) (pc : Word) (c : Chain) (cls : Nat) :
    Moves s (s.finishAt g slot pc c cls) g slot (p.done s.ticks pc c) cls := by
  refine ⟨_, State.finishAt_completes (by rw [hs]; rfl) rfl rfl hp pc c cls, ?_, Group.path_modPath_other ..⟩
  cases slot <;> rfl

/-- Completing a word that writes one group register. -/
theorem State.finishAt_writesG {s : State} {g : Group} {slot : Bool} {p : Path} (hs : s.group? g.id = some g)
    (hp : g.path slot = some p) (d : Nat) (x : Word) (pc : Word) (c : Chain) (cls : Nat) :
    WritesG s (s.finishAt (g.setG d x) slot pc c cls) g slot (p.done s.ticks pc c) d x cls := by
  have hp1 : (g.setG d x).path slot = some p := by cases slot <;> exact hp
  refine ⟨_, State.finishAt_completes (g := g) (g1 := g.setG d x) (by rw [hs]; rfl) rfl rfl hp1 pc c cls, ⟨?_, ?_⟩, ?_⟩
  · cases slot <;> rfl
  · rw [Group.path_modPath_other]; cases slot <;> rfl
  · intro r
    rw [Group.greg_modPath, Group.greg_setG]

/-- finish over the executing path. -/
theorem State.finish_eq {s : State} {g : Group} {slot : Bool} {p : Path} (hp : g.path slot = some p) (cls : Nat) :
    s.finish g slot cls = s.finishAt g slot p.nextPc Chain.none cls := by
  unfold State.finish
  rw [hp]

/-! ## Queue effects: only clusters -/

theorem State.popRow_only (s : State) (g : Group) (q : Nat) : s.popRow g q = { s with clusters := (s.popRow g q).clusters } := by
  unfold State.popRow
  split <;> rfl

theorem State.pushRow_only (s : State) (g : Group) (q : Nat) (r : Row) :
    s.pushRow g q r = { s with clusters := (s.pushRow g q r).clusters } := by
  unfold State.pushRow
  split <;> rfl

/-- The queue effects of a lane word write clusters and nothing else. -/
theorem State.queueEffect_only (s : State) (g : Group) (m : Mask) (a d : Loc) (f : Nat → Word) :
    s.queueEffect g m a d f = { s with clusters := (s.queueEffect g m a d f).clusters } := by
  unfold State.queueEffect
  cases a <;> cases d <;> simp only [] <;>
    first | rfl | exact State.popRow_only .. | exact State.pushRow_only .. | (rw [State.pushRow_only, State.popRow_only])

/-- A lane word without queue operands has no queue effect. -/
theorem State.queueEffect_none (s : State) (g : Group) (m : Mask) (a d : Loc) (f : Nat → Word) (ha : ∀ q, a ≠ .queue q)
    (hd : ∀ q, d ≠ .queue q) : s.queueEffect g m a d f = s := by
  unfold State.queueEffect
  cases a <;> cases d <;> simp_all

theorem State.queueEffect_ticks (s : State) (g : Group) (m : Mask) (a d : Loc) (f : Nat → Word) :
    (s.queueEffect g m a d f).ticks = s.ticks := by rw [State.queueEffect_only]

theorem State.queueEffect_group? (s : State) (g : Group) (m : Mask) (a d : Loc) (f : Nat → Word) (n : Nat) :
    (s.queueEffect g m a d f).group? n = s.group? n := by rw [State.queueEffect_only]; rfl

/-- The result of a lane word. -/
theorem State.laneResult_writes {s : State} {g : Group} {slot : Bool} {p : Path} (hs : s.group? g.id = some g)
    (hp : g.path slot = some p) (o : Operands) (nw : Bool) (cls : Nat) (vals : Nat → Word) :
    WritesLanes s (s.laneResult g slot p o nw cls vals) g slot p o nw cls vals := by
  obtain ⟨g1, hr, he, ha, hv⟩ : ∃ g1 : Group,
      s.laneResult g slot p o nw cls vals = (s.queueEffect g p.mask o.a o.d vals).finishAt g1 slot p.nextPc
        (chainLane o.chain o.readsLatch (lanesFrom vals) p.mask) cls ∧
      g1 = { g with v := g1.v, accHit := g1.accHit } ∧ (g.accRuns = [] → g1.accHit = g.accHit) ∧
      ∀ r i, i < 32 → g1.vreg r i =
        if o.d = .v r ∧ nw = false ∧ p.mask.getLsbD i = true ∧ g.accBusy r i = false then vals i else g.vreg r i := by
    unfold State.laneResult
    cases hd : o.d with
    | v n =>
      cases nw
      · refine ⟨g.setLanes n (lanesOf p.mask) vals, rfl, Group.setLanes_only .., fun h => Group.setLanes_accHit _ _ _ _ h, ?_⟩
        intro r i hi
        rw [Group.vreg_setLanes _ _ _ _ _ _ (fun x hx => lanesOf_lt _ x hx) hi]
        by_cases hr : r = n
        · subst hr; simp [mem_lanesOf _ _ hi]
        · have : ¬ n = r := fun h => hr h.symm
          simp [hr, this]
      · exact ⟨g, rfl, rfl, fun _ => rfl, fun r i _ => by simp⟩
    | _ => exact ⟨g, rfl, rfl, fun _ => rfl, fun r i _ => by simp⟩
  rw [hr]
  have hi : g1.id = g.id := by rw [he]
  have hc : g1.ctx = g.ctx := by rw [he]
  have hp1 : g1.path slot = some p := by rw [he]; cases slot <;> exact hp
  have hq : ((s.queueEffect g p.mask o.a o.d vals).group? g.id).isSome = true := by
    rw [State.queueEffect_group?, hs]; rfl
  have H := State.finishAt_completes hq hi hc hp1 p.nextPc (chainLane o.chain o.readsLatch (lanesFrom vals) p.mask) cls
  rw [State.queueEffect_ticks] at H
  refine ⟨_, H, ⟨?_, ?_, ?_⟩, ?_⟩
  · rw [he]; cases slot <;> rfl
  · rw [Group.path_modPath_other, he]; cases slot <;> rfl
  · intro h; rw [Group.modPath_accHit]; exact ha h
  · intro r i h; rw [Group.vreg_modPath]; exact hv r i h

/-! ## Lane words -/

/-- A plain lane word whose checks pass. -/
theorem lanePlain_next {s : State} {g : Group} {slot : Bool} {p : Path} (h : s.here = some (g, slot, p)) {f : Form} {acc : Bool}
    {cls : Nat} {ok : Prefixes → Bool} {o : Operands} {row : Option Row} (ho : f.operands g p ok = .ok o)
    (hb : accInBounds g f.u acc o.d = true) (hq : queueCheck s g p.lanes o.a.queue? o.d.queue? = .ok row)
    (body : Prefixes → Word → Word → Word → Word) :
    lanePlain f acc cls ok body s = .next (s.laneResult g slot p o f.nw (if f.u then 0 else cls) fun i =>
      body o.ps (o.laneSrc g row o.a i) (o.laneSrc g row o.b i) (if acc then accSrc g f.u o.d i else 0)) := by
  unfold lanePlain
  rw [State.word_at h]
  simp only [ho, hq, hb, trapIf, bind, Except.bind, Bool.not_true, Bool.false_eq_true, if_false, State.settle]

/-- A cross-lane word whose checks pass. -/
theorem laneCross_next {s : State} {g : Group} {slot : Bool} {p : Path} (h : s.here = some (g, slot, p)) {f : Form} {cls : Nat}
    {o : Operands} {row : Option Row} (ho : f.operands g p = .ok o)
    (hq : queueCheck s g p.lanes o.a.queue? o.d.queue? = .ok row) (body : (Nat → Word) → Word → Nat → Word) :
    laneCross f cls body s = .next ((s.took g.ctx).laneResult g slot p o f.nw cls fun i =>
      body (crossSrc s g o row) (o.laneSrc g row o.b i) i) := by
  unfold laneCross
  rw [State.word_at h]
  simp only [ho, hq, bind, Except.bind, State.settle]

/-- A uniform arithmetic word whose checks pass. -/
theorem uniPlain_next {s : State} {g : Group} {slot : Bool} {p : Path} (h : s.here = some (g, slot, p)) {f : Form}
    {ok : Prefixes → Bool} {o : Operands} (ho : f.operands g p ok = .ok o) (body : Prefixes → Word → Word → Word → Word) :
    uniPlain f ok body s = .next (s.finishAt (g.setG o.d.num
        (body o.ps (o.uniSrc g o.a) (o.uniSrc g o.b) (g.greg o.d.num))) slot p.nextPc
      (chainUni o.chain o.readsLatch (body o.ps (o.uniSrc g o.a) (o.uniSrc g o.b) (g.greg o.d.num))) 0) := by
  unfold uniPlain
  rw [State.word_at h]
  simp only [ho, bind, Except.bind, State.settle]

/-! ## Parking and waking -/

/-- A park writes the path's prefixes, chain and wait, what it has issued ahead, and which accesses a release at it waits for (R46, R51, R72,
R197). -/
theorem State.parkPath_group {s : State} {g : Group} (hs : s.group? g.id = some g) (slot : Bool) (w : Wait) :
    (s.parkPath g.id slot w).group? g.id = some (g.modPath slot fun p => { p.park w with upTo := s.nextId }) := by
  unfold State.parkPath
  rw [State.group?_modGroup _ _ _ (fun x hx => by rw [Group.modPath_id]; exact hx), hs]
  rfl

/-- A wake makes the path ready again (R51). -/
theorem State.wakePath_group {s : State} {g : Group} (hs : s.group? g.id = some g) (slot : Bool) :
    (s.wakePath g.id slot).group? g.id = some (g.modPath slot fun p => p.wake s.ticks) := by
  unfold State.wakePath
  rw [State.group?_modGroup _ _ _ (fun x hx => by rw [Group.modPath_id]; exact hx), hs]
  rfl

end Sys2Proof.Machine
end

