-- ==== Sys2Proof/Laws/Mem.lean ====
section
/-!
SUPPORT. Every operation that writes State.mem keeps its canonical form: a store, the accepted writes taking effect, the movement and
the wiping of bytes, a line that is lost, the wipes of a reset.
-/
namespace Sys2Proof.Machine

theorem State.store_wf {s : State} (h : s.mem.wf = true) (k : Nat) (bs : List Byte) (t : Taint) : (s.store k bs t).mem.wf = true :=
  Memory.wf_setBytes h k bs

theorem PWrite.perform_wf (w : PWrite) {s : State} (h : s.mem.wf = true) : (w.perform s).mem.wf = true := State.store_wf h _ _ _

theorem performAll_wf (ws : List PWrite) {s : State} (h : s.mem.wf = true) : (ws.foldl (fun s w => w.perform s) s).mem.wf = true := by
  induction ws generalizing s with
  | nil => exact h
  | cons w ws ih => exact ih (w.perform_wf h)

theorem State.mature_wf {s : State} (h : s.mem.wf = true) : s.mature.mem.wf = true :=
  performAll_wf _ (s := { s with pending := _ }) h

theorem State.latest_wf {s : State} (h : s.mem.wf = true) : s.latest.mem.wf = true := performAll_wf _ h

/-- What performing writes leaves alone. -/
theorem performAll_only (ws : List PWrite) (s : State) :
    ws.foldl (fun s w => w.perform s) s =
      { s with mem := (ws.foldl (fun s w => w.perform s) s).mem, poison := (ws.foldl (fun s w => w.perform s) s).poison } := by
  induction ws generalizing s with
  | nil => rfl
  | cons w ws ih =>
    simp only [List.foldl_cons]
    rw [ih (w.perform s)]
    rfl

/-- Accepted writes taking effect change memory, poison and the list of pending writes alone. -/
theorem State.mature_only (s : State) :
    s.mature = { s with mem := s.mature.mem, poison := s.mature.poison, pending := s.mature.pending } := by
  unfold State.mature
  simp only []
  rw [performAll_only]

theorem Memory.wf_copy {m : Memory} (h : m.wf = true) (src dst n : Nat) : (m.copy src dst n).wf = true := by
  unfold Memory.copy
  generalize (List.filter _ m) = l
  have h0 : (m.wipe dst n).wf = true := Memory.wf_wipe h dst n
  generalize m.wipe dst n = m0 at h0
  induction l generalizing m0 with
  | nil => exact h0
  | cons c l ih => exact ih _ (Memory.wf_setByte h0 _ _)

theorem State.moveBytes_wf {s : State} (h : s.mem.wf = true) (src dst n : Nat) : (s.moveBytes src dst n).mem.wf = true :=
  Memory.wf_copy h src dst n

theorem State.wipe_wf {s : State} (h : s.mem.wf = true) (a n : Nat) : (s.wipe a n).mem.wf = true := Memory.wf_wipe h a n

theorem State.loseLine_wf {s : State} (h : s.mem.wf = true) (line : Nat) (l : L2Line) : (s.loseLine line l).mem.wf = true := by
  unfold State.loseLine
  split
  · exact h
  · exact Memory.wf_setBytes h _ _

theorem State.l2Lose_wf {s : State} (h : s.mem.wf = true) (line : Nat) (l : L2Line) : (s.l2Lose line l).mem.wf = true := by
  unfold State.l2Lose
  simp only []
  split
  · refine State.loseLine_wf ?_ line l
    exact h
  · exact h

theorem State.cleared_wf {s : State} (h : s.mem.wf = true) (parts : List PartCfg) : (s.cleared parts).mem.wf = true := Memory.wf_filter h _

theorem State.wipeKeys_wf {s : State} (h : s.mem.wf = true) (hit : Nat → Bool) : (s.wipeKeys hit).mem.wf = true := Memory.wf_filter h _

theorem State.putWord_wf {s : State} (h : s.mem.wf = true) (key : Nat) (w : Word) : (s.putWord key w).mem.wf = true :=
  Memory.wf_setBytes h _ _

end Sys2Proof.Machine
end

