-- ==== Sys2Proof/Laws/PerInstr.lean ====
section
/-!
SUPPORT. One lemma per constructor of Instr: the decoder reads back every field that the encoder lays out. Family Fields.
-/
namespace Sys2Proof.Laws

/-! ## Bits of a layout -/

theorem extract_low {v w : Nat} (x : BitVec v) (y : BitVec w) (lo n : Nat) (h : lo + n ≤ w) :
    (x ++ y).extractLsb' lo n = y.extractLsb' lo n := BitVec.extractLsb'_append_eq_of_add_le h

theorem extract_high {v w : Nat} (x : BitVec v) (y : BitVec w) (lo n : Nat) (h : w ≤ lo) :
    (x ++ y).extractLsb' lo n = x.extractLsb' (lo - w) n := BitVec.extractLsb'_append_eq_of_le h

theorem bit_low {v w : Nat} (x : BitVec v) (y : BitVec w) (i : Nat) (h : i < w) :
    (x ++ y).getLsbD i = y.getLsbD i := by rw [BitVec.getLsbD_append, if_pos h]

theorem bit_high {v w : Nat} (x : BitVec v) (y : BitVec w) (i : Nat) (h : w ≤ i) :
    (x ++ y).getLsbD i = x.getLsbD (i - w) := by rw [BitVec.getLsbD_append, if_neg (by omega)]

theorem bit_bit (b : Bool) : (bit b).getLsbD 0 = b := by cases b <;> rfl

theorem extract_zero (w lo n : Nat) : (0#w).extractLsb' lo n = 0#n := by ext; simp

/-! ## The layouts read field by field -/
theorem lane_set (u nw : Bool) (op : BitVec 6) (d a : BitVec 8) (b : BitVec 7) :
    (laneWord u nw op d a b).getLsbD 31 = false := by
  simp (disch := decide) only [laneWord, bit_high, Nat.reduceSub,
    ]
  rfl

theorem lane_u (u nw : Bool) (op : BitVec 6) (d a : BitVec 8) (b : BitVec 7) :
    fU (laneWord u nw op d a b) = u := by
  simp (disch := decide) only [laneWord, fU, bit_low, bit_high, Nat.reduceSub, bit_bit,
    ]

theorem lane_nw (u nw : Bool) (op : BitVec 6) (d a : BitVec 8) (b : BitVec 7) :
    fNw (laneWord u nw op d a b) = nw := by
  simp (disch := decide) only [laneWord, fNw, bit_low, bit_high, Nat.reduceSub, bit_bit,
    ]

theorem lane_op (u nw : Bool) (op : BitVec 6) (d a : BitVec 8) (b : BitVec 7) :
    fOp6 (laneWord u nw op d a b) = op := by
  simp (disch := decide) only [laneWord, fOp6, extract_low, extract_high, Nat.reduceSub,
    BitVec.extractLsb'_eq_self]

theorem lane_d (u nw : Bool) (op : BitVec 6) (d a : BitVec 8) (b : BitVec 7) :
    fD (laneWord u nw op d a b) = d := by
  simp (disch := decide) only [laneWord, fD, extract_low, extract_high, Nat.reduceSub,
    BitVec.extractLsb'_eq_self]

theorem lane_a (u nw : Bool) (op : BitVec 6) (d a : BitVec 8) (b : BitVec 7) :
    fA (laneWord u nw op d a b) = a := by
  simp (disch := decide) only [laneWord, fA, extract_low, extract_high, Nat.reduceSub,
    BitVec.extractLsb'_eq_self]

theorem lane_low (u nw : Bool) (op : BitVec 6) (d a : BitVec 8) (b : BitVec 7) (lo n : Nat) (h : lo + n ≤ 7) :
    (laneWord u nw op d a b).extractLsb' lo n = b.extractLsb' lo n := extract_low _ _ _ _ h

theorem lane_bit (u nw : Bool) (op : BitVec 6) (d a : BitVec 8) (b : BitVec 7) (i : Nat) (h : i < 7) :
    (laneWord u nw op d a b).getLsbD i = b.getLsbD i := bit_low _ _ _ h

theorem uni_set (op : BitVec 7) (d a b : BitVec 8) :
    (uniWord op d a b).getLsbD 31 = true := by
  simp (disch := decide) only [uniWord, bit_high, Nat.reduceSub,
    ]
  rfl

theorem uni_op (op : BitVec 7) (d a b : BitVec 8) :
    fOp7 (uniWord op d a b) = op := by
  simp (disch := decide) only [uniWord, fOp7, extract_low, extract_high, Nat.reduceSub,
    BitVec.extractLsb'_eq_self]

theorem uni_d (op : BitVec 7) (d a b : BitVec 8) :
    gD (uniWord op d a b) = d := by
  simp (disch := decide) only [uniWord, gD, extract_low, extract_high, Nat.reduceSub,
    BitVec.extractLsb'_eq_self]

theorem uni_a (op : BitVec 7) (d a b : BitVec 8) :
    gA (uniWord op d a b) = a := by
  simp (disch := decide) only [uniWord, gA, extract_low, extract_high, Nat.reduceSub,
    BitVec.extractLsb'_eq_self]

theorem uni_b (op : BitVec 7) (d a b : BitVec 8) :
    gB (uniWord op d a b) = b := by
  simp (disch := decide) only [uniWord, gB, extract_low,
    BitVec.extractLsb'_eq_self]

theorem uni_low (op : BitVec 7) (d a b : BitVec 8) (lo n : Nat) (h : lo + n ≤ 8) :
    (uniWord op d a b).extractLsb' lo n = b.extractLsb' lo n := extract_low _ _ _ _ h

theorem uni_bit (op : BitVec 7) (d a b : BitVec 8) (i : Nat) (h : i < 8) :
    (uniWord op d a b).getLsbD i = b.getLsbD i := bit_low _ _ _ h

theorem uni16_set (op : BitVec 7) (d : BitVec 8) (x : BitVec 16) :
    (uniWord16 op d x).getLsbD 31 = true := by
  simp (disch := decide) only [uniWord16, bit_high, Nat.reduceSub,
    ]
  rfl

theorem uni16_op (op : BitVec 7) (d : BitVec 8) (x : BitVec 16) :
    fOp7 (uniWord16 op d x) = op := by
  simp (disch := decide) only [uniWord16, fOp7, extract_low, extract_high, Nat.reduceSub,
    BitVec.extractLsb'_eq_self]

theorem uni16_d (op : BitVec 7) (d : BitVec 8) (x : BitVec 16) :
    gD (uniWord16 op d x) = d := by
  simp (disch := decide) only [uniWord16, gD, extract_low, extract_high, Nat.reduceSub,
    BitVec.extractLsb'_eq_self]

theorem uni16_low (op : BitVec 7) (d : BitVec 8) (x : BitVec 16) (lo n : Nat) (h : lo + n ≤ 16) :
    (uniWord16 op d x).extractLsb' lo n = x.extractLsb' lo n := extract_low _ _ _ _ h

theorem uni24_set (op : BitVec 7) (x : BitVec 24) :
    (uniWord24 op x).getLsbD 31 = true := by
  simp (disch := decide) only [uniWord24, bit_high, Nat.reduceSub,
    ]
  rfl

theorem uni24_op (op : BitVec 7) (x : BitVec 24) :
    fOp7 (uniWord24 op x) = op := by
  simp (disch := decide) only [uniWord24, fOp7, extract_low, extract_high, Nat.reduceSub,
    BitVec.extractLsb'_eq_self]

theorem uni24_x (op : BitVec 7) (x : BitVec 24) :
    g24 (uniWord24 op x) = x := by
  simp (disch := decide) only [uniWord24, g24, extract_low,
    BitVec.extractLsb'_eq_self]

theorem pfx_set (k : BitVec 2) (x : BitVec 22) :
    (pfxWord k x).getLsbD 31 = true := by
  simp (disch := decide) only [pfxWord, bit_high, Nat.reduceSub,
    ]
  rfl

theorem pfx_op (k : BitVec 2) (x : BitVec 22) :
    fOp7 (pfxWord k x) = 0x7F#7 := by
  simp (disch := decide) only [pfxWord, fOp7, extract_low, extract_high, Nat.reduceSub,
    BitVec.extractLsb'_eq_self]

theorem pfx_kind (k : BitVec 2) (x : BitVec 22) :
    (pfxWord k x).extractLsb' 22 2 = k := by
  simp (disch := decide) only [pfxWord, extract_low, extract_high, Nat.reduceSub,
    BitVec.extractLsb'_eq_self]

theorem pfx_low (k : BitVec 2) (x : BitVec 22) (lo n : Nat) (h : lo + n ≤ 22) :
    (pfxWord k x).extractLsb' lo n = x.extractLsb' lo n := extract_low _ _ _ _ h

theorem pfx_bit (k : BitVec 2) (x : BitVec 22) (i : Nat) (h : i < 22) :
    (pfxWord k x).getLsbD i = x.getLsbD i := bit_low _ _ _ h

theorem uni_in_a (op : BitVec 7) (d a b : BitVec 8) (lo n : Nat) (h : 8 ≤ lo) (k : lo - 8 + n ≤ 8) :
    (uniWord op d a b).extractLsb' lo n = a.extractLsb' (lo - 8) n :=
  (extract_high _ _ _ _ h).trans (extract_low _ _ _ _ k)

theorem uni_in_d (op : BitVec 7) (d a b : BitVec 8) (lo n : Nat) (h : 16 ≤ lo) (k : lo - 16 + n ≤ 8) :
    (uniWord op d a b).extractLsb' lo n = d.extractLsb' (lo - 16) n := by
  have h8 : 8 ≤ lo := by omega
  have h9 : 8 ≤ lo - 8 := by omega
  have h10 : lo - 8 - 8 = lo - 16 := by omega
  exact ((extract_high _ _ _ _ h8).trans (extract_high _ _ _ _ h9)).trans
    (by rw [h10]; exact extract_low _ _ _ _ k)

theorem uni_ab (op : BitVec 7) (d : BitVec 8) : (uniWord op d 0 0).extractLsb' 0 16 = 0 := by
  ext i hi
  rw [BitVec.getElem_extractLsb']
  by_cases h : i < 8
  · rw [uniWord, bit_low _ _ _ (by omega)]; simp
  · rw [uniWord, bit_high _ _ _ (by omega), bit_low _ _ _ (by omega)]; simp

theorem uni_da (op : BitVec 7) (b : BitVec 8) : (uniWord op 0 0 b).extractLsb' 8 16 = 0 := by
  ext i hi
  rw [BitVec.getElem_extractLsb', uniWord, bit_high _ _ _ (by omega)]
  by_cases h : i < 8
  · rw [bit_low _ _ _ (by omega)]; simp
  · rw [bit_high _ _ _ (by omega), bit_low _ _ _ (by omega)]; simp

theorem uni_fence (op : BitVec 7) (k : BitVec 2) (s : BitVec 3) : (uniWord op 0 0 (0#3 ++ k ++ s)).extractLsb' 5 19 = 0 := by
  ext i hi
  rw [BitVec.getElem_extractLsb', uniWord]
  by_cases h : i < 3
  · rw [bit_low _ _ _ (by omega), bit_high _ _ _ (by omega), bit_high _ _ _ (by omega)]; simp
  · rw [bit_high _ _ _ (by omega)]
    by_cases h : i < 11
    · rw [bit_low _ _ _ (by omega)]; simp
    · rw [bit_high _ _ _ (by omega), bit_low _ _ _ (by omega)]; simp

theorem uni16_hi (op : BitVec 7) (d : BitVec 8) (x : BitVec 16) : (uniWord16 op d x).extractLsb' 16 8 = d := uni16_d op d x

theorem pfx_zero (k : BitVec 2) (x : BitVec 19) : (pfxWord k (x ++ 0#3)).extractLsb' 0 3 = 0 := by
  simp (disch := decide) only [pfxWord, extract_low, extract_zero]
  rfl

/-- The table that a layout's set bit selects. -/
theorem fields_lane {w : Word} (h : w.getLsbD 31 = false) : decodeFields w = decodeLane w := by simp only [decodeFields, h]; rfl
theorem fields_uni {w : Word} (h : w.getLsbD 31 = true) : decodeFields w = decodeUni w := by simp only [decodeFields, h]; rfl

/-! ## The family -/

/-- The fields of an encoded word decode to the instruction they were laid out from. -/
def Fields.Statement (i : Instr) : Prop := ∀ w, encode i = some w → decodeFields w = .ok i

theorem Fields.iadd (o : LaneR) : Fields.Statement (.iadd o) := by
  rintro _ ⟨⟩
  rw [fields_lane (lane_set ..), decodeLane, lane_op]
  change (.ok (.iadd (lr (laneWord o.u o.nw 0x00#6 o.d o.a o.b))) : Except Defect Instr) = _
  simp (disch := decide) only [lr, lane_u, lane_nw, lane_d, lane_a, lane_low, fB, BitVec.extractLsb'_eq_self]
  try rfl
theorem Fields.isub (o : LaneR) : Fields.Statement (.isub o) := by
  rintro _ ⟨⟩
  rw [fields_lane (lane_set ..), decodeLane, lane_op]
  change (.ok (.isub (lr (laneWord o.u o.nw 0x01#6 o.d o.a o.b))) : Except Defect Instr) = _
  simp (disch := decide) only [lr, lane_u, lane_nw, lane_d, lane_a, lane_low, fB, BitVec.extractLsb'_eq_self]
  try rfl
theorem Fields.iaddi (o : LaneI) : Fields.Statement (.iaddi o) := by
  rintro _ ⟨⟩
  rw [fields_lane (lane_set ..), decodeLane, lane_op]
  change (.ok (.iaddi ⟨fU (laneWord o.u o.nw 0x02#6 o.d o.a o.imm), fNw (laneWord o.u o.nw 0x02#6 o.d o.a o.imm), fD (laneWord o.u o.nw 0x02#6 o.d o.a o.imm), fA (laneWord o.u o.nw 0x02#6 o.d o.a o.imm), fB (laneWord o.u o.nw 0x02#6 o.d o.a o.imm)⟩) : Except Defect Instr) = _
  simp (disch := decide) only [lane_u, lane_nw, lane_d, lane_a, lane_low, fB, BitVec.extractLsb'_eq_self]
  try rfl
theorem Fields.imul (o : LaneR) : Fields.Statement (.imul o) := by
  rintro _ ⟨⟩
  rw [fields_lane (lane_set ..), decodeLane, lane_op]
  change (.ok (.imul (lr (laneWord o.u o.nw 0x03#6 o.d o.a o.b))) : Except Defect Instr) = _
  simp (disch := decide) only [lr, lane_u, lane_nw, lane_d, lane_a, lane_low, fB, BitVec.extractLsb'_eq_self]
  try rfl
theorem Fields.imulhs (o : LaneR) : Fields.Statement (.imulhs o) := by
  rintro _ ⟨⟩
  rw [fields_lane (lane_set ..), decodeLane, lane_op]
  change (.ok (.imulhs (lr (laneWord o.u o.nw 0x04#6 o.d o.a o.b))) : Except Defect Instr) = _
  simp (disch := decide) only [lr, lane_u, lane_nw, lane_d, lane_a, lane_low, fB, BitVec.extractLsb'_eq_self]
  try rfl
theorem Fields.imulhn (o : LaneR) : Fields.Statement (.imulhn o) := by
  rintro _ ⟨⟩
  rw [fields_lane (lane_set ..), decodeLane, lane_op]
  change (.ok (.imulhn (lr (laneWord o.u o.nw 0x05#6 o.d o.a o.b))) : Except Defect Instr) = _
  simp (disch := decide) only [lr, lane_u, lane_nw, lane_d, lane_a, lane_low, fB, BitVec.extractLsb'_eq_self]
  try rfl
theorem Fields.imad (o : LaneR) : Fields.Statement (.imad o) := by
  rintro _ ⟨⟩
  rw [fields_lane (lane_set ..), decodeLane, lane_op]
  change (.ok (.imad (lr (laneWord o.u o.nw 0x06#6 o.d o.a o.b))) : Except Defect Instr) = _
  simp (disch := decide) only [lr, lane_u, lane_nw, lane_d, lane_a, lane_low, fB, BitVec.extractLsb'_eq_self]
  try rfl
theorem Fields.qmul (o : LaneR) : Fields.Statement (.qmul o) := by
  rintro _ ⟨⟩
  rw [fields_lane (lane_set ..), decodeLane, lane_op]
  change (.ok (.qmul (lr (laneWord o.u o.nw 0x07#6 o.d o.a o.b))) : Except Defect Instr) = _
  simp (disch := decide) only [lr, lane_u, lane_nw, lane_d, lane_a, lane_low, fB, BitVec.extractLsb'_eq_self]
  try rfl
theorem Fields.and (o : LaneR) : Fields.Statement (.and o) := by
  rintro _ ⟨⟩
  rw [fields_lane (lane_set ..), decodeLane, lane_op]
  change (.ok (.and (lr (laneWord o.u o.nw 0x08#6 o.d o.a o.b))) : Except Defect Instr) = _
  simp (disch := decide) only [lr, lane_u, lane_nw, lane_d, lane_a, lane_low, fB, BitVec.extractLsb'_eq_self]
  try rfl
theorem Fields.or (o : LaneR) : Fields.Statement (.or o) := by
  rintro _ ⟨⟩
  rw [fields_lane (lane_set ..), decodeLane, lane_op]
  change (.ok (.or (lr (laneWord o.u o.nw 0x09#6 o.d o.a o.b))) : Except Defect Instr) = _
  simp (disch := decide) only [lr, lane_u, lane_nw, lane_d, lane_a, lane_low, fB, BitVec.extractLsb'_eq_self]
  try rfl
theorem Fields.xor (o : LaneR) : Fields.Statement (.xor o) := by
  rintro _ ⟨⟩
  rw [fields_lane (lane_set ..), decodeLane, lane_op]
  change (.ok (.xor (lr (laneWord o.u o.nw 0x0A#6 o.d o.a o.b))) : Except Defect Instr) = _
  simp (disch := decide) only [lr, lane_u, lane_nw, lane_d, lane_a, lane_low, fB, BitVec.extractLsb'_eq_self]
  try rfl
theorem Fields.andn (o : LaneR) : Fields.Statement (.andn o) := by
  rintro _ ⟨⟩
  rw [fields_lane (lane_set ..), decodeLane, lane_op]
  change (.ok (.andn (lr (laneWord o.u o.nw 0x0B#6 o.d o.a o.b))) : Except Defect Instr) = _
  simp (disch := decide) only [lr, lane_u, lane_nw, lane_d, lane_a, lane_low, fB, BitVec.extractLsb'_eq_self]
  try rfl
theorem Fields.shl (o : LaneR) : Fields.Statement (.shl o) := by
  rintro _ ⟨⟩
  rw [fields_lane (lane_set ..), decodeLane, lane_op]
  change (.ok (.shl (lr (laneWord o.u o.nw 0x0C#6 o.d o.a o.b))) : Except Defect Instr) = _
  simp (disch := decide) only [lr, lane_u, lane_nw, lane_d, lane_a, lane_low, fB, BitVec.extractLsb'_eq_self]
  try rfl
theorem Fields.shr (o : LaneR) : Fields.Statement (.shr o) := by
  rintro _ ⟨⟩
  rw [fields_lane (lane_set ..), decodeLane, lane_op]
  change (.ok (.shr (lr (laneWord o.u o.nw 0x0D#6 o.d o.a o.b))) : Except Defect Instr) = _
  simp (disch := decide) only [lr, lane_u, lane_nw, lane_d, lane_a, lane_low, fB, BitVec.extractLsb'_eq_self]
  try rfl
theorem Fields.sra (o : LaneR) : Fields.Statement (.sra o) := by
  rintro _ ⟨⟩
  rw [fields_lane (lane_set ..), decodeLane, lane_op]
  change (.ok (.sra (lr (laneWord o.u o.nw 0x0E#6 o.d o.a o.b))) : Except Defect Instr) = _
  simp (disch := decide) only [lr, lane_u, lane_nw, lane_d, lane_a, lane_low, fB, BitVec.extractLsb'_eq_self]
  try rfl
theorem Fields.shli (o : LaneS) : Fields.Statement (.shli o) := by
  rintro _ ⟨⟩
  rw [fields_lane (lane_set ..), decodeLane, lane_op]
  change decodeShfi (laneWord o.u o.nw 0x0F#6 o.d o.a (0#2 ++ o.s)) = _
  simp (disch := decide) only [decodeShfi, lane_low, extract_high, extract_zero, Nat.reduceSub]
  simp (disch := decide) only [ls, lane_u, lane_nw, lane_d, lane_a, lane_low, extract_low, BitVec.extractLsb'_eq_self]
  try rfl
theorem Fields.shri (o : LaneS) : Fields.Statement (.shri o) := by
  rintro _ ⟨⟩
  rw [fields_lane (lane_set ..), decodeLane, lane_op]
  change decodeShfi (laneWord o.u o.nw 0x0F#6 o.d o.a (1#2 ++ o.s)) = _
  simp (disch := decide) only [decodeShfi, lane_low, extract_high, Nat.reduceSub, BitVec.extractLsb'_eq_self]
  simp (disch := decide) only [ls, lane_u, lane_nw, lane_d, lane_a, lane_low, extract_low, BitVec.extractLsb'_eq_self]
  try rfl
theorem Fields.srai (o : LaneS) : Fields.Statement (.srai o) := by
  rintro _ ⟨⟩
  rw [fields_lane (lane_set ..), decodeLane, lane_op]
  change decodeShfi (laneWord o.u o.nw 0x0F#6 o.d o.a (2#2 ++ o.s)) = _
  simp (disch := decide) only [decodeShfi, lane_low, extract_high, Nat.reduceSub, BitVec.extractLsb'_eq_self]
  simp (disch := decide) only [ls, lane_u, lane_nw, lane_d, lane_a, lane_low, extract_low, BitVec.extractLsb'_eq_self]
  try rfl
theorem Fields.rotli (o : LaneS) : Fields.Statement (.rotli o) := by
  rintro _ ⟨⟩
  rw [fields_lane (lane_set ..), decodeLane, lane_op]
  change decodeShfi (laneWord o.u o.nw 0x0F#6 o.d o.a (3#2 ++ o.s)) = _
  simp (disch := decide) only [decodeShfi, lane_low, extract_high, Nat.reduceSub, BitVec.extractLsb'_eq_self]
  simp (disch := decide) only [ls, lane_u, lane_nw, lane_d, lane_a, lane_low, extract_low, BitVec.extractLsb'_eq_self]
  try rfl
theorem Fields.imins (o : LaneR) : Fields.Statement (.imins o) := by
  rintro _ ⟨⟩
  rw [fields_lane (lane_set ..), decodeLane, lane_op]
  change (.ok (.imins (lr (laneWord o.u o.nw 0x10#6 o.d o.a o.b))) : Except Defect Instr) = _
  simp (disch := decide) only [lr, lane_u, lane_nw, lane_d, lane_a, lane_low, fB, BitVec.extractLsb'_eq_self]
  try rfl
theorem Fields.imaxs (o : LaneR) : Fields.Statement (.imaxs o) := by
  rintro _ ⟨⟩
  rw [fields_lane (lane_set ..), decodeLane, lane_op]
  change (.ok (.imaxs (lr (laneWord o.u o.nw 0x11#6 o.d o.a o.b))) : Except Defect Instr) = _
  simp (disch := decide) only [lr, lane_u, lane_nw, lane_d, lane_a, lane_low, fB, BitVec.extractLsb'_eq_self]
  try rfl
theorem Fields.iminn (o : LaneR) : Fields.Statement (.iminn o) := by
  rintro _ ⟨⟩
  rw [fields_lane (lane_set ..), decodeLane, lane_op]
  change (.ok (.iminn (lr (laneWord o.u o.nw 0x12#6 o.d o.a o.b))) : Except Defect Instr) = _
  simp (disch := decide) only [lr, lane_u, lane_nw, lane_d, lane_a, lane_low, fB, BitVec.extractLsb'_eq_self]
  try rfl
theorem Fields.imaxn (o : LaneR) : Fields.Statement (.imaxn o) := by
  rintro _ ⟨⟩
  rw [fields_lane (lane_set ..), decodeLane, lane_op]
  change (.ok (.imaxn (lr (laneWord o.u o.nw 0x13#6 o.d o.a o.b))) : Except Defect Instr) = _
  simp (disch := decide) only [lr, lane_u, lane_nw, lane_d, lane_a, lane_low, fB, BitVec.extractLsb'_eq_self]
  try rfl
theorem Fields.icmpeq (o : LaneR) : Fields.Statement (.icmpeq o) := by
  rintro _ ⟨⟩
  rw [fields_lane (lane_set ..), decodeLane, lane_op]
  change (.ok (.icmpeq (lr (laneWord o.u o.nw 0x14#6 o.d o.a o.b))) : Except Defect Instr) = _
  simp (disch := decide) only [lr, lane_u, lane_nw, lane_d, lane_a, lane_low, fB, BitVec.extractLsb'_eq_self]
  try rfl
theorem Fields.icmpne (o : LaneR) : Fields.Statement (.icmpne o) := by
  rintro _ ⟨⟩
  rw [fields_lane (lane_set ..), decodeLane, lane_op]
  change (.ok (.icmpne (lr (laneWord o.u o.nw 0x15#6 o.d o.a o.b))) : Except Defect Instr) = _
  simp (disch := decide) only [lr, lane_u, lane_nw, lane_d, lane_a, lane_low, fB, BitVec.extractLsb'_eq_self]
  try rfl
theorem Fields.icmplt (o : LaneR) : Fields.Statement (.icmplt o) := by
  rintro _ ⟨⟩
  rw [fields_lane (lane_set ..), decodeLane, lane_op]
  change (.ok (.icmplt (lr (laneWord o.u o.nw 0x16#6 o.d o.a o.b))) : Except Defect Instr) = _
  simp (disch := decide) only [lr, lane_u, lane_nw, lane_d, lane_a, lane_low, fB, BitVec.extractLsb'_eq_self]
  try rfl
theorem Fields.icmple (o : LaneR) : Fields.Statement (.icmple o) := by
  rintro _ ⟨⟩
  rw [fields_lane (lane_set ..), decodeLane, lane_op]
  change (.ok (.icmple (lr (laneWord o.u o.nw 0x17#6 o.d o.a o.b))) : Except Defect Instr) = _
  simp (disch := decide) only [lr, lane_u, lane_nw, lane_d, lane_a, lane_low, fB, BitVec.extractLsb'_eq_self]
  try rfl
theorem Fields.icmpltn (o : LaneR) : Fields.Statement (.icmpltn o) := by
  rintro _ ⟨⟩
  rw [fields_lane (lane_set ..), decodeLane, lane_op]
  change (.ok (.icmpltn (lr (laneWord o.u o.nw 0x18#6 o.d o.a o.b))) : Except Defect Instr) = _
  simp (disch := decide) only [lr, lane_u, lane_nw, lane_d, lane_a, lane_low, fB, BitVec.extractLsb'_eq_self]
  try rfl
theorem Fields.icmplen (o : LaneR) : Fields.Statement (.icmplen o) := by
  rintro _ ⟨⟩
  rw [fields_lane (lane_set ..), decodeLane, lane_op]
  change (.ok (.icmplen (lr (laneWord o.u o.nw 0x19#6 o.d o.a o.b))) : Except Defect Instr) = _
  simp (disch := decide) only [lr, lane_u, lane_nw, lane_d, lane_a, lane_low, fB, BitVec.extractLsb'_eq_self]
  try rfl
theorem Fields.sel (o : LaneR) : Fields.Statement (.sel o) := by
  rintro _ ⟨⟩
  rw [fields_lane (lane_set ..), decodeLane, lane_op]
  change (.ok (.sel (lr (laneWord o.u o.nw 0x1A#6 o.d o.a o.b))) : Except Defect Instr) = _
  simp (disch := decide) only [lr, lane_u, lane_nw, lane_d, lane_a, lane_low, fB, BitVec.extractLsb'_eq_self]
  try rfl
theorem Fields.mov (o : LaneU) : Fields.Statement (.mov o) := by
  rintro _ ⟨⟩
  rw [fields_lane (lane_set ..), decodeLane, lane_op]
  change decodeUnary (laneWord o.u o.nw 0x1B#6 o.d o.a 0x00#7) = _
  simp (disch := decide) only [decodeUnary, lane_low, fB, extract_zero]
  simp (disch := decide) only [lu, lane_u, lane_nw, lane_d, lane_a]
  try rfl
theorem Fields.neg (o : LaneU) : Fields.Statement (.neg o) := by
  rintro _ ⟨⟩
  rw [fields_lane (lane_set ..), decodeLane, lane_op]
  change decodeUnary (laneWord o.u o.nw 0x1B#6 o.d o.a 0x01#7) = _
  simp (disch := decide) only [decodeUnary, lane_low, fB, BitVec.extractLsb'_eq_self]
  simp (disch := decide) only [lu, lane_u, lane_nw, lane_d, lane_a]
  try rfl
theorem Fields.not (o : LaneU) : Fields.Statement (.not o) := by
  rintro _ ⟨⟩
  rw [fields_lane (lane_set ..), decodeLane, lane_op]
  change decodeUnary (laneWord o.u o.nw 0x1B#6 o.d o.a 0x02#7) = _
  simp (disch := decide) only [decodeUnary, lane_low, fB, BitVec.extractLsb'_eq_self]
  simp (disch := decide) only [lu, lane_u, lane_nw, lane_d, lane_a]
  try rfl
theorem Fields.abs (o : LaneU) : Fields.Statement (.abs o) := by
  rintro _ ⟨⟩
  rw [fields_lane (lane_set ..), decodeLane, lane_op]
  change decodeUnary (laneWord o.u o.nw 0x1B#6 o.d o.a 0x03#7) = _
  simp (disch := decide) only [decodeUnary, lane_low, fB, BitVec.extractLsb'_eq_self]
  simp (disch := decide) only [lu, lane_u, lane_nw, lane_d, lane_a]
  try rfl
theorem Fields.clz (o : LaneU) : Fields.Statement (.clz o) := by
  rintro _ ⟨⟩
  rw [fields_lane (lane_set ..), decodeLane, lane_op]
  change decodeUnary (laneWord o.u o.nw 0x1B#6 o.d o.a 0x04#7) = _
  simp (disch := decide) only [decodeUnary, lane_low, fB, BitVec.extractLsb'_eq_self]
  simp (disch := decide) only [lu, lane_u, lane_nw, lane_d, lane_a]
  try rfl
theorem Fields.popc (o : LaneU) : Fields.Statement (.popc o) := by
  rintro _ ⟨⟩
  rw [fields_lane (lane_set ..), decodeLane, lane_op]
  change decodeUnary (laneWord o.u o.nw 0x1B#6 o.d o.a 0x05#7) = _
  simp (disch := decide) only [decodeUnary, lane_low, fB, BitVec.extractLsb'_eq_self]
  simp (disch := decide) only [lu, lane_u, lane_nw, lane_d, lane_a]
  try rfl
theorem Fields.brev (o : LaneU) : Fields.Statement (.brev o) := by
  rintro _ ⟨⟩
  rw [fields_lane (lane_set ..), decodeLane, lane_op]
  change decodeUnary (laneWord o.u o.nw 0x1B#6 o.d o.a 0x06#7) = _
  simp (disch := decide) only [decodeUnary, lane_low, fB, BitVec.extractLsb'_eq_self]
  simp (disch := decide) only [lu, lane_u, lane_nw, lane_d, lane_a]
  try rfl
theorem Fields.lid (o : LaneD) : Fields.Statement (.lid o) := by
  rintro _ ⟨⟩
  rw [fields_lane (lane_set ..), decodeLane, lane_op]
  change decodeUnary (laneWord false o.nw 0x1B#6 o.d 0 0x07#7) = _
  simp (disch := decide) only [decodeUnary, lane_low, fB, BitVec.extractLsb'_eq_self]
  simp (disch := decide) only [need, lane_u, lane_nw, lane_d, lane_a]
  try rfl
theorem Fields.fneg (o : LaneU) : Fields.Statement (.fneg o) := by
  rintro _ ⟨⟩
  rw [fields_lane (lane_set ..), decodeLane, lane_op]
  change decodeUnary (laneWord o.u o.nw 0x1B#6 o.d o.a 0x08#7) = _
  simp (disch := decide) only [decodeUnary, lane_low, fB, BitVec.extractLsb'_eq_self]
  simp (disch := decide) only [lu, lane_u, lane_nw, lane_d, lane_a]
  try rfl
theorem Fields.fabs (o : LaneU) : Fields.Statement (.fabs o) := by
  rintro _ ⟨⟩
  rw [fields_lane (lane_set ..), decodeLane, lane_op]
  change decodeUnary (laneWord o.u o.nw 0x1B#6 o.d o.a 0x09#7) = _
  simp (disch := decide) only [decodeUnary, lane_low, fB, BitVec.extractLsb'_eq_self]
  simp (disch := decide) only [lu, lane_u, lane_nw, lane_d, lane_a]
  try rfl
theorem Fields.f2i (o : LaneU) : Fields.Statement (.f2i o) := by
  rintro _ ⟨⟩
  rw [fields_lane (lane_set ..), decodeLane, lane_op]
  change decodeUnary (laneWord o.u o.nw 0x1B#6 o.d o.a 0x10#7) = _
  simp (disch := decide) only [decodeUnary, lane_low, fB, BitVec.extractLsb'_eq_self]
  simp (disch := decide) only [lu, lane_u, lane_nw, lane_d, lane_a]
  try rfl
theorem Fields.f2iz (o : LaneU) : Fields.Statement (.f2iz o) := by
  rintro _ ⟨⟩
  rw [fields_lane (lane_set ..), decodeLane, lane_op]
  change decodeUnary (laneWord o.u o.nw 0x1B#6 o.d o.a 0x11#7) = _
  simp (disch := decide) only [decodeUnary, lane_low, fB, BitVec.extractLsb'_eq_self]
  simp (disch := decide) only [lu, lane_u, lane_nw, lane_d, lane_a]
  try rfl
theorem Fields.f2n (o : LaneU) : Fields.Statement (.f2n o) := by
  rintro _ ⟨⟩
  rw [fields_lane (lane_set ..), decodeLane, lane_op]
  change decodeUnary (laneWord o.u o.nw 0x1B#6 o.d o.a 0x12#7) = _
  simp (disch := decide) only [decodeUnary, lane_low, fB, BitVec.extractLsb'_eq_self]
  simp (disch := decide) only [lu, lane_u, lane_nw, lane_d, lane_a]
  try rfl
theorem Fields.f2nz (o : LaneU) : Fields.Statement (.f2nz o) := by
  rintro _ ⟨⟩
  rw [fields_lane (lane_set ..), decodeLane, lane_op]
  change decodeUnary (laneWord o.u o.nw 0x1B#6 o.d o.a 0x13#7) = _
  simp (disch := decide) only [decodeUnary, lane_low, fB, BitVec.extractLsb'_eq_self]
  simp (disch := decide) only [lu, lane_u, lane_nw, lane_d, lane_a]
  try rfl
theorem Fields.i2f (o : LaneU) : Fields.Statement (.i2f o) := by
  rintro _ ⟨⟩
  rw [fields_lane (lane_set ..), decodeLane, lane_op]
  change decodeUnary (laneWord o.u o.nw 0x1B#6 o.d o.a 0x14#7) = _
  simp (disch := decide) only [decodeUnary, lane_low, fB, BitVec.extractLsb'_eq_self]
  simp (disch := decide) only [lu, lane_u, lane_nw, lane_d, lane_a]
  try rfl
theorem Fields.n2f (o : LaneU) : Fields.Statement (.n2f o) := by
  rintro _ ⟨⟩
  rw [fields_lane (lane_set ..), decodeLane, lane_op]
  change decodeUnary (laneWord o.u o.nw 0x1B#6 o.d o.a 0x15#7) = _
  simp (disch := decide) only [decodeUnary, lane_low, fB, BitVec.extractLsb'_eq_self]
  simp (disch := decide) only [lu, lane_u, lane_nw, lane_d, lane_a]
  try rfl
theorem Fields.f2bf (o : LaneU) : Fields.Statement (.f2bf o) := by
  rintro _ ⟨⟩
  rw [fields_lane (lane_set ..), decodeLane, lane_op]
  change decodeUnary (laneWord o.u o.nw 0x1B#6 o.d o.a 0x16#7) = _
  simp (disch := decide) only [decodeUnary, lane_low, fB, BitVec.extractLsb'_eq_self]
  simp (disch := decide) only [lu, lane_u, lane_nw, lane_d, lane_a]
  try rfl
theorem Fields.bf2f (o : LaneU) : Fields.Statement (.bf2f o) := by
  rintro _ ⟨⟩
  rw [fields_lane (lane_set ..), decodeLane, lane_op]
  change decodeUnary (laneWord o.u o.nw 0x1B#6 o.d o.a 0x17#7) = _
  simp (disch := decide) only [decodeUnary, lane_low, fB, BitVec.extractLsb'_eq_self]
  simp (disch := decide) only [lu, lane_u, lane_nw, lane_d, lane_a]
  try rfl
theorem Fields.bf2fh (o : LaneU) : Fields.Statement (.bf2fh o) := by
  rintro _ ⟨⟩
  rw [fields_lane (lane_set ..), decodeLane, lane_op]
  change decodeUnary (laneWord o.u o.nw 0x1B#6 o.d o.a 0x18#7) = _
  simp (disch := decide) only [decodeUnary, lane_low, fB, BitVec.extractLsb'_eq_self]
  simp (disch := decide) only [lu, lane_u, lane_nw, lane_d, lane_a]
  try rfl
theorem Fields.rcp (o : LaneU) : Fields.Statement (.rcp o) := by
  rintro _ ⟨⟩
  rw [fields_lane (lane_set ..), decodeLane, lane_op]
  change decodeUnary (laneWord o.u o.nw 0x1B#6 o.d o.a 0x20#7) = _
  simp (disch := decide) only [decodeUnary, lane_low, fB, BitVec.extractLsb'_eq_self]
  simp (disch := decide) only [lu, lane_u, lane_nw, lane_d, lane_a]
  try rfl
theorem Fields.rsq (o : LaneU) : Fields.Statement (.rsq o) := by
  rintro _ ⟨⟩
  rw [fields_lane (lane_set ..), decodeLane, lane_op]
  change decodeUnary (laneWord o.u o.nw 0x1B#6 o.d o.a 0x21#7) = _
  simp (disch := decide) only [decodeUnary, lane_low, fB, BitVec.extractLsb'_eq_self]
  simp (disch := decide) only [lu, lane_u, lane_nw, lane_d, lane_a]
  try rfl
theorem Fields.sqrt (o : LaneU) : Fields.Statement (.sqrt o) := by
  rintro _ ⟨⟩
  rw [fields_lane (lane_set ..), decodeLane, lane_op]
  change decodeUnary (laneWord o.u o.nw 0x1B#6 o.d o.a 0x22#7) = _
  simp (disch := decide) only [decodeUnary, lane_low, fB, BitVec.extractLsb'_eq_self]
  simp (disch := decide) only [lu, lane_u, lane_nw, lane_d, lane_a]
  try rfl
theorem Fields.exp2 (o : LaneU) : Fields.Statement (.exp2 o) := by
  rintro _ ⟨⟩
  rw [fields_lane (lane_set ..), decodeLane, lane_op]
  change decodeUnary (laneWord o.u o.nw 0x1B#6 o.d o.a 0x23#7) = _
  simp (disch := decide) only [decodeUnary, lane_low, fB, BitVec.extractLsb'_eq_self]
  simp (disch := decide) only [lu, lane_u, lane_nw, lane_d, lane_a]
  try rfl
theorem Fields.log2 (o : LaneU) : Fields.Statement (.log2 o) := by
  rintro _ ⟨⟩
  rw [fields_lane (lane_set ..), decodeLane, lane_op]
  change decodeUnary (laneWord o.u o.nw 0x1B#6 o.d o.a 0x24#7) = _
  simp (disch := decide) only [decodeUnary, lane_low, fB, BitVec.extractLsb'_eq_self]
  simp (disch := decide) only [lu, lane_u, lane_nw, lane_d, lane_a]
  try rfl
theorem Fields.sin (o : LaneU) : Fields.Statement (.sin o) := by
  rintro _ ⟨⟩
  rw [fields_lane (lane_set ..), decodeLane, lane_op]
  change decodeUnary (laneWord o.u o.nw 0x1B#6 o.d o.a 0x25#7) = _
  simp (disch := decide) only [decodeUnary, lane_low, fB, BitVec.extractLsb'_eq_self]
  simp (disch := decide) only [lu, lane_u, lane_nw, lane_d, lane_a]
  try rfl
theorem Fields.cos (o : LaneU) : Fields.Statement (.cos o) := by
  rintro _ ⟨⟩
  rw [fields_lane (lane_set ..), decodeLane, lane_op]
  change decodeUnary (laneWord o.u o.nw 0x1B#6 o.d o.a 0x26#7) = _
  simp (disch := decide) only [decodeUnary, lane_low, fB, BitVec.extractLsb'_eq_self]
  simp (disch := decide) only [lu, lane_u, lane_nw, lane_d, lane_a]
  try rfl
theorem Fields.tanh (o : LaneU) : Fields.Statement (.tanh o) := by
  rintro _ ⟨⟩
  rw [fields_lane (lane_set ..), decodeLane, lane_op]
  change decodeUnary (laneWord o.u o.nw 0x1B#6 o.d o.a 0x27#7) = _
  simp (disch := decide) only [decodeUnary, lane_low, fB, BitVec.extractLsb'_eq_self]
  simp (disch := decide) only [lu, lane_u, lane_nw, lane_d, lane_a]
  try rfl
theorem Fields.floor (o : LaneU) : Fields.Statement (.floor o) := by
  rintro _ ⟨⟩
  rw [fields_lane (lane_set ..), decodeLane, lane_op]
  change decodeUnary (laneWord o.u o.nw 0x1B#6 o.d o.a 0x28#7) = _
  simp (disch := decide) only [decodeUnary, lane_low, fB, BitVec.extractLsb'_eq_self]
  simp (disch := decide) only [lu, lane_u, lane_nw, lane_d, lane_a]
  try rfl
theorem Fields.ceil (o : LaneU) : Fields.Statement (.ceil o) := by
  rintro _ ⟨⟩
  rw [fields_lane (lane_set ..), decodeLane, lane_op]
  change decodeUnary (laneWord o.u o.nw 0x1B#6 o.d o.a 0x29#7) = _
  simp (disch := decide) only [decodeUnary, lane_low, fB, BitVec.extractLsb'_eq_self]
  simp (disch := decide) only [lu, lane_u, lane_nw, lane_d, lane_a]
  try rfl
theorem Fields.trunc (o : LaneU) : Fields.Statement (.trunc o) := by
  rintro _ ⟨⟩
  rw [fields_lane (lane_set ..), decodeLane, lane_op]
  change decodeUnary (laneWord o.u o.nw 0x1B#6 o.d o.a 0x2A#7) = _
  simp (disch := decide) only [decodeUnary, lane_low, fB, BitVec.extractLsb'_eq_self]
  simp (disch := decide) only [lu, lane_u, lane_nw, lane_d, lane_a]
  try rfl
theorem Fields.rint (o : LaneU) : Fields.Statement (.rint o) := by
  rintro _ ⟨⟩
  rw [fields_lane (lane_set ..), decodeLane, lane_op]
  change decodeUnary (laneWord o.u o.nw 0x1B#6 o.d o.a 0x2B#7) = _
  simp (disch := decide) only [decodeUnary, lane_low, fB, BitVec.extractLsb'_eq_self]
  simp (disch := decide) only [lu, lane_u, lane_nw, lane_d, lane_a]
  try rfl
theorem Fields.fadd (o : LaneR) : Fields.Statement (.fadd o) := by
  rintro _ ⟨⟩
  rw [fields_lane (lane_set ..), decodeLane, lane_op]
  change (.ok (.fadd (lr (laneWord o.u o.nw 0x1C#6 o.d o.a o.b))) : Except Defect Instr) = _
  simp (disch := decide) only [lr, lane_u, lane_nw, lane_d, lane_a, lane_low, fB, BitVec.extractLsb'_eq_self]
  try rfl
theorem Fields.fsub (o : LaneR) : Fields.Statement (.fsub o) := by
  rintro _ ⟨⟩
  rw [fields_lane (lane_set ..), decodeLane, lane_op]
  change (.ok (.fsub (lr (laneWord o.u o.nw 0x1D#6 o.d o.a o.b))) : Except Defect Instr) = _
  simp (disch := decide) only [lr, lane_u, lane_nw, lane_d, lane_a, lane_low, fB, BitVec.extractLsb'_eq_self]
  try rfl
theorem Fields.fmul (o : LaneR) : Fields.Statement (.fmul o) := by
  rintro _ ⟨⟩
  rw [fields_lane (lane_set ..), decodeLane, lane_op]
  change (.ok (.fmul (lr (laneWord o.u o.nw 0x1E#6 o.d o.a o.b))) : Except Defect Instr) = _
  simp (disch := decide) only [lr, lane_u, lane_nw, lane_d, lane_a, lane_low, fB, BitVec.extractLsb'_eq_self]
  try rfl
theorem Fields.ffma (o : LaneR) : Fields.Statement (.ffma o) := by
  rintro _ ⟨⟩
  rw [fields_lane (lane_set ..), decodeLane, lane_op]
  change (.ok (.ffma (lr (laneWord o.u o.nw 0x1F#6 o.d o.a o.b))) : Except Defect Instr) = _
  simp (disch := decide) only [lr, lane_u, lane_nw, lane_d, lane_a, lane_low, fB, BitVec.extractLsb'_eq_self]
  try rfl
theorem Fields.fmin (o : LaneR) : Fields.Statement (.fmin o) := by
  rintro _ ⟨⟩
  rw [fields_lane (lane_set ..), decodeLane, lane_op]
  change (.ok (.fmin (lr (laneWord o.u o.nw 0x20#6 o.d o.a o.b))) : Except Defect Instr) = _
  simp (disch := decide) only [lr, lane_u, lane_nw, lane_d, lane_a, lane_low, fB, BitVec.extractLsb'_eq_self]
  try rfl
theorem Fields.fmax (o : LaneR) : Fields.Statement (.fmax o) := by
  rintro _ ⟨⟩
  rw [fields_lane (lane_set ..), decodeLane, lane_op]
  change (.ok (.fmax (lr (laneWord o.u o.nw 0x21#6 o.d o.a o.b))) : Except Defect Instr) = _
  simp (disch := decide) only [lr, lane_u, lane_nw, lane_d, lane_a, lane_low, fB, BitVec.extractLsb'_eq_self]
  try rfl
theorem Fields.fcmpeq (o : LaneR) : Fields.Statement (.fcmpeq o) := by
  rintro _ ⟨⟩
  rw [fields_lane (lane_set ..), decodeLane, lane_op]
  change (.ok (.fcmpeq (lr (laneWord o.u o.nw 0x22#6 o.d o.a o.b))) : Except Defect Instr) = _
  simp (disch := decide) only [lr, lane_u, lane_nw, lane_d, lane_a, lane_low, fB, BitVec.extractLsb'_eq_self]
  try rfl
theorem Fields.fcmplt (o : LaneR) : Fields.Statement (.fcmplt o) := by
  rintro _ ⟨⟩
  rw [fields_lane (lane_set ..), decodeLane, lane_op]
  change (.ok (.fcmplt (lr (laneWord o.u o.nw 0x23#6 o.d o.a o.b))) : Except Defect Instr) = _
  simp (disch := decide) only [lr, lane_u, lane_nw, lane_d, lane_a, lane_low, fB, BitVec.extractLsb'_eq_self]
  try rfl
theorem Fields.fcmple (o : LaneR) : Fields.Statement (.fcmple o) := by
  rintro _ ⟨⟩
  rw [fields_lane (lane_set ..), decodeLane, lane_op]
  change (.ok (.fcmple (lr (laneWord o.u o.nw 0x24#6 o.d o.a o.b))) : Except Defect Instr) = _
  simp (disch := decide) only [lr, lane_u, lane_nw, lane_d, lane_a, lane_low, fB, BitVec.extractLsb'_eq_self]
  try rfl
theorem Fields.fcmpun (o : LaneR) : Fields.Statement (.fcmpun o) := by
  rintro _ ⟨⟩
  rw [fields_lane (lane_set ..), decodeLane, lane_op]
  change (.ok (.fcmpun (lr (laneWord o.u o.nw 0x25#6 o.d o.a o.b))) : Except Defect Instr) = _
  simp (disch := decide) only [lr, lane_u, lane_nw, lane_d, lane_a, lane_low, fB, BitVec.extractLsb'_eq_self]
  try rfl
theorem Fields.badd2 (o : LaneR) : Fields.Statement (.badd2 o) := by
  rintro _ ⟨⟩
  rw [fields_lane (lane_set ..), decodeLane, lane_op]
  change (.ok (.badd2 (lr (laneWord o.u o.nw 0x26#6 o.d o.a o.b))) : Except Defect Instr) = _
  simp (disch := decide) only [lr, lane_u, lane_nw, lane_d, lane_a, lane_low, fB, BitVec.extractLsb'_eq_self]
  try rfl
theorem Fields.bmul2 (o : LaneR) : Fields.Statement (.bmul2 o) := by
  rintro _ ⟨⟩
  rw [fields_lane (lane_set ..), decodeLane, lane_op]
  change (.ok (.bmul2 (lr (laneWord o.u o.nw 0x27#6 o.d o.a o.b))) : Except Defect Instr) = _
  simp (disch := decide) only [lr, lane_u, lane_nw, lane_d, lane_a, lane_low, fB, BitVec.extractLsb'_eq_self]
  try rfl
theorem Fields.bfma2 (o : LaneR) : Fields.Statement (.bfma2 o) := by
  rintro _ ⟨⟩
  rw [fields_lane (lane_set ..), decodeLane, lane_op]
  change (.ok (.bfma2 (lr (laneWord o.u o.nw 0x28#6 o.d o.a o.b))) : Except Defect Instr) = _
  simp (disch := decide) only [lr, lane_u, lane_nw, lane_d, lane_a, lane_low, fB, BitVec.extractLsb'_eq_self]
  try rfl
theorem Fields.bdot2 (o : LaneR) : Fields.Statement (.bdot2 o) := by
  rintro _ ⟨⟩
  rw [fields_lane (lane_set ..), decodeLane, lane_op]
  change (.ok (.bdot2 (lr (laneWord o.u o.nw 0x29#6 o.d o.a o.b))) : Except Defect Instr) = _
  simp (disch := decide) only [lr, lane_u, lane_nw, lane_d, lane_a, lane_low, fB, BitVec.extractLsb'_eq_self]
  try rfl
theorem Fields.shfl (o : CrossR) : Fields.Statement (.shfl o) := by
  rintro _ ⟨⟩
  rw [fields_lane (lane_set ..), decodeLane, lane_op]
  change (noU (laneWord false o.nw 0x2A#6 o.d o.a o.b) (.ok (.shfl (cr (laneWord false o.nw 0x2A#6 o.d o.a o.b)))) : Except Defect Instr) = _
  simp (disch := decide) only [cr, noU, lane_u, lane_nw, lane_d, lane_a, lane_low, fB, BitVec.extractLsb'_eq_self]
  try rfl
theorem Fields.shflx (o : CrossS) : Fields.Statement (.shflx o) := by
  rintro _ ⟨⟩
  rw [fields_lane (lane_set ..), decodeLane, lane_op]
  change (noU (laneWord false o.nw 0x2B#6 o.d o.a (0#2 ++ o.s)) (need (zeroBits (laneWord false o.nw 0x2B#6 o.d o.a (0#2 ++ o.s)) 5 2) .mustBeZero (.shflx (cs (laneWord false o.nw 0x2B#6 o.d o.a (0#2 ++ o.s))))) : Except Defect Instr) = _
  simp (disch := decide) only [cs, need, noU, zeroBits, lane_u, lane_nw, lane_d, lane_a, lane_low, extract_low, extract_high, extract_zero, Nat.reduceSub, BitVec.extractLsb'_eq_self]
  try rfl
theorem Fields.shflup (o : CrossS) : Fields.Statement (.shflup o) := by
  rintro _ ⟨⟩
  rw [fields_lane (lane_set ..), decodeLane, lane_op]
  change (noU (laneWord false o.nw 0x2C#6 o.d o.a (0#2 ++ o.s)) (need (zeroBits (laneWord false o.nw 0x2C#6 o.d o.a (0#2 ++ o.s)) 5 2) .mustBeZero (.shflup (cs (laneWord false o.nw 0x2C#6 o.d o.a (0#2 ++ o.s))))) : Except Defect Instr) = _
  simp (disch := decide) only [cs, need, noU, zeroBits, lane_u, lane_nw, lane_d, lane_a, lane_low, extract_low, extract_high, extract_zero, Nat.reduceSub, BitVec.extractLsb'_eq_self]
  try rfl
theorem Fields.shfldn (o : CrossS) : Fields.Statement (.shfldn o) := by
  rintro _ ⟨⟩
  rw [fields_lane (lane_set ..), decodeLane, lane_op]
  change (noU (laneWord false o.nw 0x2D#6 o.d o.a (0#2 ++ o.s)) (need (zeroBits (laneWord false o.nw 0x2D#6 o.d o.a (0#2 ++ o.s)) 5 2) .mustBeZero (.shfldn (cs (laneWord false o.nw 0x2D#6 o.d o.a (0#2 ++ o.s))))) : Except Defect Instr) = _
  simp (disch := decide) only [cs, need, noU, zeroBits, lane_u, lane_nw, lane_d, lane_a, lane_low, extract_low, extract_high, extract_zero, Nat.reduceSub, BitVec.extractLsb'_eq_self]
  try rfl
theorem Fields.qswz (o : CrossQ) : Fields.Statement (.qswz o) := by
  rintro _ ⟨⟩
  rw [fields_lane (lane_set ..), decodeLane, lane_op]
  change (noU (laneWord false o.nw 0x2E#6 o.d o.a (0#4 ++ bit o.bcast ++ o.l)) (need (zeroBits (laneWord false o.nw 0x2E#6 o.d o.a (0#4 ++ bit o.bcast ++ o.l)) 3 4) .mustBeZero (.qswz ⟨fNw (laneWord false o.nw 0x2E#6 o.d o.a (0#4 ++ bit o.bcast ++ o.l)), fD (laneWord false o.nw 0x2E#6 o.d o.a (0#4 ++ bit o.bcast ++ o.l)), fA (laneWord false o.nw 0x2E#6 o.d o.a (0#4 ++ bit o.bcast ++ o.l)), (laneWord false o.nw 0x2E#6 o.d o.a (0#4 ++ bit o.bcast ++ o.l)).getLsbD 2, (laneWord false o.nw 0x2E#6 o.d o.a (0#4 ++ bit o.bcast ++ o.l)).extractLsb' 0 2⟩)) : Except Defect Instr) = _
  simp (disch := decide) only [need, noU, zeroBits, lane_u, lane_nw, lane_d, lane_a, lane_low, lane_bit, extract_low, extract_high, extract_zero, bit_low, bit_high, bit_bit, Nat.reduceSub, BitVec.extractLsb'_eq_self]
  try rfl
theorem Fields.qsum (o : CrossSum) : Fields.Statement (.qsum o) := by
  rintro _ ⟨⟩
  rw [fields_lane (lane_set ..), decodeLane, lane_op]
  change (noU (laneWord false o.nw 0x2F#6 o.d o.a (0#6 ++ bit o.f32)) (need (zeroBits (laneWord false o.nw 0x2F#6 o.d o.a (0#6 ++ bit o.f32)) 1 6) .reservedFunction (.qsum ⟨fNw (laneWord false o.nw 0x2F#6 o.d o.a (0#6 ++ bit o.f32)), fD (laneWord false o.nw 0x2F#6 o.d o.a (0#6 ++ bit o.f32)), fA (laneWord false o.nw 0x2F#6 o.d o.a (0#6 ++ bit o.f32)), (laneWord false o.nw 0x2F#6 o.d o.a (0#6 ++ bit o.f32)).getLsbD 0⟩)) : Except Defect Instr) = _
  simp (disch := decide) only [need, noU, zeroBits, lane_u, lane_nw, lane_d, lane_a, lane_low, lane_bit, extract_high, extract_zero, bit_low, bit_bit, Nat.reduceSub]
  try rfl
theorem Fields.ballot (o : LaneBallot) : Fields.Statement (.ballot o) := by
  rintro _ ⟨⟩
  rw [fields_lane (lane_set ..), decodeLane, lane_op]
  change (noU (laneWord false false 0x30#6 o.d o.a 0) (noNw (laneWord false false 0x30#6 o.d o.a 0) (need (zeroBits (laneWord false false 0x30#6 o.d o.a 0) 0 7) .reservedFunction (.ballot ⟨fD (laneWord false false 0x30#6 o.d o.a 0), fA (laneWord false false 0x30#6 o.d o.a 0)⟩))) : Except Defect Instr) = _
  simp (disch := decide) only [need, noU, noNw, zeroBits, lane_u, lane_nw, lane_d, lane_a, lane_low, BitVec.extractLsb'_eq_self]
  try rfl
theorem Fields.lrd (o : LaneSel) : Fields.Statement (.lrd o) := by
  rintro _ ⟨⟩
  rw [fields_lane (lane_set ..), decodeLane, lane_op]
  change (noU (laneWord false false 0x32#6 o.d o.a (0#2 ++ o.l)) (noNw (laneWord false false 0x32#6 o.d o.a (0#2 ++ o.l)) (need (zeroBits (laneWord false false 0x32#6 o.d o.a (0#2 ++ o.l)) 5 2) .mustBeZero (.lrd ⟨fD (laneWord false false 0x32#6 o.d o.a (0#2 ++ o.l)), fA (laneWord false false 0x32#6 o.d o.a (0#2 ++ o.l)), (laneWord false false 0x32#6 o.d o.a (0#2 ++ o.l)).extractLsb' 0 5⟩))) : Except Defect Instr) = _
  simp (disch := decide) only [need, noU, noNw, zeroBits, lane_u, lane_nw, lane_d, lane_a, lane_low, extract_low, extract_high, extract_zero, Nat.reduceSub, BitVec.extractLsb'_eq_self]
  try rfl
theorem Fields.lwr (o : LaneSel) : Fields.Statement (.lwr o) := by
  rintro _ ⟨⟩
  rw [fields_lane (lane_set ..), decodeLane, lane_op]
  change (noU (laneWord false false 0x33#6 o.d o.a (0#2 ++ o.l)) (noNw (laneWord false false 0x33#6 o.d o.a (0#2 ++ o.l)) (need (zeroBits (laneWord false false 0x33#6 o.d o.a (0#2 ++ o.l)) 5 2) .mustBeZero (.lwr ⟨fD (laneWord false false 0x33#6 o.d o.a (0#2 ++ o.l)), fA (laneWord false false 0x33#6 o.d o.a (0#2 ++ o.l)), (laneWord false false 0x33#6 o.d o.a (0#2 ++ o.l)).extractLsb' 0 5⟩))) : Except Defect Instr) = _
  simp (disch := decide) only [need, noU, noNw, zeroBits, lane_u, lane_nw, lane_d, lane_a, lane_low, extract_low, extract_high, extract_zero, Nat.reduceSub, BitVec.extractLsb'_eq_self]
  try rfl
theorem Fields.qnt8 (o : CrossR) : Fields.Statement (.qnt8 o) := by
  rintro _ ⟨⟩
  rw [fields_lane (lane_set ..), decodeLane, lane_op]
  change (noU (laneWord false o.nw 0x34#6 o.d o.a o.b) (.ok (.qnt8 (cr (laneWord false o.nw 0x34#6 o.d o.a o.b)))) : Except Defect Instr) = _
  simp (disch := decide) only [cr, noU, lane_u, lane_nw, lane_d, lane_a, lane_low, fB, BitVec.extractLsb'_eq_self]
  try rfl
theorem Fields.dq8 (o : LaneU) : Fields.Statement (.dq8 o) := by
  rintro _ ⟨⟩
  rw [fields_lane (lane_set ..), decodeLane, lane_op]
  change (need (zeroBits (laneWord o.u o.nw 0x35#6 o.d o.a 0x00#7) 0 7) .reservedFunction (.dq8 (lu (laneWord o.u o.nw 0x35#6 o.d o.a 0x00#7))) : Except Defect Instr) = _
  simp (disch := decide) only [lu, need, zeroBits, lane_u, lane_nw, lane_d, lane_a, lane_low, extract_zero]
  try rfl
theorem Fields.bperm (o : LaneR) : Fields.Statement (.bperm o) := by
  rintro _ ⟨⟩
  rw [fields_lane (lane_set ..), decodeLane, lane_op]
  change (.ok (.bperm (lr (laneWord o.u o.nw 0x36#6 o.d o.a o.b))) : Except Defect Instr) = _
  simp (disch := decide) only [lr, lane_u, lane_nw, lane_d, lane_a, lane_low, fB, BitVec.extractLsb'_eq_self]
  try rfl
theorem Fields.trw (o : LaneTrw) : Fields.Statement (.trw o) := by
  rintro _ ⟨⟩
  rw [fields_lane (lane_set ..), decodeLane, lane_op]
  change (noNw (laneWord o.u false 0x37#6 o.d o.a (0#5 ++ o.w)) (need (zeroBits (laneWord o.u false 0x37#6 o.d o.a (0#5 ++ o.w)) 2 5) .mustBeZero (.trw ⟨fU (laneWord o.u false 0x37#6 o.d o.a (0#5 ++ o.w)), fD (laneWord o.u false 0x37#6 o.d o.a (0#5 ++ o.w)), fA (laneWord o.u false 0x37#6 o.d o.a (0#5 ++ o.w)), (laneWord o.u false 0x37#6 o.d o.a (0#5 ++ o.w)).extractLsb' 0 2⟩)) : Except Defect Instr) = _
  simp (disch := decide) only [need, noNw, zeroBits, lane_u, lane_nw, lane_d, lane_a, lane_low, extract_low, extract_high, extract_zero, Nat.reduceSub, BitVec.extractLsb'_eq_self]
  try rfl
theorem Fields.ld (o : LaneVM) : Fields.Statement (.ld o) := by
  rintro _ ⟨⟩
  rw [fields_lane (lane_set ..), decodeLane, lane_op]
  change (noNw (laneWord o.u false 0x38#6 o.d o.a (o.ar ++ o.mf)) (.ok (.ld (vm (laneWord o.u false 0x38#6 o.d o.a (o.ar ++ o.mf))))) : Except Defect Instr) = _
  simp (disch := decide) only [vm, noNw, lane_u, lane_nw, lane_d, lane_a, lane_low, extract_low, extract_high, Nat.reduceSub, BitVec.extractLsb'_eq_self]
  try rfl
theorem Fields.st (o : LaneVM) : Fields.Statement (.st o) := by
  rintro _ ⟨⟩
  rw [fields_lane (lane_set ..), decodeLane, lane_op]
  change (noNw (laneWord o.u false 0x39#6 o.d o.a (o.ar ++ o.mf)) (.ok (.st (vm (laneWord o.u false 0x39#6 o.d o.a (o.ar ++ o.mf))))) : Except Defect Instr) = _
  simp (disch := decide) only [vm, noNw, lane_u, lane_nw, lane_d, lane_a, lane_low, extract_low, extract_high, Nat.reduceSub, BitVec.extractLsb'_eq_self]
  try rfl
theorem Fields.lds (o : LaneVS) : Fields.Statement (.lds o) := by
  rintro _ ⟨⟩
  rw [fields_lane (lane_set ..), decodeLane, lane_op]
  change (noNw (laneWord o.u false 0x3A#6 o.d o.a (0#3 ++ o.mf)) (need (zeroBits (laneWord o.u false 0x3A#6 o.d o.a (0#3 ++ o.mf)) 4 3) .mustBeZero (.lds (vs (laneWord o.u false 0x3A#6 o.d o.a (0#3 ++ o.mf))))) : Except Defect Instr) = _
  simp (disch := decide) only [vs, need, noNw, zeroBits, lane_u, lane_nw, lane_d, lane_a, lane_low, extract_low, extract_high, extract_zero, Nat.reduceSub, BitVec.extractLsb'_eq_self]
  try rfl
theorem Fields.sts (o : LaneVS) : Fields.Statement (.sts o) := by
  rintro _ ⟨⟩
  rw [fields_lane (lane_set ..), decodeLane, lane_op]
  change (noNw (laneWord o.u false 0x3B#6 o.d o.a (0#3 ++ o.mf)) (need (zeroBits (laneWord o.u false 0x3B#6 o.d o.a (0#3 ++ o.mf)) 4 3) .mustBeZero (.sts (vs (laneWord o.u false 0x3B#6 o.d o.a (0#3 ++ o.mf))))) : Except Defect Instr) = _
  simp (disch := decide) only [vs, need, noNw, zeroBits, lane_u, lane_nw, lane_d, lane_a, lane_low, extract_low, extract_high, extract_zero, Nat.reduceSub, BitVec.extractLsb'_eq_self]
  try rfl
theorem Fields.atom (o : LaneVM) : Fields.Statement (.atom o) := by
  rintro _ ⟨⟩
  rw [fields_lane (lane_set ..), decodeLane, lane_op]
  change (noNw (laneWord o.u false 0x3C#6 o.d o.a (o.ar ++ o.mf)) (.ok (.atom (vm (laneWord o.u false 0x3C#6 o.d o.a (o.ar ++ o.mf))))) : Except Defect Instr) = _
  simp (disch := decide) only [vm, noNw, lane_u, lane_nw, lane_d, lane_a, lane_low, extract_low, extract_high, Nat.reduceSub, BitVec.extractLsb'_eq_self]
  try rfl
theorem Fields.red (o : LaneVM) : Fields.Statement (.red o) := by
  rintro _ ⟨⟩
  rw [fields_lane (lane_set ..), decodeLane, lane_op]
  change (noNw (laneWord o.u false 0x3D#6 o.d o.a (o.ar ++ o.mf)) (.ok (.red (vm (laneWord o.u false 0x3D#6 o.d o.a (o.ar ++ o.mf))))) : Except Defect Instr) = _
  simp (disch := decide) only [vm, noNw, lane_u, lane_nw, lane_d, lane_a, lane_low, extract_low, extract_high, Nat.reduceSub, BitVec.extractLsb'_eq_self]
  try rfl
theorem Fields.mma (o : LaneMma) : Fields.Statement (.mma o) := by
  rintro _ ⟨⟩
  rw [fields_lane (lane_set ..), decodeLane, lane_op]
  change (noU (laneWord false false 0x3E#6 o.d o.a (o.qa ++ o.qb ++ bit o.accz)) (noNw (laneWord false false 0x3E#6 o.d o.a (o.qa ++ o.qb ++ bit o.accz)) (.ok (.mma ⟨fD (laneWord false false 0x3E#6 o.d o.a (o.qa ++ o.qb ++ bit o.accz)), fA (laneWord false false 0x3E#6 o.d o.a (o.qa ++ o.qb ++ bit o.accz)), (laneWord false false 0x3E#6 o.d o.a (o.qa ++ o.qb ++ bit o.accz)).extractLsb' 4 3, (laneWord false false 0x3E#6 o.d o.a (o.qa ++ o.qb ++ bit o.accz)).extractLsb' 1 3, (laneWord false false 0x3E#6 o.d o.a (o.qa ++ o.qb ++ bit o.accz)).getLsbD 0⟩))) : Except Defect Instr) = _
  simp (disch := decide) only [noU, noNw, lane_u, lane_nw, lane_d, lane_a, lane_low, lane_bit, extract_low, extract_high, bit_low, bit_bit, Nat.reduceSub, BitVec.extractLsb'_eq_self]
  try rfl
theorem Fields.mix (o : LaneR) : Fields.Statement (.mix o) := by
  rintro _ ⟨⟩
  rw [fields_lane (lane_set ..), decodeLane, lane_op]
  change (.ok (.mix (lr (laneWord o.u o.nw 0x3F#6 o.d o.a o.b))) : Except Defect Instr) = _
  simp (disch := decide) only [lr, lane_u, lane_nw, lane_d, lane_a, lane_low, fB, BitVec.extractLsb'_eq_self]
  try rfl
theorem Fields.uadd (o : UniR) : Fields.Statement (.uadd o) := by
  rintro _ ⟨⟩
  rw [fields_uni (uni_set ..), decodeUni, uni_op]
  change (.ok (.uadd (ur (uniWord 0x00#7 o.d o.a o.b))) : Except Defect Instr) = _
  simp (disch := decide) only [ur, uni_d, uni_a, uni_b]
  try rfl
theorem Fields.usub (o : UniR) : Fields.Statement (.usub o) := by
  rintro _ ⟨⟩
  rw [fields_uni (uni_set ..), decodeUni, uni_op]
  change (.ok (.usub (ur (uniWord 0x01#7 o.d o.a o.b))) : Except Defect Instr) = _
  simp (disch := decide) only [ur, uni_d, uni_a, uni_b]
  try rfl
theorem Fields.uaddi (o : UniI) : Fields.Statement (.uaddi o) := by
  rintro _ ⟨⟩
  rw [fields_uni (uni_set ..), decodeUni, uni_op]
  change (.ok (.uaddi ⟨gD (uniWord 0x02#7 o.d o.a o.imm), gA (uniWord 0x02#7 o.d o.a o.imm), gB (uniWord 0x02#7 o.d o.a o.imm)⟩) : Except Defect Instr) = _
  simp (disch := decide) only [uni_d, uni_a, uni_b]
  try rfl
theorem Fields.umul (o : UniR) : Fields.Statement (.umul o) := by
  rintro _ ⟨⟩
  rw [fields_uni (uni_set ..), decodeUni, uni_op]
  change (.ok (.umul (ur (uniWord 0x03#7 o.d o.a o.b))) : Except Defect Instr) = _
  simp (disch := decide) only [ur, uni_d, uni_a, uni_b]
  try rfl
theorem Fields.umulhs (o : UniR) : Fields.Statement (.umulhs o) := by
  rintro _ ⟨⟩
  rw [fields_uni (uni_set ..), decodeUni, uni_op]
  change (.ok (.umulhs (ur (uniWord 0x04#7 o.d o.a o.b))) : Except Defect Instr) = _
  simp (disch := decide) only [ur, uni_d, uni_a, uni_b]
  try rfl
theorem Fields.umulhn (o : UniR) : Fields.Statement (.umulhn o) := by
  rintro _ ⟨⟩
  rw [fields_uni (uni_set ..), decodeUni, uni_op]
  change (.ok (.umulhn (ur (uniWord 0x05#7 o.d o.a o.b))) : Except Defect Instr) = _
  simp (disch := decide) only [ur, uni_d, uni_a, uni_b]
  try rfl
theorem Fields.uand (o : UniR) : Fields.Statement (.uand o) := by
  rintro _ ⟨⟩
  rw [fields_uni (uni_set ..), decodeUni, uni_op]
  change (.ok (.uand (ur (uniWord 0x06#7 o.d o.a o.b))) : Except Defect Instr) = _
  simp (disch := decide) only [ur, uni_d, uni_a, uni_b]
  try rfl
theorem Fields.uor (o : UniR) : Fields.Statement (.uor o) := by
  rintro _ ⟨⟩
  rw [fields_uni (uni_set ..), decodeUni, uni_op]
  change (.ok (.uor (ur (uniWord 0x07#7 o.d o.a o.b))) : Except Defect Instr) = _
  simp (disch := decide) only [ur, uni_d, uni_a, uni_b]
  try rfl
theorem Fields.uxor (o : UniR) : Fields.Statement (.uxor o) := by
  rintro _ ⟨⟩
  rw [fields_uni (uni_set ..), decodeUni, uni_op]
  change (.ok (.uxor (ur (uniWord 0x08#7 o.d o.a o.b))) : Except Defect Instr) = _
  simp (disch := decide) only [ur, uni_d, uni_a, uni_b]
  try rfl
theorem Fields.uandn (o : UniR) : Fields.Statement (.uandn o) := by
  rintro _ ⟨⟩
  rw [fields_uni (uni_set ..), decodeUni, uni_op]
  change (.ok (.uandn (ur (uniWord 0x09#7 o.d o.a o.b))) : Except Defect Instr) = _
  simp (disch := decide) only [ur, uni_d, uni_a, uni_b]
  try rfl
theorem Fields.ushl (o : UniR) : Fields.Statement (.ushl o) := by
  rintro _ ⟨⟩
  rw [fields_uni (uni_set ..), decodeUni, uni_op]
  change (.ok (.ushl (ur (uniWord 0x0A#7 o.d o.a o.b))) : Except Defect Instr) = _
  simp (disch := decide) only [ur, uni_d, uni_a, uni_b]
  try rfl
theorem Fields.ushr (o : UniR) : Fields.Statement (.ushr o) := by
  rintro _ ⟨⟩
  rw [fields_uni (uni_set ..), decodeUni, uni_op]
  change (.ok (.ushr (ur (uniWord 0x0B#7 o.d o.a o.b))) : Except Defect Instr) = _
  simp (disch := decide) only [ur, uni_d, uni_a, uni_b]
  try rfl
theorem Fields.usra (o : UniR) : Fields.Statement (.usra o) := by
  rintro _ ⟨⟩
  rw [fields_uni (uni_set ..), decodeUni, uni_op]
  change (.ok (.usra (ur (uniWord 0x0C#7 o.d o.a o.b))) : Except Defect Instr) = _
  simp (disch := decide) only [ur, uni_d, uni_a, uni_b]
  try rfl
theorem Fields.ushli (o : UniS) : Fields.Statement (.ushli o) := by
  rintro _ ⟨⟩
  rw [fields_uni (uni_set ..), decodeUni, uni_op]
  change decodeUshfi (uniWord 0x0D#7 o.d o.a (0#3 ++ o.s)) = _
  simp (disch := decide) only [decodeUshfi, uni_bit, uni_low, extract_high, extract_zero, bit_high, Nat.reduceSub]
  simp (disch := decide) only [us, uni_d, uni_a, uni_low, extract_low, BitVec.extractLsb'_eq_self]
  try rfl
theorem Fields.ushri (o : UniS) : Fields.Statement (.ushri o) := by
  rintro _ ⟨⟩
  rw [fields_uni (uni_set ..), decodeUni, uni_op]
  change decodeUshfi (uniWord 0x0D#7 o.d o.a (1#3 ++ o.s)) = _
  simp (disch := decide) only [decodeUshfi, uni_bit, uni_low, extract_high, bit_high, Nat.reduceSub]
  simp (disch := decide) only [us, uni_d, uni_a, uni_low, extract_low, BitVec.extractLsb'_eq_self]
  try rfl
theorem Fields.usrai (o : UniS) : Fields.Statement (.usrai o) := by
  rintro _ ⟨⟩
  rw [fields_uni (uni_set ..), decodeUni, uni_op]
  change decodeUshfi (uniWord 0x0D#7 o.d o.a (2#3 ++ o.s)) = _
  simp (disch := decide) only [decodeUshfi, uni_bit, uni_low, extract_high, bit_high, Nat.reduceSub]
  simp (disch := decide) only [us, uni_d, uni_a, uni_low, extract_low, BitVec.extractLsb'_eq_self]
  try rfl
theorem Fields.urotli (o : UniS) : Fields.Statement (.urotli o) := by
  rintro _ ⟨⟩
  rw [fields_uni (uni_set ..), decodeUni, uni_op]
  change decodeUshfi (uniWord 0x0D#7 o.d o.a (3#3 ++ o.s)) = _
  simp (disch := decide) only [decodeUshfi, uni_bit, uni_low, extract_high, bit_high, Nat.reduceSub]
  simp (disch := decide) only [us, uni_d, uni_a, uni_low, extract_low, BitVec.extractLsb'_eq_self]
  try rfl
theorem Fields.umins (o : UniR) : Fields.Statement (.umins o) := by
  rintro _ ⟨⟩
  rw [fields_uni (uni_set ..), decodeUni, uni_op]
  change (.ok (.umins (ur (uniWord 0x0E#7 o.d o.a o.b))) : Except Defect Instr) = _
  simp (disch := decide) only [ur, uni_d, uni_a, uni_b]
  try rfl
theorem Fields.umaxs (o : UniR) : Fields.Statement (.umaxs o) := by
  rintro _ ⟨⟩
  rw [fields_uni (uni_set ..), decodeUni, uni_op]
  change (.ok (.umaxs (ur (uniWord 0x0F#7 o.d o.a o.b))) : Except Defect Instr) = _
  simp (disch := decide) only [ur, uni_d, uni_a, uni_b]
  try rfl
theorem Fields.uminn (o : UniR) : Fields.Statement (.uminn o) := by
  rintro _ ⟨⟩
  rw [fields_uni (uni_set ..), decodeUni, uni_op]
  change (.ok (.uminn (ur (uniWord 0x10#7 o.d o.a o.b))) : Except Defect Instr) = _
  simp (disch := decide) only [ur, uni_d, uni_a, uni_b]
  try rfl
theorem Fields.umaxn (o : UniR) : Fields.Statement (.umaxn o) := by
  rintro _ ⟨⟩
  rw [fields_uni (uni_set ..), decodeUni, uni_op]
  change (.ok (.umaxn (ur (uniWord 0x11#7 o.d o.a o.b))) : Except Defect Instr) = _
  simp (disch := decide) only [ur, uni_d, uni_a, uni_b]
  try rfl
theorem Fields.ucmpeq (o : UniR) : Fields.Statement (.ucmpeq o) := by
  rintro _ ⟨⟩
  rw [fields_uni (uni_set ..), decodeUni, uni_op]
  change (.ok (.ucmpeq (ur (uniWord 0x12#7 o.d o.a o.b))) : Except Defect Instr) = _
  simp (disch := decide) only [ur, uni_d, uni_a, uni_b]
  try rfl
theorem Fields.ucmpne (o : UniR) : Fields.Statement (.ucmpne o) := by
  rintro _ ⟨⟩
  rw [fields_uni (uni_set ..), decodeUni, uni_op]
  change (.ok (.ucmpne (ur (uniWord 0x13#7 o.d o.a o.b))) : Except Defect Instr) = _
  simp (disch := decide) only [ur, uni_d, uni_a, uni_b]
  try rfl
theorem Fields.ucmplt (o : UniR) : Fields.Statement (.ucmplt o) := by
  rintro _ ⟨⟩
  rw [fields_uni (uni_set ..), decodeUni, uni_op]
  change (.ok (.ucmplt (ur (uniWord 0x14#7 o.d o.a o.b))) : Except Defect Instr) = _
  simp (disch := decide) only [ur, uni_d, uni_a, uni_b]
  try rfl
theorem Fields.ucmple (o : UniR) : Fields.Statement (.ucmple o) := by
  rintro _ ⟨⟩
  rw [fields_uni (uni_set ..), decodeUni, uni_op]
  change (.ok (.ucmple (ur (uniWord 0x15#7 o.d o.a o.b))) : Except Defect Instr) = _
  simp (disch := decide) only [ur, uni_d, uni_a, uni_b]
  try rfl
theorem Fields.ucmpltn (o : UniR) : Fields.Statement (.ucmpltn o) := by
  rintro _ ⟨⟩
  rw [fields_uni (uni_set ..), decodeUni, uni_op]
  change (.ok (.ucmpltn (ur (uniWord 0x16#7 o.d o.a o.b))) : Except Defect Instr) = _
  simp (disch := decide) only [ur, uni_d, uni_a, uni_b]
  try rfl
theorem Fields.ucmplen (o : UniR) : Fields.Statement (.ucmplen o) := by
  rintro _ ⟨⟩
  rw [fields_uni (uni_set ..), decodeUni, uni_op]
  change (.ok (.ucmplen (ur (uniWord 0x17#7 o.d o.a o.b))) : Except Defect Instr) = _
  simp (disch := decide) only [ur, uni_d, uni_a, uni_b]
  try rfl
theorem Fields.usel (o : UniR) : Fields.Statement (.usel o) := by
  rintro _ ⟨⟩
  rw [fields_uni (uni_set ..), decodeUni, uni_op]
  change (.ok (.usel (ur (uniWord 0x18#7 o.d o.a o.b))) : Except Defect Instr) = _
  simp (disch := decide) only [ur, uni_d, uni_a, uni_b]
  try rfl
theorem Fields.umov (o : UniU) : Fields.Statement (.umov o) := by
  rintro _ ⟨⟩
  rw [fields_uni (uni_set ..), decodeUni, uni_op]
  change decodeUuni (uniWord 0x19#7 o.d o.a 0x00#8) = _
  simp only [decodeUuni, uni_b]
  simp (disch := decide) only [uu, uni_d, uni_a]
  try rfl
theorem Fields.uneg (o : UniU) : Fields.Statement (.uneg o) := by
  rintro _ ⟨⟩
  rw [fields_uni (uni_set ..), decodeUni, uni_op]
  change decodeUuni (uniWord 0x19#7 o.d o.a 0x01#8) = _
  simp only [decodeUuni, uni_b]
  simp (disch := decide) only [uu, uni_d, uni_a]
  try rfl
theorem Fields.unot (o : UniU) : Fields.Statement (.unot o) := by
  rintro _ ⟨⟩
  rw [fields_uni (uni_set ..), decodeUni, uni_op]
  change decodeUuni (uniWord 0x19#7 o.d o.a 0x02#8) = _
  simp only [decodeUuni, uni_b]
  simp (disch := decide) only [uu, uni_d, uni_a]
  try rfl
theorem Fields.uclz (o : UniU) : Fields.Statement (.uclz o) := by
  rintro _ ⟨⟩
  rw [fields_uni (uni_set ..), decodeUni, uni_op]
  change decodeUuni (uniWord 0x19#7 o.d o.a 0x04#8) = _
  simp only [decodeUuni, uni_b]
  simp (disch := decide) only [uu, uni_d, uni_a]
  try rfl
theorem Fields.upopc (o : UniU) : Fields.Statement (.upopc o) := by
  rintro _ ⟨⟩
  rw [fields_uni (uni_set ..), decodeUni, uni_op]
  change decodeUuni (uniWord 0x19#7 o.d o.a 0x05#8) = _
  simp only [decodeUuni, uni_b]
  simp (disch := decide) only [uu, uni_d, uni_a]
  try rfl
theorem Fields.ubrev (o : UniU) : Fields.Statement (.ubrev o) := by
  rintro _ ⟨⟩
  rw [fields_uni (uni_set ..), decodeUni, uni_op]
  change decodeUuni (uniWord 0x19#7 o.d o.a 0x06#8) = _
  simp only [decodeUuni, uni_b]
  simp (disch := decide) only [uu, uni_d, uni_a]
  try rfl
theorem Fields.uffs (o : UniU) : Fields.Statement (.uffs o) := by
  rintro _ ⟨⟩
  rw [fields_uni (uni_set ..), decodeUni, uni_op]
  change decodeUuni (uniWord 0x19#7 o.d o.a 0x07#8) = _
  simp only [decodeUuni, uni_b]
  simp (disch := decide) only [uu, uni_d, uni_a]
  try rfl
theorem Fields.uf2i (o : UniU) : Fields.Statement (.uf2i o) := by
  rintro _ ⟨⟩
  rw [fields_uni (uni_set ..), decodeUni, uni_op]
  change decodeUuni (uniWord 0x19#7 o.d o.a 0x10#8) = _
  simp only [decodeUuni, uni_b]
  simp (disch := decide) only [uu, uni_d, uni_a]
  try rfl
theorem Fields.ui2f (o : UniU) : Fields.Statement (.ui2f o) := by
  rintro _ ⟨⟩
  rw [fields_uni (uni_set ..), decodeUni, uni_op]
  change decodeUuni (uniWord 0x19#7 o.d o.a 0x14#8) = _
  simp only [decodeUuni, uni_b]
  simp (disch := decide) only [uu, uni_d, uni_a]
  try rfl
theorem Fields.uli (o : UniL) : Fields.Statement (.uli o) := by
  rintro _ ⟨⟩
  rw [fields_uni (uni16_set ..), decodeUni, uni16_op]
  change (.ok (.uli (ul (uniWord16 0x1A#7 o.d o.imm))) : Except Defect Instr) = _
  simp (disch := decide) only [ul, uni16_d, g16, uni16_low, BitVec.extractLsb'_eq_self]
  try rfl
theorem Fields.ulih (o : UniL) : Fields.Statement (.ulih o) := by
  rintro _ ⟨⟩
  rw [fields_uni (uni16_set ..), decodeUni, uni16_op]
  change (.ok (.ulih (ul (uniWord16 0x1B#7 o.d o.imm))) : Except Defect Instr) = _
  simp (disch := decide) only [ul, uni16_d, g16, uni16_low, BitVec.extractLsb'_eq_self]
  try rfl
theorem Fields.uadd64 (o : UniR) : Fields.Statement (.uadd64 o) := by
  rintro _ ⟨⟩
  rw [fields_uni (uni_set ..), decodeUni, uni_op]
  change (.ok (.uadd64 (ur (uniWord 0x1C#7 o.d o.a o.b))) : Except Defect Instr) = _
  simp (disch := decide) only [ur, uni_d, uni_a, uni_b]
  try rfl
theorem Fields.usub64 (o : UniR) : Fields.Statement (.usub64 o) := by
  rintro _ ⟨⟩
  rw [fields_uni (uni_set ..), decodeUni, uni_op]
  change (.ok (.usub64 (ur (uniWord 0x1D#7 o.d o.a o.b))) : Except Defect Instr) = _
  simp (disch := decide) only [ur, uni_d, uni_a, uni_b]
  try rfl
theorem Fields.ufadd (o : UniR) : Fields.Statement (.ufadd o) := by
  rintro _ ⟨⟩
  rw [fields_uni (uni_set ..), decodeUni, uni_op]
  change (.ok (.ufadd (ur (uniWord 0x1E#7 o.d o.a o.b))) : Except Defect Instr) = _
  simp (disch := decide) only [ur, uni_d, uni_a, uni_b]
  try rfl
theorem Fields.ufmul (o : UniR) : Fields.Statement (.ufmul o) := by
  rintro _ ⟨⟩
  rw [fields_uni (uni_set ..), decodeUni, uni_op]
  change (.ok (.ufmul (ur (uniWord 0x1F#7 o.d o.a o.b))) : Except Defect Instr) = _
  simp (disch := decide) only [ur, uni_d, uni_a, uni_b]
  try rfl
theorem Fields.uffma (o : UniR) : Fields.Statement (.uffma o) := by
  rintro _ ⟨⟩
  rw [fields_uni (uni_set ..), decodeUni, uni_op]
  change (.ok (.uffma (ur (uniWord 0x20#7 o.d o.a o.b))) : Except Defect Instr) = _
  simp (disch := decide) only [ur, uni_d, uni_a, uni_b]
  try rfl
theorem Fields.uqmul (o : UniR) : Fields.Statement (.uqmul o) := by
  rintro _ ⟨⟩
  rw [fields_uni (uni_set ..), decodeUni, uni_op]
  change (.ok (.uqmul (ur (uniWord 0x21#7 o.d o.a o.b))) : Except Defect Instr) = _
  simp (disch := decide) only [ur, uni_d, uni_a, uni_b]
  try rfl
theorem Fields.bra (off : BitVec 24) : Fields.Statement (.bra off) := by
  rintro _ ⟨⟩
  rw [fields_uni (uni24_set ..), decodeUni, uni24_op]
  change (.ok (.bra (g24 (uniWord24 0x28#7 off))) : Except Defect Instr) = _
  simp (disch := decide) only [uni24_x]
  try rfl
theorem Fields.brz (o : UniJ) : Fields.Statement (.brz o) := by
  rintro _ ⟨⟩
  rw [fields_uni (uni16_set ..), decodeUni, uni16_op]
  change (.ok (.brz (uj (uniWord16 0x29#7 o.r o.off))) : Except Defect Instr) = _
  simp (disch := decide) only [uj, uni16_d, g16, uni16_low, BitVec.extractLsb'_eq_self]
  try rfl
theorem Fields.brnz (o : UniJ) : Fields.Statement (.brnz o) := by
  rintro _ ⟨⟩
  rw [fields_uni (uni16_set ..), decodeUni, uni16_op]
  change (.ok (.brnz (uj (uniWord16 0x2A#7 o.r o.off))) : Except Defect Instr) = _
  simp (disch := decide) only [uj, uni16_d, g16, uni16_low, BitVec.extractLsb'_eq_self]
  try rfl
theorem Fields.brd (o : UniJ) : Fields.Statement (.brd o) := by
  rintro _ ⟨⟩
  rw [fields_uni (uni16_set ..), decodeUni, uni16_op]
  change (.ok (.brd (uj (uniWord16 0x2B#7 o.r o.off))) : Except Defect Instr) = _
  simp (disch := decide) only [uj, uni16_d, g16, uni16_low, BitVec.extractLsb'_eq_self]
  try rfl
theorem Fields.jset (off : BitVec 24) : Fields.Statement (.jset off) := by
  rintro _ ⟨⟩
  rw [fields_uni (uni24_set ..), decodeUni, uni24_op]
  change (.ok (.jset (g24 (uniWord24 0x2C#7 off))) : Except Defect Instr) = _
  simp (disch := decide) only [uni24_x]
  try rfl
theorem Fields.call (o : UniL) : Fields.Statement (.call o) := by
  rintro _ ⟨⟩
  rw [fields_uni (uni16_set ..), decodeUni, uni16_op]
  change (.ok (.call (ul (uniWord16 0x2D#7 o.d o.imm))) : Except Defect Instr) = _
  simp (disch := decide) only [ul, uni16_d, g16, uni16_low, BitVec.extractLsb'_eq_self]
  try rfl
theorem Fields.jmp (o : UniJ) : Fields.Statement (.jmp o) := by
  rintro _ ⟨⟩
  rw [fields_uni (uni16_set ..), decodeUni, uni16_op]
  change (.ok (.jmp (uj (uniWord16 0x2E#7 o.r o.off))) : Except Defect Instr) = _
  simp (disch := decide) only [uj, uni16_d, g16, uni16_low, BitVec.extractLsb'_eq_self]
  try rfl
theorem Fields.ret (r : BitVec 8) : Fields.Statement (.ret r) := by
  rintro _ ⟨⟩
  rw [fields_uni (uni_set ..), decodeUni, uni_op]
  change (need (zeroBits (uniWord 0x2F#7 r 0 0) 0 16) .mustBeZero (.ret (gD (uniWord 0x2F#7 r 0 0))) : Except Defect Instr) = _
  simp (disch := decide) only [need, zeroBits, uni_d, uni_ab]
  try rfl
theorem Fields.jmpv (r : BitVec 8) : Fields.Statement (.jmpv r) := by
  rintro _ ⟨⟩
  rw [fields_uni (uni_set ..), decodeUni, uni_op]
  change (need (zeroBits (uniWord 0x30#7 r 0 0) 0 16) .mustBeZero (.jmpv (gD (uniWord 0x30#7 r 0 0))) : Except Defect Instr) = _
  simp (disch := decide) only [need, zeroBits, uni_d, uni_ab]
  try rfl
theorem Fields.retv (r : BitVec 8) : Fields.Statement (.retv r) := by
  rintro _ ⟨⟩
  rw [fields_uni (uni_set ..), decodeUni, uni_op]
  change (need (zeroBits (uniWord 0x31#7 r 0 0) 0 16) .mustBeZero (.retv (gD (uniWord 0x31#7 r 0 0))) : Except Defect Instr) = _
  simp (disch := decide) only [need, zeroBits, uni_d, uni_ab]
  try rfl
theorem Fields.exit : Fields.Statement .exit := by
  rintro _ ⟨⟩
  rfl
theorem Fields.nop : Fields.Statement .nop := by
  rintro _ ⟨⟩
  rfl
theorem Fields.yield : Fields.Statement .yield := by
  rintro _ ⟨⟩
  rfl
theorem Fields.trap (c : BitVec 8) : Fields.Statement (.trap c) := by
  rintro _ ⟨⟩
  rw [fields_uni (uni_set ..), decodeUni, uni_op]
  change (need (zeroBits (uniWord 0x35#7 0 0 c) 8 16) .mustBeZero (.trap (gB (uniWord 0x35#7 0 0 c))) : Except Defect Instr) = _
  simp (disch := decide) only [need, zeroBits, uni_b, uni_da]
  try rfl
theorem Fields.eret : Fields.Statement .eret := by
  rintro _ ⟨⟩
  rfl
theorem Fields.trig : Fields.Statement .trig := by
  rintro _ ⟨⟩
  rfl
theorem Fields.uld (o : UniM) : Fields.Statement (.uld o) := by
  rintro _ ⟨⟩
  rw [fields_uni (uni16_set ..), decodeUni, uni16_op]
  change (.ok (.uld (um (uniWord16 0x38#7 o.d (o.ar ++ o.mf ++ o.imm)))) : Except Defect Instr) = _
  simp (disch := decide) only [um, uni16_d, uni16_low, extract_low, extract_high, Nat.reduceSub, BitVec.extractLsb'_eq_self]
  try rfl
theorem Fields.ust (o : UniM) : Fields.Statement (.ust o) := by
  rintro _ ⟨⟩
  rw [fields_uni (uni16_set ..), decodeUni, uni16_op]
  change (.ok (.ust (um (uniWord16 0x39#7 o.d (o.ar ++ o.mf ++ o.imm)))) : Except Defect Instr) = _
  simp (disch := decide) only [um, uni16_d, uni16_low, extract_low, extract_high, Nat.reduceSub, BitVec.extractLsb'_eq_self]
  try rfl
theorem Fields.ulds (o : UniMS) : Fields.Statement (.ulds o) := by
  rintro _ ⟨⟩
  rw [fields_uni (uni_set ..), decodeUni, uni_op]
  change (.ok (.ulds (ums (uniWord 0x3A#7 o.d o.a (o.mf ++ o.imm)))) : Except Defect Instr) = _
  simp (disch := decide) only [ums, uni_d, uni_a, uni_low, extract_low, extract_high, Nat.reduceSub, BitVec.extractLsb'_eq_self]
  try rfl
theorem Fields.usts (o : UniMS) : Fields.Statement (.usts o) := by
  rintro _ ⟨⟩
  rw [fields_uni (uni_set ..), decodeUni, uni_op]
  change (.ok (.usts (ums (uniWord 0x3B#7 o.d o.a (o.mf ++ o.imm)))) : Except Defect Instr) = _
  simp (disch := decide) only [ums, uni_d, uni_a, uni_low, extract_low, extract_high, Nat.reduceSub, BitVec.extractLsb'_eq_self]
  try rfl
theorem Fields.uatom (o : UniM) : Fields.Statement (.uatom o) := by
  rintro _ ⟨⟩
  rw [fields_uni (uni16_set ..), decodeUni, uni16_op]
  change (.ok (.uatom (um (uniWord16 0x3C#7 o.d (o.ar ++ o.mf ++ o.imm)))) : Except Defect Instr) = _
  simp (disch := decide) only [um, uni16_d, uni16_low, extract_low, extract_high, Nat.reduceSub, BitVec.extractLsb'_eq_self]
  try rfl
theorem Fields.addr (o : UniN) : Fields.Statement (.addr o) := by
  rintro _ ⟨⟩
  rw [fields_uni (uni_set ..), decodeUni, uni_op]
  change (need (zeroBits (uniWord 0x3D#7 (0#5 ++ o.n) o.a o.b) 19 5) .mustBeZero (.addr ⟨(uniWord 0x3D#7 (0#5 ++ o.n) o.a o.b).extractLsb' 16 3, gA (uniWord 0x3D#7 (0#5 ++ o.n) o.a o.b), gB (uniWord 0x3D#7 (0#5 ++ o.n) o.a o.b)⟩) : Except Defect Instr) = _
  simp (disch := decide) only [need, zeroBits, uni_a, uni_b, uni_in_d, extract_low, extract_high, extract_zero, Nat.reduceSub, BitVec.extractLsb'_eq_self]
  try rfl
theorem Fields.aqry (o : UniQ) : Fields.Statement (.aqry o) := by
  rintro _ ⟨⟩
  rw [fields_uni (uni_set ..), decodeUni, uni_op]
  change (need (zeroBits (uniWord 0x3E#7 o.d (0#5 ++ o.n) 0) 0 8 && zeroBits (uniWord 0x3E#7 o.d (0#5 ++ o.n) 0) 11 5) .mustBeZero (.aqry ⟨gD (uniWord 0x3E#7 o.d (0#5 ++ o.n) 0), (uniWord 0x3E#7 o.d (0#5 ++ o.n) 0).extractLsb' 8 3⟩) : Except Defect Instr) = _
  simp (disch := decide) only [need, zeroBits, uni_d, uni_low, uni_in_a, extract_low, extract_high, extract_zero, Nat.reduceSub, BitVec.extractLsb'_eq_self]
  try rfl
theorem Fields.fence (o : UniFence) : Fields.Statement (.fence o) := by
  rintro _ ⟨⟩
  rw [fields_uni (uni_set ..), decodeUni, uni_op]
  change (need (zeroBits (uniWord 0x40#7 0 0 (0#3 ++ o.kind ++ o.scope)) 5 19) .mustBeZero (.fence ⟨(uniWord 0x40#7 0 0 (0#3 ++ o.kind ++ o.scope)).extractLsb' 3 2, (uniWord 0x40#7 0 0 (0#3 ++ o.kind ++ o.scope)).extractLsb' 0 3⟩) : Except Defect Instr) = _
  simp (disch := decide) only [need, zeroBits, uni_low, uni_fence, extract_low, extract_high, Nat.reduceSub, BitVec.extractLsb'_eq_self]
  try rfl
theorem Fields.bara (o : UniAB) : Fields.Statement (.bara o) := by
  rintro _ ⟨⟩
  rw [fields_uni (uni_set ..), decodeUni, uni_op]
  change (need (zeroBits (uniWord 0x41#7 0 o.a o.b) 16 8) .mustBeZero (.bara (uab (uniWord 0x41#7 0 o.a o.b))) : Except Defect Instr) = _
  simp (disch := decide) only [uab, need, zeroBits, uni_a, uni_b, uni_in_d, Nat.reduceSub, BitVec.extractLsb'_eq_self]
  try rfl
theorem Fields.barw (o : UniAB) : Fields.Statement (.barw o) := by
  rintro _ ⟨⟩
  rw [fields_uni (uni_set ..), decodeUni, uni_op]
  change (need (zeroBits (uniWord 0x42#7 0 o.a o.b) 16 8) .mustBeZero (.barw (uab (uniWord 0x42#7 0 o.a o.b))) : Except Defect Instr) = _
  simp (disch := decide) only [uab, need, zeroBits, uni_a, uni_b, uni_in_d, Nat.reduceSub, BitVec.extractLsb'_eq_self]
  try rfl
theorem Fields.bars (o : UniAB) : Fields.Statement (.bars o) := by
  rintro _ ⟨⟩
  rw [fields_uni (uni_set ..), decodeUni, uni_op]
  change (need (zeroBits (uniWord 0x43#7 0 o.a o.b) 16 8) .mustBeZero (.bars (uab (uniWord 0x43#7 0 o.a o.b))) : Except Defect Instr) = _
  simp (disch := decide) only [uab, need, zeroBits, uni_a, uni_b, uni_in_d, Nat.reduceSub, BitVec.extractLsb'_eq_self]
  try rfl
theorem Fields.mopf : Fields.Statement .mopf := by
  rintro _ ⟨⟩
  rfl
theorem Fields.mwait (n : BitVec 8) : Fields.Statement (.mwait n) := by
  rintro _ ⟨⟩
  rw [fields_uni (uni_set ..), decodeUni, uni_op]
  change (need (zeroBits (uniWord 0x45#7 0 0 n) 8 16) .mustBeZero (.mwait (gB (uniWord 0x45#7 0 0 n))) : Except Defect Instr) = _
  simp (disch := decide) only [need, zeroBits, uni_b, uni_da]
  try rfl
theorem Fields.cbatch (d : BitVec 8) : Fields.Statement (.cbatch d) := by
  rintro _ ⟨⟩
  rw [fields_uni (uni_set ..), decodeUni, uni_op]
  change (need (zeroBits (uniWord 0x46#7 d 0 0) 0 16) .mustBeZero (.cbatch (gD (uniWord 0x46#7 d 0 0))) : Except Defect Instr) = _
  simp (disch := decide) only [need, zeroBits, uni_d, uni_ab]
  try rfl
theorem Fields.cwait (a : BitVec 8) : Fields.Statement (.cwait a) := by
  rintro _ ⟨⟩
  rw [fields_uni (uni_set ..), decodeUni, uni_op]
  change (need (zeroBits (uniWord 0x47#7 0 a 0) 16 8 && zeroBits (uniWord 0x47#7 0 a 0) 0 8) .mustBeZero (.cwait (gA (uniWord 0x47#7 0 a 0))) : Except Defect Instr) = _
  simp (disch := decide) only [need, zeroBits, uni_a, uni_low, uni_in_d, Nat.reduceSub, BitVec.extractLsb'_eq_self]
  try rfl
theorem Fields.qbind (o : UniN) : Fields.Statement (.qbind o) := by
  rintro _ ⟨⟩
  rw [fields_uni (uni_set ..), decodeUni, uni_op]
  change (need (zeroBits (uniWord 0x48#7 (0#5 ++ o.n) o.a o.b) 19 5) .mustBeZero (.qbind ⟨(uniWord 0x48#7 (0#5 ++ o.n) o.a o.b).extractLsb' 16 3, gA (uniWord 0x48#7 (0#5 ++ o.n) o.a o.b), gB (uniWord 0x48#7 (0#5 ++ o.n) o.a o.b)⟩) : Except Defect Instr) = _
  simp (disch := decide) only [need, zeroBits, uni_a, uni_b, uni_in_d, extract_low, extract_high, extract_zero, Nat.reduceSub, BitVec.extractLsb'_eq_self]
  try rfl
theorem Fields.qstat (o : UniQ) : Fields.Statement (.qstat o) := by
  rintro _ ⟨⟩
  rw [fields_uni (uni_set ..), decodeUni, uni_op]
  change (need (zeroBits (uniWord 0x49#7 o.d (0#5 ++ o.n) 0) 0 8 && zeroBits (uniWord 0x49#7 o.d (0#5 ++ o.n) 0) 11 5) .mustBeZero (.qstat ⟨gD (uniWord 0x49#7 o.d (0#5 ++ o.n) 0), (uniWord 0x49#7 o.d (0#5 ++ o.n) 0).extractLsb' 8 3⟩) : Except Defect Instr) = _
  simp (disch := decide) only [need, zeroBits, uni_d, uni_low, uni_in_a, extract_low, extract_high, extract_zero, Nat.reduceSub, BitVec.extractLsb'_eq_self]
  try rfl
theorem Fields.cpy (a : BitVec 8) : Fields.Statement (.cpy a) := by
  rintro _ ⟨⟩
  rw [fields_uni (uni_set ..), decodeUni, uni_op]
  change (need (zeroBits (uniWord 0x50#7 0 a 0) 16 8 && zeroBits (uniWord 0x50#7 0 a 0) 0 8) .mustBeZero (.cpy (gA (uniWord 0x50#7 0 a 0))) : Except Defect Instr) = _
  simp (disch := decide) only [need, zeroBits, uni_a, uni_low, uni_in_d, Nat.reduceSub, BitVec.extractLsb'_eq_self]
  try rfl
theorem Fields.mfac (a : BitVec 8) : Fields.Statement (.mfac a) := by
  rintro _ ⟨⟩
  rw [fields_uni (uni_set ..), decodeUni, uni_op]
  change (need (zeroBits (uniWord 0x51#7 0 a 0) 16 8 && zeroBits (uniWord 0x51#7 0 a 0) 0 8) .mustBeZero (.mfac (gA (uniWord 0x51#7 0 a 0))) : Except Defect Instr) = _
  simp (disch := decide) only [need, zeroBits, uni_a, uni_low, uni_in_d, Nat.reduceSub, BitVec.extractLsb'_eq_self]
  try rfl
theorem Fields.mtrs (a : BitVec 8) : Fields.Statement (.mtrs a) := by
  rintro _ ⟨⟩
  rw [fields_uni (uni_set ..), decodeUni, uni_op]
  change (need (zeroBits (uniWord 0x52#7 0 a 0) 16 8 && zeroBits (uniWord 0x52#7 0 a 0) 0 8) .mustBeZero (.mtrs (gA (uniWord 0x52#7 0 a 0))) : Except Defect Instr) = _
  simp (disch := decide) only [need, zeroBits, uni_a, uni_low, uni_in_d, Nat.reduceSub, BitVec.extractLsb'_eq_self]
  try rfl
theorem Fields.vtenc (a : BitVec 8) : Fields.Statement (.vtenc a) := by
  rintro _ ⟨⟩
  rw [fields_uni (uni_set ..), decodeUni, uni_op]
  change (need (zeroBits (uniWord 0x53#7 0 a 0) 16 8 && zeroBits (uniWord 0x53#7 0 a 0) 0 8) .mustBeZero (.vtenc (gA (uniWord 0x53#7 0 a 0))) : Except Defect Instr) = _
  simp (disch := decide) only [need, zeroBits, uni_a, uni_low, uni_in_d, Nat.reduceSub, BitVec.extractLsb'_eq_self]
  try rfl
theorem Fields.twset (o : UniTw) : Fields.Statement (.twset o) := by
  rintro _ ⟨⟩
  rw [fields_uni (uni_set ..), decodeUni, uni_op]
  change (need (zeroBits (uniWord 0x54#7 (0#6 ++ o.w) o.a 0) 18 6 && zeroBits (uniWord 0x54#7 (0#6 ++ o.w) o.a 0) 0 8) .mustBeZero (.twset ⟨(uniWord 0x54#7 (0#6 ++ o.w) o.a 0).extractLsb' 16 2, gA (uniWord 0x54#7 (0#6 ++ o.w) o.a 0)⟩) : Except Defect Instr) = _
  simp (disch := decide) only [need, zeroBits, uni_a, uni_low, uni_in_d, extract_low, extract_high, extract_zero, Nat.reduceSub, BitVec.extractLsb'_eq_self]
  try rfl
theorem Fields.bankcfg (o : UniR) : Fields.Statement (.bankcfg o) := by
  rintro _ ⟨⟩
  rw [fields_uni (uni_set ..), decodeUni, uni_op]
  change (.ok (.bankcfg (ur (uniWord 0x55#7 o.d o.a o.b))) : Except Defect Instr) = _
  simp (disch := decide) only [ur, uni_d, uni_a, uni_b]
  try rfl
theorem Fields.tsdep (o : UniTs) : Fields.Statement (.tsdep o) := by
  rintro _ ⟨⟩
  rw [fields_uni (uni_set ..), decodeUni, uni_op]
  change (need (zeroBits (uniWord 0x58#7 o.d o.a (0#2 ++ o.c ++ o.ar)) 6 2) .mustBeZero (.tsdep ⟨gD (uniWord 0x58#7 o.d o.a (0#2 ++ o.c ++ o.ar)), gA (uniWord 0x58#7 o.d o.a (0#2 ++ o.c ++ o.ar)), (uniWord 0x58#7 o.d o.a (0#2 ++ o.c ++ o.ar)).extractLsb' 3 3, (uniWord 0x58#7 o.d o.a (0#2 ++ o.c ++ o.ar)).extractLsb' 0 3⟩) : Except Defect Instr) = _
  simp (disch := decide) only [need, zeroBits, uni_d, uni_a, uni_low, extract_low, extract_high, extract_zero, Nat.reduceSub, BitVec.extractLsb'_eq_self]
  try rfl
theorem Fields.tscpy (o : UniTsw) : Fields.Statement (.tscpy o) := by
  rintro _ ⟨⟩
  rw [fields_uni (uni_set ..), decodeUni, uni_op]
  change (need (zeroBits (uniWord 0x59#7 o.d o.a (bit o.wait ++ 0#1 ++ o.c ++ o.ar)) 6 1) .mustBeZero (.tscpy ⟨gD (uniWord 0x59#7 o.d o.a (bit o.wait ++ 0#1 ++ o.c ++ o.ar)), gA (uniWord 0x59#7 o.d o.a (bit o.wait ++ 0#1 ++ o.c ++ o.ar)), (uniWord 0x59#7 o.d o.a (bit o.wait ++ 0#1 ++ o.c ++ o.ar)).getLsbD 7, (uniWord 0x59#7 o.d o.a (bit o.wait ++ 0#1 ++ o.c ++ o.ar)).extractLsb' 3 3, (uniWord 0x59#7 o.d o.a (bit o.wait ++ 0#1 ++ o.c ++ o.ar)).extractLsb' 0 3⟩) : Except Defect Instr) = _
  simp (disch := decide) only [need, zeroBits, uni_d, uni_a, uni_low, uni_bit, extract_low, extract_high, extract_zero, bit_high, bit_bit, Nat.reduceSub, BitVec.extractLsb'_eq_self]
  try rfl
theorem Fields.tstak (o : UniTsw) : Fields.Statement (.tstak o) := by
  rintro _ ⟨⟩
  rw [fields_uni (uni_set ..), decodeUni, uni_op]
  change (need (zeroBits (uniWord 0x5A#7 o.d o.a (bit o.wait ++ 0#1 ++ o.c ++ o.ar)) 6 1) .mustBeZero (.tstak ⟨gD (uniWord 0x5A#7 o.d o.a (bit o.wait ++ 0#1 ++ o.c ++ o.ar)), gA (uniWord 0x5A#7 o.d o.a (bit o.wait ++ 0#1 ++ o.c ++ o.ar)), (uniWord 0x5A#7 o.d o.a (bit o.wait ++ 0#1 ++ o.c ++ o.ar)).getLsbD 7, (uniWord 0x5A#7 o.d o.a (bit o.wait ++ 0#1 ++ o.c ++ o.ar)).extractLsb' 3 3, (uniWord 0x5A#7 o.d o.a (bit o.wait ++ 0#1 ++ o.c ++ o.ar)).extractLsb' 0 3⟩) : Except Defect Instr) = _
  simp (disch := decide) only [need, zeroBits, uni_d, uni_a, uni_low, uni_bit, extract_low, extract_high, extract_zero, bit_high, bit_bit, Nat.reduceSub, BitVec.extractLsb'_eq_self]
  try rfl
theorem Fields.beat (n : BitVec 16) : Fields.Statement (.beat n) := by
  rintro _ ⟨⟩
  rw [fields_uni (uni16_set ..), decodeUni, uni16_op]
  change (need (zeroBits (uniWord16 0x60#7 0 n) 16 8) .mustBeZero (.beat (g16 (uniWord16 0x60#7 0 n))) : Except Defect Instr) = _
  simp (disch := decide) only [need, zeroBits, g16, uni16_low, uni16_hi, BitVec.extractLsb'_eq_self]
  try rfl
theorem Fields.sysrd (o : UniSysRd) : Fields.Statement (.sysrd o) := by
  rintro _ ⟨⟩
  rw [fields_uni (uni_set ..), decodeUni, uni_op]
  change (need (zeroBits (uniWord 0x61#7 o.d 0 o.n) 8 8) .mustBeZero (.sysrd ⟨gD (uniWord 0x61#7 o.d 0 o.n), gB (uniWord 0x61#7 o.d 0 o.n)⟩) : Except Defect Instr) = _
  simp (disch := decide) only [need, zeroBits, uni_d, uni_b, uni_in_a, Nat.reduceSub, BitVec.extractLsb'_eq_self]
  try rfl
theorem Fields.syswr (o : UniSysWr) : Fields.Statement (.syswr o) := by
  rintro _ ⟨⟩
  rw [fields_uni (uni_set ..), decodeUni, uni_op]
  change (need (zeroBits (uniWord 0x62#7 0 o.a o.n) 16 8) .mustBeZero (.syswr ⟨gA (uniWord 0x62#7 0 o.a o.n), gB (uniWord 0x62#7 0 o.a o.n)⟩) : Except Defect Instr) = _
  simp (disch := decide) only [need, zeroBits, uni_a, uni_b, uni_in_d, Nat.reduceSub, BitVec.extractLsb'_eq_self]
  try rfl
theorem Fields.pfxReg (p : PfxReg) : Fields.Statement (.pfxReg p) := by
  rintro _ ⟨⟩
  rw [fields_uni (pfx_set ..), decodeUni, pfx_op]
  change decodePfx (pfxWord 0 (p.dh ++ p.ah ++ p.bh ++ bit p.b8 ++ p.rel ++ p.idx ++ 0#3)) = _
  simp only [decodePfx, pfx_kind]
  simp (disch := decide) only [need, zeroBits, pfx_low, pfx_bit, extract_low, extract_high, extract_zero, bit_low, bit_high, bit_bit, Nat.reduceSub, BitVec.extractLsb'_eq_self]
  try rfl
theorem Fields.pfxImm (imm : BitVec 22) : Fields.Statement (.pfxImm imm) := by
  rintro _ ⟨⟩
  rw [fields_uni (pfx_set ..), decodeUni, pfx_op]
  change decodePfx (pfxWord 1 imm) = _
  simp only [decodePfx, pfx_kind]
  simp (disch := decide) only [pfx_low, pfx_bit, BitVec.extractLsb'_eq_self]
  try rfl
theorem Fields.pfxMem (p : PfxMem) : Fields.Statement (.pfxMem p) := by
  rintro _ ⟨⟩
  rw [fields_uni (pfx_set ..), decodeUni, pfx_op]
  change decodePfx (pfxWord 2 (p.scope ++ p.cache ++ p.order ++ p.ofs)) = _
  simp only [decodePfx, pfx_kind]
  simp (disch := decide) only [pfx_low, pfx_bit, extract_low, extract_high, bit_low, bit_high, Nat.reduceSub, BitVec.extractLsb'_eq_self]
  try rfl
theorem Fields.reachJoin (g : Nat) (p : Bool) : Fields.Statement (.reachJoin g p) := nofun
theorem Fields.icacheFill (g : Nat) (p : Bool) : Fields.Statement (.icacheFill g p) := nofun
theorem Fields.queueWake (g : Nat) (p : Bool) : Fields.Statement (.queueWake g p) := nofun
theorem Fields.issuePromotion (g : Nat) (p : Bool) : Fields.Statement (.issuePromotion g p) := nofun
theorem Fields.yieldHoldEnd (g : Nat) (p : Bool) : Fields.Statement (.yieldHoldEnd g p) := nofun
theorem Fields.memoryResponse (f : Nat) : Fields.Statement (.memoryResponse f) := nofun
theorem Fields.homeLoadRequest (f line : Nat) : Fields.Statement (.homeLoadRequest f line) := nofun
theorem Fields.homeWriteArrival (f line : Nat) : Fields.Statement (.homeWriteArrival f line) := nofun
theorem Fields.ownedLineRequest (cl line : Nat) : Fields.Statement (.ownedLineRequest cl line) := nofun
theorem Fields.updateOnlyRequest (cl line : Nat) : Fields.Statement (.updateOnlyRequest cl line) := nofun
theorem Fields.writeAck (f : Nat) : Fields.Statement (.writeAck f) := nofun
theorem Fields.writeVisible (w : Nat) : Fields.Statement (.writeVisible w) := nofun
theorem Fields.fenceRelease (g : Nat) (p : Bool) : Fields.Statement (.fenceRelease g p) := nofun
theorem Fields.tileArrival (id : Nat) : Fields.Statement (.tileArrival id) := nofun
theorem Fields.swapOut (r : SwapReq) : Fields.Statement (.swapOut r) := nofun
theorem Fields.swapCopyComplete (id : Nat) : Fields.Statement (.swapCopyComplete id) := nofun
theorem Fields.framePoolAdd (r : FrameReq) : Fields.Statement (.framePoolAdd r) := nofun
theorem Fields.tupleRegionRegister (vf base size : Nat) : Fields.Statement (.tupleRegionRegister vf base size) := nofun
theorem Fields.tupleDepositAtHome (id : Nat) : Fields.Statement (.tupleDepositAtHome id) := nofun
theorem Fields.tupleTakeAtHome (id : Nat) : Fields.Statement (.tupleTakeAtHome id) := nofun
theorem Fields.tupleResultDelivery (id : Nat) : Fields.Statement (.tupleResultDelivery id) := nofun
theorem Fields.bitmapRead (cl id : Nat) : Fields.Statement (.bitmapRead cl id) := nofun
theorem Fields.passGrant (cl : Nat) : Fields.Statement (.passGrant cl) := nofun
theorem Fields.fusionWaitExpiry (cl id : Nat) : Fields.Statement (.fusionWaitExpiry cl id) := nofun
theorem Fields.arbiterAgePromotion (cl id : Nat) : Fields.Statement (.arbiterAgePromotion cl id) := nofun
theorem Fields.passComplete (cl : Nat) : Fields.Statement (.passComplete cl) := nofun
theorem Fields.matrixResidueError (cl : Nat) : Fields.Statement (.matrixResidueError cl) := nofun
theorem Fields.factorCommandStart (cl : Nat) : Fields.Statement (.factorCommandStart cl) := nofun
theorem Fields.factorMatrixComplete (cl : Nat) : Fields.Statement (.factorMatrixComplete cl) := nofun
theorem Fields.copyComplete (cl id : Nat) : Fields.Statement (.copyComplete cl id) := nofun
theorem Fields.cwaitRelease (g : Nat) (p : Bool) : Fields.Statement (.cwaitRelease g p) := nofun
theorem Fields.castBlockComplete (die : Nat) : Fields.Statement (.castBlockComplete die) := nofun
theorem Fields.bankcfgDone (g : Nat) (p : Bool) : Fields.Statement (.bankcfgDone g p) := nofun
theorem Fields.barrierPoll (g : Nat) (p : Bool) : Fields.Statement (.barrierPoll g p) := nofun
theorem Fields.fbHeadWrite (part value : Nat) : Fields.Statement (.fbHeadWrite part value) := nofun
theorem Fields.fbReplyRetry (part seq : Nat) : Fields.Statement (.fbReplyRetry part seq) := nofun
theorem Fields.fbReplyAbort (part seq : Nat) : Fields.Statement (.fbReplyAbort part seq) := nofun
theorem Fields.shootdown (vf : Nat) (ctx : Option Nat) (lo hi : Nat) : Fields.Statement (.shootdown vf ctx lo hi) := nofun
theorem Fields.shootdownComplete (id : Nat) : Fields.Statement (.shootdownComplete id) := nofun
theorem Fields.baseBoundSet (vf part base bound : Nat) : Fields.Statement (.baseBoundSet vf part base bound) := nofun
theorem Fields.peerTranslationRequest (src ctx va : Nat) : Fields.Statement (.peerTranslationRequest src ctx va) := nofun
theorem Fields.peerTranslationRecall (id : Nat) : Fields.Statement (.peerTranslationRecall id) := nofun
theorem Fields.peerRecallAck (id : Nat) : Fields.Statement (.peerRecallAck id) := nofun
theorem Fields.peerLeaseExpiry (id : Nat) : Fields.Statement (.peerLeaseExpiry id) := nofun
theorem Fields.peerMemoryFlit (r : PeerReq) : Fields.Statement (.peerMemoryFlit r) := nofun
theorem Fields.sqEnable (vf q : Nat) : Fields.Statement (.sqEnable vf q) := nofun
theorem Fields.sqDisable (vf q : Nat) : Fields.Statement (.sqDisable vf q) := nofun
theorem Fields.sqDoorbell (vf q : Nat) (wr : BitVec 16) : Fields.Statement (.sqDoorbell vf q wr) := nofun
theorem Fields.launchRecordRead (vf q : Nat) : Fields.Statement (.launchRecordRead vf q) := nofun
theorem Fields.blockPlace (launch block : Nat) : Fields.Statement (.blockPlace launch block) := nofun
theorem Fields.placementReserve (launch block : Nat) : Fields.Statement (.placementReserve launch block) := nofun
theorem Fields.bitmapBitSet (launch block : Nat) : Fields.Statement (.bitmapBitSet launch block) := nofun
theorem Fields.launchComplete (launch : Nat) : Fields.Statement (.launchComplete launch) := nofun
theorem Fields.contextCreate (r : CtxReq) : Fields.Statement (.contextCreate r) := nofun
theorem Fields.contextDestroy (ctx : Nat) : Fields.Statement (.contextDestroy ctx) := nofun
theorem Fields.loopParamsSet (ctx : Nat) (p : LoopParams) : Fields.Statement (.loopParamsSet ctx p) := nofun
theorem Fields.loopBoundary (ctx : Nat) : Fields.Statement (.loopBoundary ctx) := nofun
theorem Fields.allocation (part : Nat) : Fields.Statement (.allocation part) := nofun
theorem Fields.grantsInForce (part : Nat) : Fields.Statement (.grantsInForce part) := nofun
theorem Fields.linkFrameStart : Fields.Statement .linkFrameStart := nofun
theorem Fields.beatMergeFlit (ctx mdl boundary count : Nat) (live : Bool) : Fields.Statement (.beatMergeFlit ctx mdl boundary count live) := nofun
theorem Fields.loopResultFlit (r : LoopResult) : Fields.Statement (.loopResultFlit r) := nofun
theorem Fields.mergeCountDeadline (ctx : Nat) : Fields.Statement (.mergeCountDeadline ctx) := nofun
theorem Fields.mergeResultDeadline (ctx : Nat) : Fields.Statement (.mergeResultDeadline ctx) := nofun
theorem Fields.meterWindowEnd (meters : List Nat) (uncore : Nat) : Fields.Statement (.meterWindowEnd meters uncore) := nofun
theorem Fields.throttleDrainTimeout (cl : Nat) : Fields.Statement (.throttleDrainTimeout cl) := nofun
theorem Fields.poolReassign (cl pool : Nat) : Fields.Statement (.poolReassign cl pool) := nofun
theorem Fields.poolReassignDone (cl : Nat) : Fields.Statement (.poolReassignDone cl) := nofun
theorem Fields.vpsTableWrite (vf n : Nat) (floor maxstep : BitVec 2) : Fields.Statement (.vpsTableWrite vf n floor maxstep) := nofun
theorem Fields.pwrCapWrite (watts : Nat) : Fields.Statement (.pwrCapWrite watts) := nofun
theorem Fields.energyWeightSet (part : Nat) (weights : List (BitVec 16)) : Fields.Statement (.energyWeightSet part weights) := nofun
theorem Fields.energyEpochEnd (cl core : Nat) : Fields.Statement (.energyEpochEnd cl core) := nofun
theorem Fields.energyCounterClear (ctx : Nat) : Fields.Statement (.energyCounterClear ctx) := nofun
theorem Fields.idleAccountClear (part : Nat) : Fields.Statement (.idleAccountClear part) := nofun
theorem Fields.scopeMaxSet (vf value : Nat) : Fields.Statement (.scopeMaxSet vf value) := nofun
theorem Fields.leaseLengthSet (part ns : Nat) : Fields.Statement (.leaseLengthSet part ns) := nofun
theorem Fields.preempt (ctx : Nat) : Fields.Statement (.preempt ctx) := nofun
theorem Fields.preemptDrainComplete (ctx : Nat) : Fields.Statement (.preemptDrainComplete ctx) := nofun
theorem Fields.preemptDrainTimeout (ctx : Nat) : Fields.Statement (.preemptDrainTimeout ctx) := nofun
theorem Fields.contextRestore (ctx part : Nat) : Fields.Statement (.contextRestore ctx part) := nofun
theorem Fields.hbmUncorrectableError (t : ErrPlace) : Fields.Statement (.hbmUncorrectableError t) := nofun
theorem Fields.l2DataUncorrectableError (t : ErrPlace) : Fields.Statement (.l2DataUncorrectableError t) := nofun
theorem Fields.l2TagParityError (slice way line : Nat) : Fields.Statement (.l2TagParityError slice way line) := nofun
theorem Fields.clusterBankUncorrectable (cl bank : Nat) : Fields.Statement (.clusterBankUncorrectable cl bank) := nofun
theorem Fields.registerFileUncorrectable (g : Nat) : Fields.Statement (.registerFileUncorrectable g) := nofun
theorem Fields.copyEngineError (e : Engine) : Fields.Statement (.copyEngineError e) := nofun
theorem Fields.correctableError : Fields.Statement .correctableError := nofun
theorem Fields.stationCoreFault : Fields.Statement .stationCoreFault := nofun
theorem Fields.linkCrcError (port : Nat) : Fields.Statement (.linkCrcError port) := nofun
theorem Fields.portRetrainDone (port : Nat) : Fields.Statement (.portRetrainDone port) := nofun
theorem Fields.portEnable (port : Nat) : Fields.Statement (.portEnable port) := nofun
theorem Fields.deviceReset (block : Option Machine.ConfigBlock) : Fields.Statement (.deviceReset block) := nofun
theorem Fields.partitionReset (part : Nat) : Fields.Statement (.partitionReset part) := nofun
theorem Fields.vfReset (vf : Nat) : Fields.Statement (.vfReset vf) := nofun
theorem Fields.rowTableRegister (ctx va n : Nat) : Fields.Statement (.rowTableRegister ctx va n) := nofun
theorem Fields.engineReset (e : Engine) : Fields.Statement (.engineReset e) := nofun
theorem Fields.linkReset (port : Nat) : Fields.Statement (.linkReset port) := nofun
theorem Fields.cxlMemAccess (r : CxlReq) : Fields.Statement (.cxlMemAccess r) := nofun
theorem Fields.timeFlit (m : TimeMsg) : Fields.Statement (.timeFlit m) := nofun
theorem Fields.timeMasterSelect (mdl : Nat) : Fields.Statement (.timeMasterSelect mdl) := nofun
theorem Fields.timeMasterLost : Fields.Statement .timeMasterLost := nofun
theorem Fields.timeResync (m : TimeMsg) : Fields.Statement (.timeResync m) := nofun
theorem Fields.stationControlFlit (port : Nat) (m : StationMsg) : Fields.Statement (.stationControlFlit port m) := nofun
theorem Fields.invalidFlit (port kind : Nat) : Fields.Statement (.invalidFlit port kind) := nofun
theorem Fields.routeTableLoad (peer : Nat) (ports : List Nat) : Fields.Statement (.routeTableLoad peer ports) := nofun
theorem Fields.doeImageLoad (slotB : Bool) (img : FwImage) : Fields.Statement (.doeImageLoad slotB img) := nofun
theorem Fields.getMeasurements : Fields.Statement .getMeasurements := nofun
theorem Fields.challenge (nonce : List Byte) : Fields.Statement (.challenge nonce) := nofun
theorem Fields.keyExchange (req : List Byte) : Fields.Statement (.keyExchange req) := nofun
theorem Fields.finish (req : List Byte) : Fields.Statement (.finish req) := nofun
theorem Fields.getVersion : Fields.Statement .getVersion := nofun
theorem Fields.firmwareUpdate : Fields.Statement .firmwareUpdate := nofun
theorem Fields.firmwareHeartbeat : Fields.Statement .firmwareHeartbeat := nofun
theorem Fields.firmwareWatchdogExpiry : Fields.Statement .firmwareWatchdogExpiry := nofun
theorem Fields.antiRollbackUpdate (version : Nat) (signature : List Byte) : Fields.Statement (.antiRollbackUpdate version signature) := nofun
theorem Fields.lifecycleAdvance (signature : List Byte) : Fields.Statement (.lifecycleAdvance signature) := nofun
theorem Fields.registerWrite (r : HostReg) : Fields.Statement (.registerWrite r) := nofun
theorem Fields.bankAllocate (cl bank ctx mode : Nat) : Fields.Statement (.bankAllocate cl bank ctx mode) := nofun
theorem Fields.unitFailure (cl core : Nat) : Fields.Statement (.unitFailure cl core) := nofun
theorem Fields.stationRestartComplete : Fields.Statement .stationRestartComplete := nofun

end Sys2Proof.Laws
end

