-- ==== Sys2Proof/Laws/Traps.lean ====
section
/-!
SUPPORT. What taking a trap, a context fault and a return from a trap can do: they write groups, contexts and the outbox alone,
and no register of a lane or of a group changes by them (R269, R271, R272).
-/
namespace Sys2Proof.Machine

/-- Nothing but groups, contexts and the outbox differs. -/
def State.SameButTraps (s t : State) : Prop := t = { s with groups := t.groups, contexts := t.contexts, outbox := t.outbox }

theorem State.SameButTraps.rfl (s : State) : s.SameButTraps s := Eq.refl s

theorem State.SameButTraps.trans {s t u : State} (h : s.SameButTraps t) (k : t.SameButTraps u) : s.SameButTraps u := by
  unfold State.SameButTraps at *
  rw [k, h]

theorem State.SameButTraps.mem_eq {s t : State} (h : s.SameButTraps t) : t.mem = s.mem := by
  rw [State.SameButTraps] at h; rw [h]

theorem State.setGroup_sameButTraps (s : State) (g : Group) : s.SameButTraps (s.setGroup g) := Eq.refl _

theorem State.charge_sameButTraps (s : State) (c k n : Nat) : s.SameButTraps (s.charge c k n) := by
  unfold State.charge
  split
  · exact .rfl s
  · split
    · exact .rfl s
    · exact Eq.refl _

theorem State.contextFault_sameButTraps (s : State) (c : Nat) (t : TrapRegs) (e : Nat) : s.SameButTraps (s.contextFault c t e) := by
  unfold State.contextFault
  split
  · exact .rfl s
  · simp only []
    split <;> exact Eq.refl _

theorem State.takeTrap_sameButTraps (s : State) (gid : Nat) (slot : Bool) (t : TrapInfo) : s.SameButTraps (s.takeTrap gid slot t) := by
  unfold State.takeTrap
  split
  · exact .rfl s
  · split
    · exact .rfl s
    · simp only []
      split
      · exact s.setGroup_sameButTraps _
      · split
        · exact (s.setGroup_sameButTraps _).trans (State.contextFault_sameButTraps _ _ _ _)
        · exact s.setGroup_sameButTraps _

theorem State.trapPath_sameButTraps (s : State) (gid : Nat) (slot : Bool) (c : Cause) (m : Mask) (a : Nat) :
    s.SameButTraps (s.trapPath gid slot c m a) := by
  unfold State.trapPath
  split
  · exact .rfl s
  · exact s.takeTrap_sameButTraps _ _ _

theorem State.unstick_sameButTraps (s : State) (gid : Nat) : s.SameButTraps (s.unstick gid) := by
  unfold State.unstick
  split
  · exact .rfl s
  · split
    · split
      · exact .rfl s
      · exact (s.setGroup_sameButTraps _).trans (State.trapPath_sameButTraps _ _ _ _ _ _)
    · exact .rfl s

theorem State.returnTrap_sameButTraps (s : State) (g : Group) (slot : Bool) (p : Path) : s.SameButTraps (s.returnTrap g slot p) := by
  unfold State.returnTrap
  split
  · split
    · split
      · exact (s.setGroup_sameButTraps _).trans (State.charge_sameButTraps _ _ _ _)
      · exact (s.setGroup_sameButTraps _).trans (State.contextFault_sameButTraps _ _ _ _)
    · exact s.trapPath_sameButTraps _ _ _ _ _
  · exact s.trapPath_sameButTraps _ _ _ _ _

/-- A word whose body keeps memory's form keeps it, whether it completes, traps or parks. -/
theorem State.word_memOk {s t : State} {body : Group → Bool → Path → Except Stop State} (hs : s.mem.wf = true)
    (hb : ∀ g slot p u, s.here = some (g, slot, p) → body g slot p = .ok u → u.mem.wf = true) (h : s.word body = .next t) :
    t.mem.wf = true := by
  unfold State.word at h
  split at h
  · cases h
  · rename_i g slot p hh
    unfold State.settle at h
    split at h
    · rename_i u hu
      cases h
      exact hb g slot p _ hh hu
    · cases h
      rw [(s.trapPath_sameButTraps _ _ _ _ _).mem_eq]
      exact hs
    · cases h
      exact hs

/-- Outside handler mode no trap of the other slot is undone (R270). -/
theorem State.undoOther_of_free (s : State) {g : Group} (slot : Bool) (h : g.trap.handler = false) : s.undoOther g slot = g := by
  unfold State.undoOther
  split <;> simp [h]

/-- A trap that is delivered (R269): the group of the path afterwards. -/
theorem State.takeTrap_delivers {s : State} {gid : Nat} {slot : Bool} {g : Group} {p : Path} {c : Context} (t : TrapInfo)
    (hg : s.group? gid = some g) (hp : g.path slot = some p) (hh : g.trap.handler = false) (hc : s.ctx? g.ctx = some c)
    (hv : c.trapVec ≠ 0) :
    (s.takeTrap gid slot t).group? gid =
      some (({ g.tell t.told with
          trap := t.regs slot true
          ret := some ⟨p.mask, p.join, g.sp, g.path (!slot), s.ticks, p, t.told.map fun x => (x, g.lost.getD 0)⟩ }.modPath (!slot) fun o =>
        { o with stopped := true }).setPath slot (some { p.done s.ticks c.trapVec Chain.none with join := none, ahead := [] })) := by
  have hid := State.group?_id hg
  have hv2 : (c.trapVec == 0) = false := by simpa using hv
  unfold State.takeTrap
  simp only [hg, Option.map_some, s.undoOther_of_free slot hh, hp, hh, hc, Option.getD_some, hv2, Bool.or_self, State.lateTrap, Bool.false_and,
    Bool.false_eq_true, if_false]
  generalize hx : Group.setPath _ slot _ = x
  have hxid : x.id = gid := by rw [← hx]; cases slot <;> simpa using hid
  have := State.group?_setGroup s x
  rw [hxid, hg] at this
  simpa using this

/-- The registers of lanes and of the group stand through a delivered trap. -/
theorem State.takeTrap_keeps_registers {s : State} {gid : Nat} {slot : Bool} {g : Group} {p : Path} {c : Context} (t : TrapInfo)
    (hg : s.group? gid = some g) (hp : g.path slot = some p) (hh : g.trap.handler = false) (hc : s.ctx? g.ctx = some c)
    (hv : c.trapVec ≠ 0) :
    ∃ g', (s.takeTrap gid slot t).group? gid = some g' ∧ g'.v = g.v ∧ g'.g = g.g ∧ g'.trap = t.regs slot true :=
  ⟨_, State.takeTrap_delivers t hg hp hh hc hv, by cases slot <;> exact g.tell_v t.told, by cases slot <;> exact g.tell_g t.told,
    by cases slot <;> rfl⟩

end Sys2Proof.Machine
end

