-- ==== Sys2Proof/Tests/Slice0.lean ====
section
/-!
SUPPORT. Tests. Expected values are the spec's worked examples or hand calculations from its rules. The witnesses at the end show, for
each clause of each statement with hypotheses, a small state and operands that meet them together.
-/
namespace Sys2Proof.Machine
open Sys2Proof.Claims

set_option maxRecDepth 100000

/-! ## Small states -/

/-- A group of 32 lanes at offset 0 with no register written. -/
def g0 : Group := Group.fresh 0 0 0 0 0 0 false 0 0 0 64 64 16 (BitVec.allOnes 32) 0 0 0
def p0 : Path := Path.start 0 (BitVec.allOnes 32) none 0
/-- A group register. -/
def Group.putG (g : Group) (k : Nat) (w : Word) : Group := { g with g := g.g.put k w }
/-- A vector register, one value in every lane. -/
def Group.putV (g : Group) (r : Nat) (w : Word) : Group :=
  { g with v := (List.range 32).foldl (fun m i => m.put (32 * r + i) w) g.v }
def Group.withPath (g : Group) (f : Path → Path) : Group := g.modPath false f

/-- The booted part at 100 ns with one group, its first path executing. -/
def at_ (g : Group) : State := { State.reset.boot with ticks := 2400, groups := [g], cur := some (0, false) }
def s0 : State := at_ g0
def c0 : Context := Context.fresh 0 0 0 0 0x20000 0 0 []
def State.withCtx (s : State) (f : Context → Context) : State := { s with contexts := [(0, f c0)] }
/-- One lane's value of a register, and one group register, of group 0 after a word. -/
def vAfter (i : Instr) (s : State) (r lane : Nat) : Option Word :=
  match exec i s with
  | .next t => (t.group? 0).map fun g => g.vreg r lane
  | _ => none
def gAfter (i : Instr) (s : State) (k : Nat) : Option Word :=
  match exec i s with
  | .next t => (t.group? 0).map fun g => g.greg k
  | _ => none
def pathAfter (i : Instr) (s : State) : Option Path :=
  match exec i s with
  | .next t => (t.group? 0).bind fun g => g.path false
  | _ => none
def pcAfter (i : Instr) (s : State) : Option Word := (pathAfter i s).map fun p => p.pc
def trapAfter (i : Instr) (s : State) : Option (BitVec 8) :=
  match exec i s with
  | .next t => (t.group? 0).map fun g => g.trap.cause
  | _ => none
def goes (o : Host.Outcome State Fault Refusal) : Bool :=
  match o with
  | .next _ => true
  | _ => false

/-- A state with v2 = a, v3 = b and v1 = d in lane 7, the only lane of the path. -/
def twoLanes (a b : Word) (d : Word := 0) : State :=
  at_ { g0 with v := [(39, d), (71, a), (103, b)], path0 := some { p0 with mask := 0x80 } }
/-- A state with g2 = a, g3 = b and g1 = d. -/
def twoUni (a b : Word) (d : Word := 0) : State := at_ (((g0.putG 2 a).putG 3 b).putG 1 d)
def lr0 : LaneR := ⟨false, false, 1, 2, 3⟩
def ur0 : UniR := ⟨1, 2, 3⟩
def v1Of (f : LaneR → Instr) (a b : Word) (d : Word := 0) : Option Word := vAfter (f lr0) (twoLanes a b d) 1 7
def g1Of (f : UniR → Instr) (a b : Word) (d : Word := 0) : Option Word := gAfter (f ur0) (twoUni a b d) 1
def v1Un (f : LaneU → Instr) (a : Word) : Option Word := vAfter (f ⟨false, false, 1, 2⟩) (twoLanes a 0) 1 7
def g1Un (f : UniU → Instr) (a : Word) : Option Word := gAfter (f ⟨1, 2⟩) (twoUni a 0) 1

/-! ## Well-formedness: one ill-formed term for each check -/

theorem test_wf_reservedOpcode : (match decode 0x18800000 with | .error e => e == .reservedOpcode | _ => false) = true := by decide
theorem test_wf_reservedFunction : Instr.defect (.ld ⟨false, 1, 2, 0, 8⟩) = some .reservedFunction := by decide
theorem test_wf_mustBeZero : Instr.defect (.pfxReg ⟨0, 0, 0, false, 0, 1⟩) = some .mustBeZero := by decide
theorem test_wf_uForbidden : (match decode 0x55000000 with | .error e => e == .uForbidden | _ => false) = true := by decide
theorem test_wf_nwForbidden : Instr.defect (.iadd ⟨true, true, 1, 2, 3⟩) = some .nwForbidden := by decide
theorem test_wf_latchInD : Instr.defect (.iadd ⟨false, false, 0xFC, 2, 3⟩) = some .latchInD := by decide
theorem test_wf_queueForbidden : Instr.defect (.imad ⟨false, false, 0xF4, 2, 3⟩) = some .queueForbidden := by decide
theorem test_wf_oddPair : Instr.defect (.uadd64 ⟨1, 2, 4⟩) = some .oddPair := by decide
theorem test_wf_misalignedRun : Instr.defect (.uld ⟨2, 0, 6, 0⟩) = some .misalignedRun := by decide
theorem test_wf_badValue : Instr.defect (.beat 0) = some .badValue := by decide
theorem test_wf_short : (match decodeBytes [0, 0, 0] with | .error e => e == .short | _ => false) = true := by decide

/-! ## Decoding: words that the spec writes out, for every family -/

theorem test_decode_lane : (decode 0x0D818283).toOption = some (.abs ⟨false, false, 3, 5⟩) ∧ (decode 0x04008103).toOption = some (.and ⟨false, false, 1, 2, 3⟩) ∧
    (decode 0x4D820180).toOption = some (.mov ⟨true, false, 4, 3⟩) ∧ (decode 0x010383FF).toOption = some (.iaddi ⟨false, false, 7, 7, 0x7F⟩) := by decide
theorem test_decode_uniform : (decode 0x820404FF).toOption = some (.uaddi ⟨4, 4, 0xFF⟩) ∧ (decode 0x9A280007).toOption = some (.uli ⟨40, 7⟩) ∧
    (decode 0x99010207).toOption = some (.uffs ⟨1, 2⟩) ∧ (decode 0x8D010268).toOption = some (.urotli ⟨1, 2, 8⟩) := by decide
theorem test_decode_control : (decode 0xA8FFFFFF).toOption = some (.bra 0xFFFFFF) ∧ (decode 0xAA09FFFA).toOption = some (.brnz ⟨9, 0xFFFA⟩) ∧
    (decode 0xAD28000A).toOption = some (.call ⟨40, 10⟩) ∧ (decode 0xB0090000).toOption = some (.jmpv 9) ∧ (decode 0xAC00000C).toOption = some (.jset 12) ∧
    (decode 0xB3000000).toOption = some .nop ∧ (decode 0xB6000000).toOption = some .eret := by decide
theorem test_decode_memory : (decode 0x1E020320).toOption = some (.atom ⟨false, 4, 6, 2, 0⟩) ∧ (decode 0xC000000D).toOption = some (.fence ⟨1, 5⟩) ∧
    (decode 0xC0000006).toOption = some (.fence ⟨0, 6⟩) := by decide
theorem test_decode_system : (decode 0xE1050002).toOption = some (.sysrd ⟨5, 2⟩) ∧ (decode 0xE2000520).toOption = some (.syswr ⟨5, 0x20⟩) ∧
    (decode 0xC8011415).toOption = some (.qbind ⟨1, 20, 21⟩) ∧ (decode 0xD4011400).toOption = some (.twset ⟨1, 20⟩) := by decide
theorem test_decode_prefix : (decode 0xFF400014).toOption = some (.pfxImm 20) ∧ (decode 0xFFA80000).toOption = some (.pfxMem ⟨5, 0, 0, 0⟩) := by decide

/-! ## Lane words -/

theorem test_iadd : v1Of .iadd 0xFFFFFFFF 2 = some 1 := by decide
theorem test_isub : v1Of .isub 1 2 = some 0xFFFFFFFF := by decide
theorem test_iaddi : vAfter (.iaddi ⟨false, false, 1, 2, 0x7F⟩) (twoLanes 0 0) 1 7 = some 0xFFFFFFFF := by decide
theorem test_imul : v1Of .imul 0xFFFFFFFF 2 = some 0xFFFFFFFE := by decide
theorem test_imulhs : v1Of .imulhs 0xFFFFFFFF 2 = some 0xFFFFFFFF := by decide
theorem test_imulhn : v1Of .imulhn 0xFFFFFFFF 2 = some 1 := by decide
theorem test_imad : v1Of .imad 0xFFFFFFFF 3 5 = some 2 := by decide
theorem test_qmul : v1Of .qmul 0x00018000 0x00008000 = some 0x0000C000 := by decide
theorem test_qmul_tie : v1Of .qmul 0xFFFFFFFF 0x00008000 = some 0 ∧ v1Of .qmul 1 0x00008000 = some 1 := by decide
theorem test_and : v1Of .and 0xF0F0 0xFF00 = some 0xF000 := by decide
theorem test_or : v1Of .or 0xF0F0 0x0F00 = some 0xFFF0 := by decide
theorem test_xor : v1Of .xor 0xFF 0x0F = some 0xF0 := by decide
theorem test_andn : v1Of .andn 0xF0F0 0xFF00 = some 0x00F0 := by decide
theorem test_shl : v1Of .shl 1 0x21 = some 0 ∧ v1Of .shl 1 31 = some 0x80000000 := by decide
theorem test_shr : v1Of .shr 0x80000000 0x21 = some 0 := by decide
theorem test_sra : v1Of .sra 0x80000000 0x21 = some 0xFFFFFFFF := by decide
theorem test_shli : vAfter (.shli ⟨false, false, 1, 2, 31⟩) (twoLanes 3 0) 1 7 = some 0x80000000 := by decide
theorem test_shri : vAfter (.shri ⟨false, false, 1, 2, 4⟩) (twoLanes 0x80000000 0) 1 7 = some 0x08000000 := by decide
theorem test_srai : vAfter (.srai ⟨false, false, 1, 2, 4⟩) (twoLanes 0x80000000 0) 1 7 = some 0xF8000000 := by decide
theorem test_rotli : vAfter (.rotli ⟨false, false, 1, 2, 4⟩) (twoLanes 0x80000001 0) 1 7 = some 0x00000018 := by decide
theorem test_imins : v1Of .imins 0xFFFFFFFF 1 = some 0xFFFFFFFF := by decide
theorem test_imaxs : v1Of .imaxs 0xFFFFFFFF 1 = some 1 := by decide
theorem test_iminn : v1Of .iminn 0xFFFFFFFF 1 = some 1 := by decide
theorem test_imaxn : v1Of .imaxn 0xFFFFFFFF 1 = some 0xFFFFFFFF := by decide
theorem test_icmpeq : v1Of .icmpeq 7 7 = some 1 ∧ v1Of .icmpeq 7 8 = some 0 := by decide
theorem test_icmpne : v1Of .icmpne 7 7 = some 0 ∧ v1Of .icmpne 7 8 = some 1 := by decide
theorem test_icmplt : v1Of .icmplt 0xFFFFFFFF 0 = some 1 ∧ v1Of .icmplt 4 4 = some 0 := by decide
theorem test_icmple : v1Of .icmple 0xFFFFFFFF 0 = some 1 ∧ v1Of .icmple 4 4 = some 1 := by decide
theorem test_icmpltn : v1Of .icmpltn 0xFFFFFFFF 0 = some 0 ∧ v1Of .icmpltn 0 1 = some 1 := by decide
theorem test_icmplen : v1Of .icmplen 0xFFFFFFFF 0 = some 0 ∧ v1Of .icmplen 4 4 = some 1 := by decide
theorem test_sel : v1Of .sel 10 20 0 = some 20 ∧ v1Of .sel 10 20 0x80000000 = some 10 := by decide
theorem test_mov : v1Un .mov 0x7F800001 = some 0x7F800001 := by decide
theorem test_neg : v1Un .neg 0x80000000 = some 0x80000000 ∧ v1Un .neg 1 = some 0xFFFFFFFF := by decide
theorem test_not : v1Un .not 0x0F0F0F0F = some 0xF0F0F0F0 := by decide
theorem test_abs : v1Un .abs 0x80000000 = some 0x80000000 ∧ v1Un .abs 0xFFFFFFFF = some 1 := by decide
theorem test_clz : v1Un .clz 1 = some 31 ∧ v1Un .clz 0 = some 32 ∧ v1Un .clz 0x80000000 = some 0 := by decide
theorem test_popc : v1Un .popc 0xFFFFFFFF = some 32 := by decide
theorem test_brev : v1Un .brev 1 = some 0x80000000 := by decide
theorem test_lid : vAfter (.lid ⟨false, 1⟩) s0 1 31 = some 31 := by decide
theorem test_mix : v1Of .mix 0 0 ≠ v1Of .mix 1 0 := by decide
theorem test_fadd : v1Of .fadd 0x3F800000 0x40000000 = some 0x40400000 ∧ v1Of .fadd 0x7F800000 0xFF800000 = some 0x7FC00000 := by decide
theorem test_fsub : v1Of .fsub 0x80000000 0x80000000 = some 0 := by decide
theorem test_fmul : v1Of .fmul 0x80000000 0x40400000 = some 0x80000000 := by decide
theorem test_ffma : v1Of .ffma 0x40000000 0x40400000 0x3F800000 = some 0x40E00000 := by decide
theorem test_fmin : v1Of .fmin 0 0x80000000 = some 0x80000000 ∧ v1Of .fmin 0x7FC00001 0x3F800000 = some 0x3F800000 := by decide
theorem test_fmax : v1Of .fmax 0x80000000 0 = some 0 ∧ v1Of .fmax 0x7FC00001 0xFFC00000 = some 0x7FC00000 := by decide
theorem test_fcmpeq : v1Of .fcmpeq 0 0x80000000 = some 1 ∧ v1Of .fcmpeq 0x7FC00000 0x7FC00000 = some 0 := by decide
theorem test_fcmplt : v1Of .fcmplt 0xBF800000 0x3F800000 = some 1 ∧ v1Of .fcmplt 0x7FC00000 0 = some 0 := by decide
theorem test_fcmple : v1Of .fcmple 0x3F800000 0x3F800000 = some 1 ∧ v1Of .fcmple 0 0x7FC00000 = some 0 := by decide
theorem test_fcmpun : v1Of .fcmpun 0 0x7FC00000 = some 1 ∧ v1Of .fcmpun 0 0 = some 0 := by decide
theorem test_badd2 : v1Of .badd2 0x3F804000 0x3F803F80 = some 0x40004040 := by decide
theorem test_bmul2 : v1Of .bmul2 0x40004000 0x40403F80 = some 0x40C04000 := by decide
theorem test_bfma2 : v1Of .bfma2 0x40004000 0x40403F80 0x3F803F80 = some 0x40E04040 := by decide
theorem test_bdot2 : v1Of .bdot2 0x40004000 0x40403F80 0x3F800000 = some 0x41100000 := by decide
theorem test_fneg : v1Un .fneg 0x3F800000 = some 0xBF800000 ∧ v1Un .fneg 0xFFC00001 = some 0x7FC00000 := by decide
theorem test_fabs : v1Un .fabs 0xBF800000 = some 0x3F800000 := by decide
theorem test_f2i : v1Un .f2i 0x40200000 = some 2 ∧ v1Un .f2i 0x4F800000 = some 0x7FFFFFFF := by decide
theorem test_f2iz : v1Un .f2iz 0xC0300000 = some 0xFFFFFFFE := by decide
theorem test_f2n : v1Un .f2n 0xBF19999A = some 0 ∧ v1Un .f2n 0x7FC00000 = some 0 := by decide
theorem test_f2nz : v1Un .f2nz 0x40300000 = some 2 := by decide
theorem test_i2f : v1Un .i2f 0x01000001 = some 0x4B800000 := by decide
theorem test_n2f : v1Un .n2f 0xFFFFFFFF = some 0x4F800000 := by decide
theorem test_f2bf : v1Un .f2bf 0x3F808000 = some 0x3F80 ∧ v1Un .f2bf 0x3F818000 = some 0x3F82 := by decide
theorem test_bf2f : v1Un .bf2f 0xABCD3F80 = some 0x3F800000 := by decide
theorem test_bf2fh : v1Un .bf2fh 0x3F80ABCD = some 0x3F800000 := by decide
theorem test_rcp : v1Un .rcp 0x80000000 = some 0xFF800000 := by decide
theorem test_rsq : v1Un .rsq 0xBF800000 = some 0x7FC00000 := by decide
theorem test_sqrt : v1Un .sqrt 0x40800000 = some 0x40000000 := by decide
theorem test_exp2 : v1Un .exp2 0xFF800000 = some 0 := by decide
theorem test_log2 : v1Un .log2 0 = some 0xFF800000 := by decide
theorem test_sin : v1Un .sin 0x7F800000 = some 0x7FC00000 := by decide
theorem test_cos : v1Un .cos 0 = some 0x3F800000 := by decide
theorem test_tanh : v1Un .tanh 0xFF800000 = some 0xBF800000 := by decide
theorem test_floor : v1Un .floor 0xBF000000 = some 0xBF800000 := by decide
theorem test_ceil : v1Un .ceil 0xBF000000 = some 0x80000000 := by decide
theorem test_trunc : v1Un .trunc 0x40300000 = some 0x40000000 := by decide
theorem test_rint : v1Un .rint 0x40200000 = some 0x40000000 := by decide
theorem test_bperm : v1Of .bperm 0x33221100 0x77665544 = some 0x33221100 := by decide

/-- v2 holds 3 × lane, v3 holds 31 − lane. -/
def ramp : State :=
  at_ { g0 with v := (List.range 32).foldl (fun m i => (m.put (64 + i) (BitVec.ofNat 32 (3 * i))).put (96 + i) (BitVec.ofNat 32 (31 - i))) [] }
theorem test_shfl : vAfter (.shfl ⟨false, 1, 2, 3⟩) ramp 1 0 = some 93 := by decide
theorem test_shflx : vAfter (.shflx ⟨false, 1, 2, 1⟩) ramp 1 4 = some 15 := by decide
theorem test_shflup : vAfter (.shflup ⟨false, 1, 2, 2⟩) ramp 1 5 = some 9 ∧ vAfter (.shflup ⟨false, 1, 2, 2⟩) ramp 1 1 = some 3 := by decide
theorem test_shfldn : vAfter (.shfldn ⟨false, 1, 2, 2⟩) ramp 1 5 = some 21 ∧ vAfter (.shfldn ⟨false, 1, 2, 2⟩) ramp 1 31 = some 93 := by decide
theorem test_qswz : vAfter (.qswz ⟨false, 1, 2, true, 2⟩) ramp 1 5 = some 18 ∧ vAfter (.qswz ⟨false, 1, 2, false, 3⟩) ramp 1 5 = some 18 := by decide
theorem test_qsum : vAfter (.qsum ⟨false, 1, 2, false⟩) ramp 1 5 = some 66 := by decide
theorem test_ballot : gAfter (.ballot ⟨5, 2⟩) ramp 5 = some 0xFFFFFFFE := by decide
theorem test_lrd : gAfter (.lrd ⟨5, 2, 7⟩) ramp 5 = some 21 := by decide
theorem test_lwr : vAfter (.lwr ⟨1, 4, 7⟩) (at_ (g0.putG 4 9)) 1 7 = some 9 ∧ vAfter (.lwr ⟨1, 4, 7⟩) (at_ (g0.putG 4 9)) 1 8 = some 0 := by decide

/-! ## Uniform words -/

theorem test_uadd : g1Of .uadd 0xFFFFFFFF 2 = some 1 := by decide
theorem test_usub : g1Of .usub 0 1 = some 0xFFFFFFFF := by decide
theorem test_uaddi : gAfter (.uaddi ⟨4, 4, 0xFF⟩) (at_ (g0.putG 4 5)) 4 = some 4 := by decide
theorem test_umul : g1Of .umul 0xFFFFFFFF 2 = some 0xFFFFFFFE := by decide
theorem test_umulhs : g1Of .umulhs 0xFFFFFFFF 2 = some 0xFFFFFFFF := by decide
theorem test_umulhn : g1Of .umulhn 0xFFFFFFFF 2 = some 1 := by decide
theorem test_uand : g1Of .uand 12 10 = some 8 := by decide
theorem test_uor : g1Of .uor 12 10 = some 14 := by decide
theorem test_uxor : g1Of .uxor 12 10 = some 6 := by decide
theorem test_uandn : g1Of .uandn 12 10 = some 4 := by decide
theorem test_ushl : g1Of .ushl 1 32 = some 0 := by decide
theorem test_ushr : g1Of .ushr 0x80000000 31 = some 1 := by decide
theorem test_usra : g1Of .usra 0x80000000 32 = some 0xFFFFFFFF := by decide
theorem test_ushli : gAfter (.ushli ⟨1, 2, 8⟩) (twoUni 0x01000001 0) 1 = some 0x100 := by decide
theorem test_ushri : gAfter (.ushri ⟨1, 2, 8⟩) (twoUni 0x80000000 0) 1 = some 0x00800000 := by decide
theorem test_usrai : gAfter (.usrai ⟨1, 2, 8⟩) (twoUni 0x80000000 0) 1 = some 0xFF800000 := by decide
theorem test_urotli : gAfter (.urotli ⟨1, 2, 8⟩) (twoUni 0x80000001 0) 1 = some 0x00000180 := by decide
theorem test_umins : g1Of .umins 0xFFFFFFFF 1 = some 0xFFFFFFFF := by decide
theorem test_umaxs : g1Of .umaxs 0xFFFFFFFF 1 = some 1 := by decide
theorem test_uminn : g1Of .uminn 0xFFFFFFFF 1 = some 1 := by decide
theorem test_umaxn : g1Of .umaxn 0xFFFFFFFF 1 = some 0xFFFFFFFF := by decide
theorem test_ucmpeq : g1Of .ucmpeq 3 3 = some 1 := by decide
theorem test_ucmpne : g1Of .ucmpne 3 3 = some 0 := by decide
theorem test_ucmplt : g1Of .ucmplt 0xFFFFFFFF 0 = some 1 := by decide
theorem test_ucmple : g1Of .ucmple 1 0 = some 0 := by decide
theorem test_ucmpltn : g1Of .ucmpltn 0xFFFFFFFF 0 = some 0 := by decide
theorem test_ucmplen : g1Of .ucmplen 3 3 = some 1 := by decide
theorem test_usel : g1Of .usel 10 20 0 = some 20 ∧ g1Of .usel 10 20 2 = some 10 := by decide
theorem test_umov : g1Un .umov 77 = some 77 := by decide
theorem test_uneg : g1Un .uneg 1 = some 0xFFFFFFFF := by decide
theorem test_unot : g1Un .unot 0 = some 0xFFFFFFFF := by decide
theorem test_uclz : g1Un .uclz 0 = some 32 := by decide
theorem test_upopc : g1Un .upopc 0xF0F = some 8 := by decide
theorem test_ubrev : g1Un .ubrev 2 = some 0x40000000 := by decide
theorem test_uffs : g1Un .uffs 0 = some 32 ∧ g1Un .uffs 0x18 = some 3 := by decide
theorem test_uf2i : g1Un .uf2i 0x40200000 = some 2 := by decide
theorem test_ui2f : g1Un .ui2f 0xFFFFFFFF = some 0xBF800000 := by decide
theorem test_uli : gAfter (.uli ⟨40, 7⟩) s0 40 = some 7 := by decide
theorem test_ulih : gAfter (.ulih ⟨1, 0xABCD⟩) (twoUni 0 0 0x11112222) 1 = some 0xABCD2222 := by decide
theorem test_ufadd : g1Of .ufadd 0x3F800000 0x3F800000 = some 0x40000000 := by decide
theorem test_ufmul : g1Of .ufmul 0x40000000 0x40400000 = some 0x40C00000 := by decide
theorem test_uffma : g1Of .uffma 0x40000000 0x40400000 0x3F800000 = some 0x40E00000 := by decide
theorem test_uqmul : gAfter (.uqmul ur0) (at_ (((g0.putG 2 0x100000).putG 3 0x300000).withPath fun p => { p with pfx := [.imm 20] })) 1 =
    some 0x300000 := by decide
theorem test_uadd64 : gAfter (.uadd64 ⟨10, 2, 4⟩) (at_ (((g0.putG 2 0xFFFFFFFF).putG 4 1).putG 3 5)) 11 = some 6 := by decide
theorem test_usub64 : gAfter (.usub64 ⟨10, 2, 4⟩) (at_ ((g0.putG 4 1).putG 3 5)) 11 = some 4 := by decide

/-! ## Control words -/

theorem test_bra : pcAfter (.bra 0xFFFFFF) (at_ (g0.withPath fun p => { p with pc := 8 })) = some 4 := by decide
theorem test_bra_address : trapAfter (.bra 0xFFFFFF) s0 = some 0x06 := by decide
theorem test_brz : pcAfter (.brz ⟨9, 3⟩) s0 = some 12 ∧ pcAfter (.brz ⟨9, 3⟩) (at_ (g0.putG 9 1)) = some 4 := by decide
theorem test_brnz : pcAfter (.brnz ⟨9, 3⟩) s0 = some 4 ∧ pcAfter (.brnz ⟨9, 3⟩) (at_ (g0.putG 9 1)) = some 12 := by decide
theorem test_brd : ((pathAfter (.brd ⟨9, 3⟩) (at_ (g0.putG 9 0xFF))).map fun p => (p.pc, p.mask)) = some (4, 0xFFFFFF00) := by decide
theorem test_call : gAfter (.call ⟨40, 10⟩) s0 40 = some 4 ∧ pcAfter (.call ⟨40, 10⟩) s0 = some 40 := by decide
theorem test_jmp : pcAfter (.jmp ⟨7, 1⟩) (at_ (g0.putG 7 0x100)) = some 0x104 := by decide
theorem test_ret : pcAfter (.ret 40) (at_ (g0.putG 40 0x20)) = some 0x20 ∧ trapAfter (.ret 40) s0 = some 0x0C := by decide
theorem test_jset : ((pathAfter (.jset 12) s0).map fun p => (p.pc, p.join)) = some (4, some 0) := by decide

/-- The example of R366: 32 lanes, v9 lane i = 0x100 + 0x40 × (i mod 4). -/
def fourTargets (cap : Nat) : State :=
  at_ { g0 with v := (List.range 32).foldl (fun m i => m.put (288 + i) (BitVec.ofNat 32 (0x100 + 0x40 * (i % 4)))) [], stackCap := cap }
theorem test_jmpv : (match exec (.jmpv 9) (fourTargets 4) with
    | .next t => (t.group? 0).map fun g => ((g.path false).map fun p => (p.pc, p.mask), (g.path true).map fun p => (p.pc, p.mask),
        g.stack.map fun e => (e.pc, e.mask))
    | _ => none) =
    some (some (0x100, 0x11111111), some (0x140, 0x22222222), [(0x180, 0x44444444), (0x1C0, 0x88888888)]) := by decide
theorem test_jmpv_divstack : trapAfter (.jmpv 9) (fourTargets 1) = some 0x13 := by decide
theorem test_retv : trapAfter (.retv 9) s0 = some 0x0C := by decide
theorem test_nop : pcAfter .nop s0 = some 4 := by decide
theorem test_yield : ((pathAfter .yield s0).map fun p => p.holdUntil) = some 2640 := by decide
theorem test_trap : (match exec (.trap 5) (s0.withCtx fun c => { c with trapVec := 0x100 }) with
    | .next t => (t.group? 0).map fun g => (g.trap.cause, g.trap.info, g.trap.pc, g.trap.handler, (g.path false).map fun p => p.pc)
    | _ => none) = some (0x0E, 5, 4, true, some 0x100) := by decide
/-- A group in handler mode, trapped at 0x40. -/
def handler : Group :=
  { g0 with trap := { TrapRegs.reset with handler := true, pc := 0x40, mask := 3 }, ret := some { mask := 7, join := none, sp := 0, other := none, at_ := 2400, own := p0 } }
theorem test_eret : ((pathAfter .eret (at_ handler)).map fun p => (p.pc, p.mask)) = some (0x40, 7) := by decide
theorem test_eret_priv : trapAfter .eret s0 = some 0x11 := by decide
theorem test_pfx : ((pathAfter (.pfxImm 20) s0).map fun p => (p.pc, p.pfx)) = some (0, [.imm 20]) ∧
    ((pathAfter (.pfxMem ⟨5, 0, 0, 0⟩) s0).map fun p => p.pfx) = some [.mem ⟨5, 0, 0, 0⟩] := by decide
theorem test_pfxReg : (vAfter (.iadd lr0) (at_ (((g0.putV 3 4).putV 5 9).putG 7 3 |>.withPath fun p =>
    { p with pfx := [.reg ⟨0, 0, 0, false, 2, 7⟩] })) 1 0) = some 13 := by decide
theorem test_exit : (match exec .exit s0 with | .next t => (t.group? 0).isNone | _ => false) = true := by decide
theorem test_trig : (match exec .trig s0 with | .next t => (t.group? 0).map fun g => g.triggered | _ => none) = some true := by decide
theorem test_beat : (match exec (.beat 3) s0 with | .next t => (t.ctx? 0).map fun c => c.loop.beats | _ => none) = some 3 := by decide
theorem test_sysrd : gAfter (.sysrd ⟨5, 0x51⟩) (at_ handler) 5 = some 0x40 := by decide
theorem test_syswr : (match exec (.syswr ⟨6, 0x51⟩) (at_ (handler.putG 6 0x83)) with
    | .next t => (t.group? 0).map fun g => g.trap.pc | _ => none) = some 0x80 := by decide
theorem test_syswr_priv : trapAfter (.syswr ⟨6, 0x51⟩) s0 = some 0x11 := by decide

/-! ## Witnesses: encoding and steps -/

theorem wit_DecodeReadsBackEveryWord : encode (.abs ⟨false, false, 3, 5⟩) = some 0x0D818283 ∧ wellFormed (.abs ⟨false, false, 3, 5⟩) = true := by decide
theorem wit_DecodedPatternIsItsWord : (decode 0x0D818283).toOption = some (.abs ⟨false, false, 3, 5⟩) := by decide
theorem wit_ReservedOpcodes_lane : (0x18800000 : Word).getLsbD 31 = false ∧ fOp6 0x18800000 = 0x31 := by decide
/-- The opcodes that R63 leaves out, and PFX of kind 0b11. -/
def leftOut (w : Word) : Bool :=
  let k := (fOp7 w).toNat
  w.getLsbD 31 && ([0x22, 0x27, 0x3F, 0x4A, 0x4F, 0x56, 0x57, 0x5B, 0x5F, 0x63, 0x7E].contains k || k == 0x7F && w.extractLsb' 22 2 == 3)
theorem wit_ReservedOpcodes_uniform : ([0xA2000000, 0xA7000000, 0xBF000000, 0xCA000000, 0xCF000000, 0xD6000000, 0xD7000000, 0xDB000000,
    0xDF000000, 0xE3000000, 0xFE000000, 0xFFC00000] : List Word).all (fun w => leftOut w && (decode w).toOption.isNone) = true := by decide
/-- The booted part with a word at offset 0 and a turn of core 0. -/
def placed (w : Word) : State := { State.reset.boot.putWord 0x60000 w with turns := [.issue 12 0 0] }
/-- The word that the turn of core 0 fetches, where its path stands at no join. -/
def fetchedBy (s : State) : Option Word :=
  match s.takePlan 0 0 with
  | (s0, some (g, _, p)) =>
    if s0.atJoin g p then none
    else
      match (s0.fetch g p).2 with
      | .word w => some w
      | _ => none
  | (_, none) => none
theorem wit_StepRuns_word : fetchedBy (turned (placed 0x0D818283) [] 12) = some 0x0D818283 ∧ (decode 0x0D818283).toOption.isSome = true := by decide
theorem wit_StepRuns_illegal : fetchedBy (turned (placed 0xFFFFFFFF) [] 12) = some 0xFFFFFFFF ∧ (decode 0xFFFFFFFF).toOption.isNone = true := by decide
theorem wit_StepRuns_switch : s0.group? g0.id = some g0 ∧ g0.path false = some p0 := ⟨rfl, rfl⟩
/-- A group whose path stands at its join. -/
def joining : Group := { g0 with stack := [joinEntry 0 (BitVec.allOnes 32) none], path0 := some { p0 with join := some 0 } }
theorem wit_StepRuns_join :
    (let s := turned { at_ joining with turns := [.issue 0 0 0] } [] 0
     (s.takePlan 0 0).2.map fun x => (s.takePlan 0 0).1.atJoin x.1 x.2.2) = some true := by decide
theorem wit_StepRuns_none : (((turned (placed 0x0D818283) [] 12).takePlan 0 1).2).isNone = true := by decide
theorem wit_StepRuns_event : (Instr.yieldHoldEnd 0 false).isWord = false := by decide
theorem wit_StepRuns_wait : ({ s0 with turns := [.wait 5] } : State).turns = [.wait 5] ∧ s0.heldNext = none := ⟨rfl, rfl⟩
/-- A command that came while no image was in charge is served first (R296). -/
theorem test_step_held : (match step { s0 with held := [.scopeMaxSet 0 3], turns := [.wait 5] } with
    | .next t => (t.vf? 0).map fun v => (v.scopeMax, t.held.length, t.turns.length)
    | _ => none) = some (3, 0, 1) ∧ s0.station.inCharge = true := by decide
theorem wit_FreeStep_event : ({ State.reset with ticks := 24 * 1024 } : State).turns = [] ∧
    ((({ State.reset with ticks := 24 * 1024 } : State).ownEvents.findSome? fun e => e { State.reset with ticks := 24 * 1024 }).isSome) = true :=
  ⟨rfl, by decide⟩
theorem wit_FreeStep_word : s0.turns = [] ∧ (s0.ownEvents.findSome? fun e => e s0) = none ∧ s0.openPlan = none ∧
    s0.busyCore s0.nextCore = some 0 := by decide
/-- Core 0 has chosen group 0 in this cycle and has not issued its word. -/
def chosen0 : State := s0.planFor 0 0 0 false
theorem wit_FreeStep_plan : chosen0.turns = [] ∧ (chosen0.ownEvents.findSome? fun e => e chosen0) = none ∧
    chosen0.openPlan = some (0, 0) := by decide
theorem wit_FreeStep_idle : State.reset.turns = [] ∧ (State.reset.ownEvents.findSome? fun e => e State.reset) = none ∧
    State.reset.openPlan = none ∧ State.reset.busyCore State.reset.nextCore = none := by decide
/-- Three groups of core 0: at a lane-set word, at another, at a uniform word. -/
def threeGroups : State :=
  let s := (at_ g0).putWord 0x60000 0x0D818283 |>.putWord 0x60004 0x9A280007
  { s with groups := [g0, { g0 with id := 1, slot := 1 }, { g0.withPath fun p => { p with pc := 4 } with id := 2, slot := 2 }] }
theorem wit_CoreChooses : (threeGroups.candidates 0 0).map (fun c => (c.1.id, threeGroups.atJoin c.1 c.2.2)) = [(0, false), (1, false), (2, false)] ∧
    (threeGroups.picks 0 0).map (fun c => (c.1.id, threeGroups.uniformNext c)) = [(0, false), (1, false), (2, true)] := by decide

/-- R387: a core's turn at a prefix leaves the path's place in the cycle, and its pipe is that of the word after the prefix. -/
theorem test_prefix_takes_no_slot :
    (((turned (placed 0xFF400001) [] 12).takePlan 0 0).1.openPlan) = some (0, 0) ∧
    ((turned (placed 0x0D818283) [] 12).takePlan 0 0).1.openPlan = none := by decide
theorem test_prefix_pipe : let s := (at_ g0).putWord 0x60000 0xFF400001 |>.putWord 0x60004 0x0D818283
    (s.choose 0 0).map s.uniformNext = some false := by decide

/-- R264, R473: of two epochs, the one that ended before the present tick is charged when the time passes. -/
theorem test_epochs_settled :
    ((State.reset.pass (2 * 1024 * 15)).cluster? 3).map (fun c => (c.cycles (2 * 1024 * 15), c.epochs)) = some (2048, [1, 1, 1, 1]) := by decide

/-- The launch of the boot with its code elsewhere. -/
def codeAt (a : Nat) : State := { s0 with launches := s0.launches.map fun l => { l with lpb := { l.lpb with codeBase := a } } }
theorem wit_Fetch_launch : (s0.launch? g0.launch).isSome = true ∧ canonicalRange 0 4 = true ∧ canonicalRange 2 4 = true ∧
    canonicalRange (2 ^ 56) 4 = false := by decide
/-- Where a fetch of group 0 at address 0 leads, and what is poisoned there. -/
def fetchKeyOf (s : State) : Option (Nat × Option Nat) :=
  match s.mature.translate g0.ctx g0.secure .fetch 0 with
  | (s1, .mem key) => some (key, firstPoison (s1.recall (key / 128)).poison key 4)
  | _ => none
def fetchFaults (s : State) : Bool :=
  match s.mature.translate g0.ctx g0.secure .fetch 0 with
  | (_, .fault _ _) => true
  | _ => false
theorem wit_Fetch_word : fetchKeyOf s0 = some (0x60000, none) := by decide
theorem wit_Fetch_poison : fetchKeyOf { s0 with poison := [(0x1800, 0)] } = some (0x60000, some 0x60000) := by decide
theorem wit_Fetch_fault : fetchFaults { s0 with mem := s0.mem.setBytes 0x51000 (leBytes 8 0x60007) } = true := by decide
theorem wit_EveryWordGoesOn : Instr.nop.isWord = true ∧ s0.here.isSome = true := by decide

/-! ## Witnesses: operands -/

theorem wit_At : s0.At g0 false p0 := rfl
theorem wit_LaneFields : p0.pfx = [] ∧ (0xF3 : BitVec 8).toNat < 0xF4 ∧ (0x7B : BitVec 7).toNat < 0x7C ∧ (63 : BitVec 8).toNat < g0.vCount ∧
    ¬(64 : BitVec 8).toNat < g0.vCount ∧ (63 : BitVec 8).toNat < g0.gCount := by decide
theorem wit_UniformFields : p0.pfx = [] ∧ (0xFB : BitVec 8).toNat < 0xFC ∧ (63 : BitVec 8).toNat < g0.gCount ∧ ¬(64 : BitVec 8).toNat < g0.gCount := by decide
/-- A path with one chain word behind it. -/
def chained1 : Path := { p0 with chain := ⟨1, [⟨List.replicate 32 5, BitVec.allOnes 32⟩], [9], 0⟩ }
theorem wit_Latches_valid : chained1.pfx = [] ∧ (0 : Nat) < chained1.chainNow.lane.length ∧ chained1.chainNow.latchRun < 8 ∧
    (chained1.chainNow.lane[0]?).bind (fun l => l.vals[31]?) = some 5 ∧ (0xFC : BitVec 8).toNat = 0xFC + 0 := by decide
theorem wit_Latches_invalid : ¬(1 < chained1.chainNow.lane.length ∧ chained1.chainNow.latchRun < 8) ∧
    ¬(({ chained1 with chain := { chained1.chain with latchRun := 8 } } : Path).chainNow.latchRun < 8) := by decide
theorem wit_Chain_full : 64 ≤ ({ p0 with chain := ⟨64, [], [], 0⟩ } : Path).chain.len := by decide
theorem wit_Relative_inside : ({ p0 with pfx := [.reg ⟨0, 0, 0, false, 2, 7⟩] } : Path).pfx = [.reg ⟨0, 0, 0, false, 2, 7⟩] ∧
    (7 : BitVec 10).toNat < g0.gCount ∧ (0 : Int) ≤ ((3 : BitVec 8).toNat : Int) + ((g0.putG 7 0xFFFFFFFD).greg 7).toInt ∧
    ((3 : BitVec 8).toNat : Int) + ((g0.putG 7 0xFFFFFFFD).greg 7).toInt < g0.vCount := by decide
theorem wit_Relative_outside : g0.gCount ≤ (64 : BitVec 10).toNat ∧ ((3 : BitVec 8).toNat : Int) + ((g0.putG 7 0xFFFFFFFC).greg 7).toInt < 0 ∧
    (g0.vCount : Int) ≤ ((3 : BitVec 8).toNat : Int) + ((g0.putG 7 61).greg 7).toInt := by decide
theorem wit_BadPrefixes : 3 ≤ ({ p0 with pfx := [.imm 0, .imm 0, .imm 0] } : Path).pfx.length ∧ bareForm.accepts.reg = false ∧
    bareForm.accepts.imm = false ∧ bareForm.accepts.mem = false ∧ (formR ⟨true, true, 1, 2, 3⟩ regOnly).nw = true ∧
    (formR ⟨true, true, 1, 2, 3⟩ regOnly).u = true ∧ (formR lr0 regOnly).accepts.imm = false := by decide

/-- Cluster 0 with banks 0 and 1 of context 0 in FIFO mode, and a FIFO of two rows' room on bank 0 with the rows given. -/
def fifo0 (rows : List Row) : Fifo := { first := 0, wlog := 0, mc := false, subs := 0, rows := rows, base := 0, readers := [], bound := [(0, 1)], rate := (0, 0, 0) }
def row1 (w : Word) : Row := { data := List.replicate 32 w, psn := (false, false) }
def withFifo (s : State) (f : Fifo) : State :=
  s.modCluster 0 fun c => { c with fifos := [f], banks := (List.range 16).map fun i =>
    if i < 2 then { mode := .fifo, owner := some 0, granules := 0, leaving := false } else Bank.reset }
def bound1 (role : BitVec 2) : Group := { g0 with qreg := [none, some ⟨0, role⟩, none, none, none, none, none, none] }
theorem wit_Queue_unbound : s0.fifoOf g0 1 = none := rfl
theorem wit_Queue_row : (withFifo (at_ (bound1 3)) (fifo0 [row1 7])).fifoOf (bound1 3) 1 = some (fifo0 [row1 7], 3) ∧ (3 : BitVec 2).getLsbD 1 = true ∧
    (3 : BitVec 2).getLsbD 0 = true ∧ (fifo0 [row1 7]).mc = false ∧ (fifo0 [row1 7]).rows = row1 7 :: [] ∧ (fifo0 [row1 7]).bound ≠ [] := by decide
theorem wit_Queue_empty : (withFifo (at_ (bound1 1)) (fifo0 [])).fifoOf (bound1 1) 1 = some (fifo0 [], 1) ∧ (1 : BitVec 2).getLsbD 1 = false ∧
    (2 : BitVec 2).getLsbD 0 = false ∧ (fifo0 []).rows = [] := by decide
theorem test_queue_order : ((((withFifo (at_ (bound1 3)) (fifo0 [row1 7])).pushRow (bound1 3) 1 (row1 8)).popRow (bound1 3) 1).fifoOf (bound1 3) 1).map
    (fun x => x.1.rows) = some [row1 8] := by decide
/-- A second FIFO on bank 1 beside the one on bank 0. -/
def twoFifos : State := (withFifo (at_ (bound1 3)) (fifo0 [row1 7])).modCluster 0 fun c =>
  { c with fifos := c.fifos ++ [{ fifo0 [row1 9] with first := 1, bound := [(0, 2)] }] }
theorem wit_Queue_other : twoFifos.fifoOf (bound1 3) 1 = some (fifo0 [row1 7], 3) ∧ (1 : Nat) ≠ (fifo0 [row1 7]).first ∧
    ((twoFifos.cluster? 0).bind fun x => x.fifo? 1).map (fun f => f.bound) = some [(0, 2)] := by decide
theorem wit_PushedRow : (31 : Nat) < 32 := by decide

/-! ## Witnesses: lane and uniform words -/

/-- The operands of a word at a path resolve, and its queues are there. -/
def readyAt (s : State) (g : Group) (p : Path) (f : Form) (ok : Prefixes → Bool := fun _ => true) : Bool :=
  match f.operands g p ok with
  | .ok r => (queueCheck s g p.lanes r.a.queue? r.d.queue?).toOption.isSome
  | .error _ => false
def ready0 (f : Form) (ok : Prefixes → Bool := fun _ => true) : Bool := readyAt s0 g0 p0 f ok

theorem wit_LaneTwo : ready0 (formR lr0 regOnly) = true ∧ ready0 (formR ⟨true, false, 1, 2, 3⟩ regOnly) = true := by decide
/-- A word that pops q1 in A and pushes it in D. -/
theorem wit_LaneTwo_queue : readyAt (withFifo (at_ (bound1 3)) (fifo0 [row1 7])) (bound1 3) p0 (formR ⟨false, false, 0xF5, 0xF5, 3⟩ regOnly) = true := by decide
theorem wit_LaneAccumulating : ready0 (formR lr0 regOnly) = true ∧ (1 : Nat) < g0.gCount := by decide
theorem wit_LaneAccumulating_bounds : ({ g0 with gCount := 4 } : Group).gCount ≤ 5 ∧
    readyAt s0 { g0 with gCount := 4 } p0 (formR ⟨true, false, 5, 2, 3⟩ regOnly) = true := by decide
theorem wit_LaneOne : ready0 (formA false false 1 2 regOnly) = true ∧ ready0 (formA true false 1 2 regOnly) = true := by decide
theorem wit_LaneImmediate : ready0 (formA false false 1 2 regImm) = true ∧ ready0 (formR lr0 regImm) qmulOk = true ∧
    ready0 (formR lr0 regImm) bpermOk = true ∧ ready0 (lidForm ⟨false, 1⟩) = true ∧ ready0 (formR ⟨false, false, 1, 2, 3⟩ regImm) qnt8Ok = true := by decide
theorem wit_LaneImmediate_prefixed : readyAt s0 g0 { p0 with pfx := [.imm 30] } (formR lr0 regImm) qmulOk = true ∧
    readyAt s0 g0 { p0 with pfx := [.imm 0x7654] } (formR lr0 regImm) bpermOk = true := by decide
theorem wit_CrossSrc : (match ((formR ⟨false, false, 1, 2, 3⟩ regOnly).operands g0 p0).toOption with | some r => r.a | none => .absent) = .v 2 := by decide
theorem wit_GroupTransfers : ready0 (formGroupD 5 2) = true ∧ ready0 (lwrForm ⟨1, 4, 7⟩) = true := by decide
theorem wit_Rounding : (0 : Nat) < 3 ∧ roundMag 23 1 3 ≠ 255 * 2 ^ 23 ∧ roundMag 23 (2 ^ 128 - 2 ^ 103) 1 = 255 * 2 ^ 23 := by decide
theorem wit_Nan : isNaN 0x7F800001 = true ∧ isNaN 0xFFFFFFFF = true ∧ isNaN 0x7F800000 = false := by decide
theorem wit_FloatToInteger : fpOf 0xBF800000 = .fin true (2 ^ 149) ∧ fpOf 0x4F000000 = .fin false (2 ^ 180) := by decide
theorem wit_Special : field 0x39800000 0 31 ≤ 0x39800000 ∧ field 0x7F7FFFFF 0 31 < 0x7F800000 := by decide
theorem wit_Uniform : ready0 (formUni (.ud 1 1) (.us 2) (.us 3) regOnly) = true ∧ ready0 (formUni (.ud 1 1) (.us 2) .absent regOnly) = true ∧
    ready0 (formUni (.ud 1 1) (.us 2) .absent regImm) = true ∧ ready0 (formUni (.ud 1 1) .absent .absent regImm) uliOk = true ∧
    ready0 (formUni (.ud 1 1) .absent .absent regOnly) = true ∧ ready0 (formUni (.ud 1 1) (.us 2) (.us 3) regImm) qmulOk = true ∧
    ready0 (formUni (.ud 10 2) (.ud 2 2) (.ud 4 2) regOnly) = true := by decide

/-! ## Witnesses: control words, traps and system registers -/

theorem wit_Branches : ready0 (formCtl .absent .absent .absent immOnly) = true ∧ ready0 (formCtl (.us 9) .absent .absent regImm) = true ∧
    ready0 (formCtl (.ud 40 1) .absent .absent regImm) = true ∧ ready0 (formCtl (.us 40) .absent .absent regOnly) = true := by decide
/-- Targets at both ends of the range of R328, and past them. -/
theorem wit_Branches_range : ((p0.wordPc.toNat : Int) + 4 * signedImm Prefixes.none 0 24 = 0) ∧
    (({ p0 with pc := 0xFFFFFFF8 } : Path).wordPc.toNat : Int) + 4 * signedImm Prefixes.none 1 24 = 2 ^ 32 - 4 ∧
    (({ p0 with pc := 0xFFFFFFFC } : Path).wordPc.toNat : Int) + 4 * signedImm Prefixes.none 1 24 = 2 ^ 32 ∧
    (p0.wordPc.toNat : Int) + 4 * signedImm Prefixes.none 0xFFFFFF 24 = -4 := by decide
theorem wit_Branches_registers : g0.greg 9 = 0 ∧ (g0.putG 9 1).greg 9 ≠ 0 ∧ ((g0.putG 9 0x104).greg 9).toNat % 4 = 0 ∧
    ((g0.putG 9 0x102).greg 9).toNat % 4 ≠ 0 ∧ (g0.putG 9 0x104).greg 9 ≠ 0 := by decide
/-- A group with its second slot taken, and with its stack full. -/
def twoPaths : Group := { g0 with path0 := some { p0 with mask := 0xFFFF }, path1 := some { p0 with mask := 0xFFFF0000 } }
def fullStack : Group := { twoPaths with stackCap := 0 }
theorem wit_Brd_cases : p0.mask &&& g0.greg 9 = 0 ∧ p0.mask &&& (g0.putG 9 0xFFFFFFFF).greg 9 = p0.mask ∧ p0.mask &&& (g0.putG 9 1).greg 9 ≠ 0 ∧
    p0.mask &&& (g0.putG 9 1).greg 9 ≠ p0.mask ∧ g0.path true = none ∧ twoPaths.path true ≠ none ∧ twoPaths.sp ≠ twoPaths.stackCap ∧
    fullStack.path true ≠ none ∧ fullStack.sp = fullStack.stackCap := by decide
theorem wit_Brd_at : (at_ twoPaths).At twoPaths false { p0 with mask := 0xFFFF } ∧ (at_ fullStack).At fullStack false { p0 with mask := 0xFFFF } := ⟨rfl, rfl⟩
theorem wit_Jset : ready0 (formCtl .absent .absent .absent immOnly) (jsetOk 12) = true ∧ g0.sp ≠ g0.stackCap ∧ fullStack.sp = fullStack.stackCap := by decide
theorem wit_Jmpv : ready0 (formV 9) = true ∧ targetsOf p0.mask (fun i => g0.vreg 9 i) = 0 :: [] ∧ (g0.vreg 9 31).toNat % 4 = 0 ∧ g0.sp ≤ g0.stackCap := by decide
theorem wit_Jmpv_four : (((fourTargets 2).group? 0).map fun g => (targetsOf p0.mask (fun i => g.vreg 9 i), decide (g.sp + 2 ≤ g.stackCap))) =
    some ([0x100, 0x140, 0x180, 0x1C0], true) ∧ (((fourTargets 1).group? 0).map fun g => decide (g.stackCap < g.sp + 2)) = some true := by decide
theorem wit_Jmpv_occupied : ({ twoPaths with stackCap := 3 } : Group).path true ≠ none ∧ ({ twoPaths with stackCap := 3 } : Group).sp + 3 ≤ 3 ∧
    fullStack.stackCap < fullStack.sp + 1 := by decide
theorem wit_Retv : (∀ i, i < 32 → (g0.putV 9 4).vreg 9 i ≠ 0) ∧ g0.vreg 9 0 = 0 ∧ p0.mask.getLsbD 0 = true ∧ ((g0.putV 9 6).vreg 9 0).toNat % 4 ≠ 0 := by decide
theorem wit_Nop : ready0 bareForm = true := by decide
theorem wit_Beat : (s0.ctx? 0).isSome = true ∧ p0.mask &&& ~~~g0.helper ≠ 0 ∧
    p0.mask &&& ~~~({ g0 with helper := BitVec.allOnes 32 } : Group).helper = 0 := by decide
/-- Context 0 with a trap handler at 0x100. -/
def handled : State := s0.withCtx fun c => { c with trapVec := 0x100 }
theorem wit_TrapDelivers : handled.group? g0.id = some g0 ∧ g0.path false = some p0 ∧ (handled.ctx? g0.ctx).map (fun c => c.trapVec) = some 0x100 ∧
    g0.trap.handler = false := by decide
theorem wit_UnhandledTrap : s0.group? g0.id = some g0 ∧ (s0.ctx? g0.ctx).map (fun c => (c.state, c.trapVec)) = some (.live, 0) ∧
    handler.trap.handler = true := by decide
theorem wit_Eret : handler.trap.handler = true ∧ handler.ret = some { mask := 7, join := none, sp := 0, other := none, at_ := 2400, own := p0 } ∧ handler.sp = 0 ∧
    handler.otherAsAtDelivery false = true ∧ ({ handler with stack := [joinEntry 0 1 none] } : Group).sp ≠ 0 ∧
    ({ handler with path1 := some p0 } : Group).otherAsAtDelivery false = false ∧ ((at_ handler).ctx? 0).map (fun c => c.state) = some .live := by decide
theorem wit_SystemRead : ready0 (formCtl (.ud 5 1) .absent .absent regOnly) = true ∧ (s0.ctx? g0.ctx).isSome = true := by decide
theorem wit_SystemWrite : ready0 (formCtl .absent (.us 6) .absent regOnly) = true ∧
    (match ((formCtl .absent (.us 6) .absent regOnly).operands g0 p0).toOption with | some r => r.a | none => .absent) = .g 6 ∧
    (handled.ctx? 0).map (fun c => (c.members, decide (c.vpsStamp.1 < handled.now), decide (c.tgtStamp.1 < handled.now))) = some ([], true, true) := by decide

/-! ## Memory, scratchpad and barriers -/

/-- Address register 2 on bytes 0x1000 to 0x10FF of the mapped page. -/
def ar2 : AddrReg :=
  { base := 0x1000, extent := 0x100, limit := 0x100, frame := 0x61000, leaf := ⟨true, true, true, true, 0⟩, valid := true }
def gA : Group := { g0 with areg := [AddrReg.reset, AddrReg.reset, ar2] ++ List.replicate 5 AddrReg.reset, path0 := some { p0 with mask := 0x80 } }
def pA : Path := { p0 with mask := 0x80 }
/-- Group 0 in a block with 4 KiB of scratchpad. -/
def scr (g : Group) (bytes : Memory) : State :=
  let s := at_ g
  { s with
    launches := s.launches.map fun l => { l with lpb := { l.lpb with scratch := 4096 } }
    blocks := s.blocks.map fun b => { b with scratchBytes := 4096, scratch := bytes, granules := [0] } }
/-- The group of a state whose only flight is answered. -/
def flightsAfter (i : Instr) (s : State) : Option (List (Nat × Nat × Nat)) :=
  match exec i s with
  | .next t => some (t.flights.map fun f => (f.size, (f.accs.map fun a => a.va).headD 0, (f.accs.map fun a => a.key).headD 0))
  | _ => none

theorem test_addr : (match exec (.addr ⟨2, 10, 12⟩) (at_ ((g0.putG 10 0x1000).putG 12 0x100)) with
    | .next t => (t.group? 0).map fun (g : Group) => g.addr 2
    | _ => none) = some ar2 := by decide
theorem test_aqry : gAfter (.aqry ⟨5, 2⟩) (at_ gA) 5 = some 0x100 := by decide
theorem test_ld : flightsAfter (.ld ⟨false, 1, 3, 2, 4⟩) (at_ { gA with v := [(103, 8)] }) = some [(4, 0x1008, 0x61008)] := by decide
theorem test_uld : flightsAfter (.uld ⟨1, 2, 4, 2⟩) (at_ gA) = some [(4, 0x1008, 0x61008)] := by decide
theorem test_st : flightsAfter (.st ⟨false, 1, 3, 2, 0⟩) (at_ { gA with v := [(103, 8)] }) = some [(1, 0x1008, 0x61008)] := by decide
theorem test_ust : flightsAfter (.ust ⟨1, 2, 4, 2⟩) (at_ gA) = some [(4, 0x1008, 0x61008)] := by decide
theorem test_atom : flightsAfter (.atom ⟨false, 1, 3, 2, 0⟩) (at_ gA) = some [(4, 0x1000, 0x61000)] := by decide
theorem test_uatom : flightsAfter (.uatom ⟨1, 2, 0, 1⟩) (at_ gA) = some [(4, 0x1004, 0x61004)] := by decide
theorem test_red : flightsAfter (.red ⟨false, 1, 3, 2, 11⟩) (at_ gA) = some [(8, 0x1000, 0x61000)] := by decide
theorem test_ld_misaligned : trapAfter (.ld ⟨false, 1, 3, 2, 4⟩) (at_ { gA with v := [(103, 2)] }) = some 0x0A := by decide
/-- Past LIMIT the access is translated afresh (R212). -/
theorem test_ld_past_limit : flightsAfter (.ld ⟨false, 1, 3, 2, 4⟩) (at_ { gA with v := [(103, 0x100)] }) = some [(4, 0x1100, 0x61100)] := by decide
/-- A load, then its home's answer, then its arrival at the lanes. -/
def loadOf (mf : BitVec 4) (mem : Memory) : Option Word :=
  match exec (.ld ⟨false, 1, 3, 2, mf⟩) { at_ gA with mem := bootTables.foldl (fun m e => m.setBytes e.1 (leBytes 8 e.2)) mem } with
  | .next t =>
    match t.flights with
    | [f] =>
      match exec (.homeLoadRequest f.id (0x61000 / 128)) t with
      | .next u => vAfter (.memoryResponse f.id) u 1 7
      | _ => none
    | _ => none
  | _ => none
theorem test_memoryResponse : loadOf 4 [(0x61000, 0x78), (0x61001, 0x56), (0x61002, 0x34), (0x61003, 0x92)] = some 0x92345678 ∧
    loadOf 3 [(0x61000, 0x78), (0x61001, 0x96)] = some 0xFFFF9678 := by decide
theorem test_fence : pcAfter (.fence ⟨0, 2⟩) s0 = some 4 := by decide
theorem test_fence_acquire : pcAfter (.fence ⟨2, 2⟩) s0 = some 4 := by decide
theorem test_fence_denied : trapAfter (.fence ⟨0, 6⟩) s0 = some 0x0B := by decide
theorem test_lds : vAfter (.lds ⟨false, 1, 3, 4⟩) (scr { gA with v := [(103, 8)] } [(8, 0x11), (9, 0x22)]) 1 7 = some 0x2211 := by decide
theorem test_ulds : gAfter (.ulds ⟨1, 3, 4, 2⟩) (scr gA [(8, 0x11), (11, 0x80)]) 1 = some 0x80000011 := by decide
/-- The scratchpad of block 0 after a word. -/
def scratchAfter (i : Instr) (s : State) : Option Memory :=
  match exec i s with
  | .next t => (t.block? 0).map fun b => b.scratch
  | _ => none
theorem test_sts : scratchAfter (.sts ⟨false, 1, 3, 4⟩) (scr { gA with v := [(39, 0x04030201), (103, 8)] } []) =
    some [(8, 1), (9, 2), (10, 3), (11, 4)] := by decide
theorem test_usts : scratchAfter (.usts ⟨1, 3, 2, 1⟩) (scr (gA.putG 1 0xABCD) []) = some [(2, 0xCD), (3, 0xAB)] := by decide
theorem test_lds_bounds : trapAfter (.lds ⟨false, 1, 3, 4⟩) (scr { gA with v := [(103, 4096)] } []) = some 0x05 := by decide
theorem test_twset : (match exec (.twset ⟨1, 20⟩) (scr (((g0.putG 20 16).putG 21 2).putG 22 1) []) with
    | .next t => (t.group? 0).map fun (g : Group) => ((g.window 1).valid, (g.window 1).addr.toNat, (g.window 1).rate.toNat, (g.window 1).count.toNat)
    | _ => none) = some (true, 16, 2, 1) := by decide

/-- Block 0 with a barrier word at 0: EXPECT 2, ARRIVED and PHASE as given; g10 is its address, g11 is 1. -/
def barrierGroup : Group := { g0 with g := [(10, 0), (11, 1)] }
def barrierState (arrived phase : Nat) : State := scr barrierGroup (Memory.setBytes [] 0 (leBytes 8 (2 + arrived * 2 ^ 16 + phase * 2 ^ 32)))
def barrierAfter (i : Instr) (s : State) : Option Nat := (scratchAfter i s).map fun m => leNat (m.bytes 0 8)
theorem test_bara : barrierAfter (.bara ⟨10, 11⟩) (barrierState 0 0) = some (2 + 2 ^ 16) := by decide
theorem test_bars : barrierAfter (.bars ⟨10, 11⟩) (barrierState 1 0) = some (2 + 2 ^ 32) ∧ pcAfter (.bars ⟨10, 11⟩) (barrierState 1 0) = some 4 := by decide
theorem test_barw : pcAfter (.barw ⟨10, 11⟩) (barrierState 0 0) = some 4 ∧
    ((pathAfter (.barw ⟨10, 11⟩) (barrierState 0 1)).map fun p => p.wait) = some (.barrier 0 0 true false) := by decide
theorem test_bara_malformed : trapAfter (.bara ⟨10, 11⟩) (scr barrierGroup []) = some 0x14 := by decide
theorem test_trw : vAfter (.trw ⟨false, 1, 3, 0⟩) (scr gA []) 1 7 = some 0 ∧ trapAfter (.trw ⟨false, 1, 3, 0⟩) (scr gA []) = some 0x0F := by decide

/-! ## Queues, banks, tuples and engines -/

theorem test_qbind : (match exec (.qbind ⟨1, 20, 21⟩) (withFifo (at_ (g0.putG 21 3)) (fifo0 [])) with
    | .next t => (t.group? 0).map fun (g : Group) => g.queue 1
    | _ => none) = some (some ⟨0, 3⟩) := by decide
theorem test_qstat : gAfter (.qstat ⟨5, 1⟩) (withFifo (at_ (bound1 3)) (fifo0 [row1 7])) 5 =
    some (3 + 8 + 2 ^ 17 * BitVec.ofNat 32 ((fifo0 [row1 7]).room)) := by decide
theorem test_bankcfg : gAfter (.bankcfg ⟨5, 20, 21⟩) ((withFifo (at_ ((g0.putG 20 1).putG 21 1)) (fifo0 []))) 5 = some 0 := by decide
theorem test_bankcfg_priv : trapAfter (.bankcfg ⟨5, 20, 21⟩) s0 = some 0x11 := by decide
/-- Function 0 with a region of 64 KiB at 0x10000, named by address register 2. -/
def regionState (g : Group) : State :=
  let s := at_ { g with areg := [AddrReg.reset, AddrReg.reset, { ar2 with base := 0x10000 }] ++ List.replicate 5 AddrReg.reset }
  { s with vfs := s.vfs.map fun x => (x.1, { x.2 with regions := [(0x10000, 0x10000)] }),
           mem := (s.mem.setBytes 0x51008 (leBytes 8 0x0000000001000BF)) }
theorem test_tscpy_class : gAfter (.tscpy ⟨4, 20, false, 0, 0⟩) s0 4 = some 5 := by decide
theorem test_tstak_format : trapAfter (.tstak ⟨4, 20, false, 0, 0⟩) (at_ (g0.putG 21 0x100)) = some 0x0F := by decide
theorem test_tsdep_class : gAfter (.tsdep ⟨4, 20, 0, 0⟩) s0 4 = some 5 := by decide
theorem test_mma_queue : trapAfter (.mma ⟨0, 20, 0, 1, false⟩) s0 = some 0x10 := by decide
theorem test_mopf : pcAfter .mopf s0 = some 4 := by decide
theorem test_mwait : pcAfter (.mwait 0) s0 = some 4 := by decide
/-- MFAC of one 1×1 matrix at 0 with status at 8. -/
def factorGroup : Group := { g0 with g := [(21, 1), (22, 1), (25, 8)] }
def commandsAfter (i : Instr) (s : State) : Option (Nat × Nat) :=
  match exec i s with
  | .next t => (t.cluster? 0).map fun c => (c.factor.length, c.copies.length)
  | _ => none
theorem test_mfac : commandsAfter (.mfac 20) (scr factorGroup []) = some (1, 0) := by decide
theorem test_mtrs : trapAfter (.mtrs 20) (scr factorGroup []) = some 0x0F ∧
    commandsAfter (.mtrs 20) (scr { factorGroup with g := [(20, 0x100), (21, 1), (22, 1), (24, 16), (25, 8)] } []) = some (1, 0) := by decide
/-- CPY of one row of 16 bytes from scratchpad 0 to scratchpad 32. -/
def copyGroup : Group := { g0 with g := [(20, 5), (22, 32), (23, 16), (24, 1)] }
theorem test_cpy : commandsAfter (.cpy 20) (scr copyGroup []) = some (0, 1) := by decide
theorem test_cpy_format : trapAfter (.cpy 20) s0 = some 0x0F := by decide
theorem test_cbatch : gAfter (.cbatch 5) s0 5 = some 1 := by decide
theorem test_cwait : pcAfter (.cwait 5) s0 = some 4 := by decide
/-- VTENC of one block at rate 2 from and to the span of address register 2. -/
def castGroup : Group := { gA with g := [(20, 2 + 16 * 2 + 128 * 2), (21, 1), (23, 1024), (24, 2048)] }
theorem test_vtenc : (match exec (.vtenc 20) (at_ castGroup) with | .next t => (t.castQueues.get? 0).map fun q => q.length | _ => none) = some 1 := by decide
theorem test_vtenc_format : trapAfter (.vtenc 20) s0 = some 0x0F := by decide
theorem test_dq8 : (v1Un .dq8 0).isSome = true := by decide
theorem test_qnt8 : (vAfter (.qnt8 ⟨false, 1, 2, 3⟩) s0 1 0).isSome = true := by decide

/-! ## Witnesses: memory -/

/-- The state after an instruction; the state itself where it does not go on. -/
def after (i : Instr) (s : State) : State :=
  match exec i s with
  | .next t => t
  | _ => s
/-- The state an outcome goes on to; the state given where it does not. -/
def nextOf (o : Host.Outcome State Fault Refusal) (s : State) : State :=
  match o with
  | .next t => t
  | _ => s
/-- What a memory word at s asks for meets `GoesOut`. -/
def mayGo (s : State) (g : Group) (p : Path) (ps : Prefixes) (w : MemWord) : Bool :=
  let ls := ((s.mature.dropReplays g.id false).reachLanes g w.kind.access w.ar w.size w.off (w.lanes p)).2
  decide ((memScope ps).toNat ≤ s.scopeMax g) && w.ar.valid &&
    (!(memOrder ps).getLsbD 1 || p.released || s.released g (memScope ps)) &&
    ls.all (fun l => match l.x with | .mem _ => true | _ => false) && !(liveLanes w g p ls).isEmpty
def goesOutWith (f : Form) (w : Operands → MemWord) : Bool :=
  match f.operands gA pA with
  | .ok r => mayGo (at_ gA) gA pA r.ps (w r)
  | .error _ => false
theorem wit_Memory_at : (at_ gA).At gA false pA := rfl
theorem wit_Loads : goesOutWith (formVM (.vd 1 1) false 3) (fun r => ldWord ⟨false, 1, 3, 2, 4⟩ r gA pA) = true ∧
    goesOutWith (formVM (.vd 1 1) false 3) (fun r => atomWord ⟨false, 1, 3, 2, 0⟩ r gA pA) = true ∧
    goesOutWith (formUM 1 1) (fun r => uldWord ⟨1, 2, 4, 2⟩ r gA) = true ∧
    goesOutWith (formUM 1 1) (fun r => uatomWord ⟨1, 2, 0, 1⟩ r gA) = true := by decide
theorem wit_Loads_release : (memOrder ⟨none, none, some ⟨2, 0, 2, 0⟩⟩).getLsbD 1 = true ∧ (at_ gA).released gA 2 = true := by decide
theorem wit_Stores : goesOutWith (formVM (.vd 1 1) false 3) (fun r => stWord ⟨false, 1, 3, 2, 4⟩ r gA) = true ∧
    goesOutWith (formVM (.gx 1 1) true 3) (fun r => stWord ⟨true, 1, 3, 2, 4⟩ r gA) = true ∧
    goesOutWith (formUM 1 1) (fun r => ustWord ⟨1, 2, 4, 2⟩ r gA) = true ∧
    goesOutWith (formVM (.vd 1 1) false 3) (fun r => redWord ⟨false, 1, 3, 2, 0⟩ r gA) = true ∧
    (redWord ⟨false, 1, 3, 2, 0⟩ ⟨.v 1, .v 3, .absent, Prefixes.none, none, false⟩ gA).isLocal (at_ gA) gA ⟨none, none, some ⟨5, 0, 0, 0⟩⟩ = false := by decide
theorem wit_MemoryTraps : (at_ gA).scopeMax gA < (memScope ⟨none, none, some ⟨6, 0, 0, 0⟩⟩).toNat ∧ (gA.addr 0).valid = false ∧
    (laneTrap (((at_ gA).mature.dropReplays 0 false).reachLanes gA .load ar2 4 (fun _ => 2) [7]).2).isSome = true := by decide
/-- A load that its home has answered, and its flight. -/
def answered : State := after (.homeLoadRequest 1 (0x61000 / 128)) (after (.ld ⟨false, 1, 3, 2, 4⟩) (at_ gA))
theorem wit_LoadResponse : (answered.flight? 1).map (fun f => (f.kind == .load, f.accs.all (fun a => a.done && a.psn.isNone), f.pageLanes, f.fetchLanes,
    ((answered.raiseFor f).group? f.grp).isSome)) = some (true, true, 0, 0, true) := by decide
theorem wit_LoadResponse_runs : (31 : Nat) < 32 ∧ g0.accRuns = [] := by decide
/-- A store on its way, accepted at its home, and visible. -/
def storing : State := after (.st ⟨false, 1, 3, 2, 0⟩) (at_ { gA with v := [(39, 0x5A)] })
def accepted : State := after (.homeWriteArrival 1 (0x61000 / 128)) storing
theorem wit_StoreArrives : (storing.flight? 1).map (fun f => (f.kind == .store, storing.canWrite f (0x61000 / 128), f.accs.all fun a => a.tile.isNone)) =
    some (true, true, true) := by decide
theorem wit_StoreVisible : (match accepted.pending with | [w] => w.gwct ≤ accepted.now | _ => false) = true ∧
    (match ({ accepted with ticks := 0 } : State).pending with | [w] => decide (({ accepted with ticks := 0 } : State).now < w.gwct) | _ => false) = true := by decide
theorem test_writeVisible : (match accepted.pending with | [w] => (after (.writeVisible w.id) accepted).mem.byte 0x61000 | _ => 0) = 0x5A := by decide
theorem wit_HomeLoad : let s := after (.ld ⟨false, 1, 3, 2, 4⟩) (at_ gA)
    (s.flight? 1).map (fun f => (s.canLoad f (0x61000 / 128), f.accs.all fun a => a.tile.isNone)) = some (true, true) := by decide
/-- An atomic and a reduction of block scope that wait for their line in the cluster cache. -/
def localWord (i : Instr) : State := after i (at_ (gA.withPath fun p => { p with pfx := [.mem ⟨1, 0, 0, 0⟩] }))
theorem wit_OwnedLine : let s := (localWord (.atom ⟨false, 1, 3, 2, 0⟩)).mature
    (match s.waitingOn 0 (0x61000 / 128) .atom with
      | f :: _ => !s.holds f (0x61000 / 128) && decide (s.gwctOf (0x61000 / 128) ≤ s.now) && s.hasCache 0
      | [] => false) = true := by decide
theorem wit_UpdateOnly : let s := (localWord (.red ⟨false, 1, 3, 2, 0⟩)).mature
    (match s.waitingOn 0 (0x61000 / 128) .red with
      | f :: _ => !s.holds f (0x61000 / 128) && decide (s.gwctOf (0x61000 / 128) ≤ s.now) && s.hasCache 0
      | [] => false) = true := by decide
theorem wit_WriteAck : (accepted.flight? 1).map (fun f => (f.finished, f.kind == .store, f.blocking,
    (accepted.group? f.grp).map fun g => g.horizons.length)) = some (true, true, false, some 8) := by decide
/-- A group whose writes at scope 2 are visible at 200 ns only. -/
def fencing : Group := { g0 with horizons := List.replicate 8 200 }
theorem wit_Fence : ready0 bareForm = true ∧ s0.released g0 2 = true ∧ (at_ fencing).released fencing 2 = false ∧ s0.scopeMax g0 < 6 ∧
    (5 : Nat) ≤ s0.scopeMax g0 := by decide
theorem wit_FenceRelease : ({ p0 with wait := .fence 2 } : Path).wait = .fence 2 ∧ s0.settled g0 2 0 = true ∧ g0.lost = none ∧
    (at_ fencing).settled fencing 2 0 = false := by decide

/-! ## Witnesses: scratchpad and barriers -/

/-- A scratchpad word's operands resolve and its accesses are sound and free of poison. -/
def soundWith (s : State) (f : Form) (size : Nat) (x : Operands → Nat → Int) (lanes : List Nat) : Bool :=
  match f.operands gA pA ofsOnly with
  | .ok r =>
    let ls := s.scratchLanes gA size (x r) lanes
    (laneTrap ls).isNone && (s.absentMember gA ls).isNone && ls.all fun l => (s.scratchPoison gA l.va size).isNone
  | .error _ => false
theorem wit_ScratchWords : soundWith (scr gA []) (formVM (.vd 1 1) false 3) 4 (fun r => scratchX r gA) (scratchLanesOf false pA) = true ∧
    soundWith (scr gA []) (formVM (.vd 1 1) true 3) 4 (fun r => scratchX r gA) (scratchLanesOf true pA) = true ∧
    soundWith (scr gA []) (formUS 1 1 3) 4 (fun r _ => uniX ⟨1, 3, 4, 2⟩ 4 r gA) [0] = true ∧ pA.lanes ≠ 0 ∧ pA.wait = .ready := by decide
theorem wit_ScratchPoison : let s := scr gA []
    let t : State := { s with blocks := s.blocks.map fun b => { b with psn := [(0, 0)] } }
    t.scratchPoison gA 8 4 = some 8 := by decide
theorem wit_ScratchStored : let s := scr gA []
    gA.helper = 0 ∧ ((s.memberBlock gA 0).map fun b => (b.id, b.claims.length)) = some (0, 0) := by decide
theorem wit_ScratchFault : let s := scr gA []
    s.scratchFault gA (-1) 4 4 = some (rankAddress, .scratchBounds) ∧ s.scratchFault gA (2 ^ 28) 4 4 = some (rankAddress, .scratchBounds) ∧
    s.gangSize gA ≤ memberOf (2 ^ 24) ∧ s.scratchSize gA < offsetOf 4093 + 4 ∧
    s.scratchFault gA 4092 4 4 = none ∧ s.scratchFault gA 4090 4 4 = some (rankMisaligned, .misaligned) := by decide
/-- Registers of TWSET: one block of rate 2 at 16. -/
def windowGroup : Group := { g0 with g := [(20, 16), (21, 2), (22, 1)] }
theorem wit_Twset : readyAt s0 windowGroup p0 (formCtl .absent (.ud 20 4) .absent regOnly) = true ∧ windowGroup.wreg.length = 4 ∧
    (scr windowGroup []).scratchFault windowGroup 16 (castBytes 2) 4 = none ∧ (g0.greg 21).toNat < 2 ∧ 4 < ((g0.putG 21 5).greg 21).toNat ∧
    (2 : Nat) ^ 24 < ((g0.putG 22 0x01000001).greg 22).toNat := by decide
/-- A group with window 0 set, at lane 7. -/
def windowed : Group := { gA with wreg := [⟨16, 2, 1, true⟩, WinReg.reset, WinReg.reset, WinReg.reset] }
theorem wit_Trw : ready0 (formTrw ⟨false, 1, 3, 0⟩) = true ∧ (g0.window 0).valid = false ∧ (windowed.window 0).valid = true ∧
    (((scr windowed []).memberBlock windowed (memberOf 16)).isSome) = true ∧ (0 : Nat) < 256 * (windowed.window 0).count.toNat ∧
    (scr windowed []).runPoison windowed (windowed.window 0) 255 = none := by decide
theorem wit_Barriers : let s := barrierState 0 0
    let t := barrierState 1 0
    (s.barrierAt barrierGroup p0 0).toOption.isSome = true ∧ s.released barrierGroup 2 = true ∧ barArrived (2 + 2 ^ 16) + 1 = barExpect (2 + 2 ^ 16) ∧
    barArrived 2 + 1 ≠ barExpect 2 ∧ barExpect (2 + 2 ^ 16) < barArrived (2 + 2 ^ 16) + 2 ∧ barMalformed 2 = false ∧ barMalformed 0 = true ∧
    (t.block? 0).map (fun b => (leNat (b.scratch.bytes 0 8), b.claims.length, (firstPoison b.psn 0 8).isNone)) = some (2 + 2 ^ 16, 0, true) ∧
    (s.cluster? barrierGroup.cluster).isSome = true ∧ barPhase 2 ≠ (barrierGroup.greg 11).getLsbD 0 ∧
    barPhase (2 + 2 ^ 32) = (barrierGroup.greg 11).getLsbD 0 := by decide
/-- A path that polls for a change of phase 0. -/
def poller (ready : Nat) : Group := { barrierGroup with path0 := some { p0 with wait := .barrier 0 0 false true, readyAt := ready } }
theorem wit_Polling : let s := scr (poller 0) (Memory.setBytes [] 0 (leBytes 8 (2 + 2 ^ 32)))
    s.group? 0 = some (poller 0) ∧ 0 + 64 * s.cycle 0 ≤ s.ticks ∧ s.ticks < 2400 + 64 * s.cycle 0 ∧
    (s.block? 0).map (fun b => barPhase (leNat (b.scratch.bytes 0 8))) = some true ∧
    ((barrierState 0 0).block? 0).map (fun b => barPhase (leNat (b.scratch.bytes 0 8))) = some false := by decide
theorem test_barrierPoll : ((pathAfter (.barrierPoll 0 false) (scr (poller 0) (Memory.setBytes [] 0 (leBytes 8 (2 + 2 ^ 32))))).map fun p => p.pc) = some 4 := by decide

/-! ## Witnesses: address registers, queues, banks and tuples -/

theorem wit_Addr : readyAt s0 (g0.putG 12 0x100) p0 (formCtl .absent (.ud 10 2) (.us 12) regOnly) = true ∧ g0.areg.length = 8 ∧
    (s0.frameOf 0 0 0x1000 0x100).2.1 = 0x100 ∧ s0.shootdowns = [] ∧ canonical (2 ^ 56) = false ∧ ready0 (formCtl (.ud 5 1) .absent .absent regOnly) = true := by decide
theorem wit_Qbind : let s := withFifo (at_ (bound1 3)) (fifo0 [])
    ready0 (formCtl .absent (.us 20) (.us 21) regOnly) = true ∧ (s.cluster? 0).isSome = true ∧ g0.qreg.length = 8 ∧
    (bindMode 0).role = 0 ∧ (bindMode 3).role ≠ 0 ∧ ((s.cluster? 0).map fun c => bindRefused c 0 0 (bindMode 3)) = some false ∧
    ((s.cluster? 0).map fun c => bindRefused c 0 2 (bindMode 3)) = some true ∧ (512 : Nat) ≤ (512 : Word).toNat ∧ s.fifoOf g0 1 = none := by decide
theorem wit_Bankcfg : let s := withFifo s0 (fifo0 [])
    ready0 (formCtl (.ud 5 1) (.us 20) (.us 21) regOnly) = true ∧
    ((s.cluster? 0).map fun c => (c.banks.map fun b => b.owner).take 3) = some [some 0, some 0, none] ∧
    ((s.cluster? 0).bind fun c => (c.banks[1]?).map fun b => (b.mode == .fifo, b.leaving, c.bankBusy 1 b)) = some (true, false, 0) ∧
    ((s.cluster? 0).bind fun c => (c.banks[0]?).map fun b => decide (c.bankBusy 0 b ≠ 0)) = some true := by decide
theorem wit_Bankcfg_leaving : (({ Bank.reset with owner := some 0, leaving := true } : Bank).leaving = true) ∧ bankModeOf 1 ≠ .cache := by decide
theorem wit_BankcfgDone : ({ p0 with wait := .bankcfg 1 1 5 } : Path).wait = .bankcfg 1 1 5 ∧ s0.partialsAway 0 = false := by decide
theorem wit_BankcfgDone_away : ∀ leaf,
    (s0.sendPartial 0 { line := 0, kind := .updateOnly, bank := 1, used := 0, ctx := 0, psn := (false, false), partials := [], away := none }
      { ctx := 0, vf := 0, page := 0, size := 65536, key := 0, part := 0, leaf := leaf, res := 0, wp := false, rp := false, leafKey := 0 } 0
      { off := 0, width := 4, code := 0, data := 1 }).partialsAway 0 = true := fun _ => rfl
theorem wit_BankAllocate : s0.station.mode = .running ∧ ((withFifo s0 (fifo0 [])).cluster? 0).isSome = true ∧ (s0.ctx? 0).isSome = true := by decide
/-- Function 0 with a region of 64 KiB at 0x10000, named by address register 2; g20 to g23 describe an empty tuple. -/
def tupleGroup : Group := { g0 with areg := [AddrReg.reset, AddrReg.reset, { ar2 with base := 0x10000 }] ++ List.replicate 5 AddrReg.reset }
def tupleState (g : Group) : State :=
  { at_ g with
    vfs := [(0, { Vf.reset [0] false with windows := [(0, 2 ^ 20)], regions := [(0x10000, 0x10000)] })]
    mem := s0.mem.setBytes 0x51008 (leBytes 8 0x100AF) }
theorem wit_TupleWords : let s := tupleState tupleGroup
    ready0 (formCtl (.ud 4 (resultRegs .dep 0)) (.ud 20 (descRegs .dep 0)) .absent regOnly) = true ∧
    ready0 (formCtl (.ud 4 (resultRegs .cpy 0)) (.ud 20 (descRegs .cpy 0)) .absent regOnly) = true ∧
    modeOk .cpy 0 0 = true ∧ modeOk .cpy 0 0x100 = false ∧ 5 ≤ s.scopeMax tupleGroup ∧ p0.lanes &&& ~~~tupleGroup.helper ≠ 0 ∧
    s.region? tupleGroup (tupleGroup.addr 2) = some (0x10000, 0x10000) ∧ s.region? tupleGroup (tupleGroup.addr 1) = none ∧
    (s.mature.translate 0 false .tuple 0x10000).2 = .tuple ∧ s.released tupleGroup 5 = true := by decide
theorem wit_TupleWords_helpers : p0.lanes &&& ~~~({ g0 with helper := BitVec.allOnes 32 } : Group).helper = 0 ∧
    ({ s0 with vfs := [(0, { Vf.reset [0] false with scopeMax := 4 })] } : State).scopeMax g0 < 5 := by decide
/-- A deposit of tag 7, at its home, and a take of it. -/
def depositing : State := after (.tsdep ⟨4, 20, 0, 2⟩) (tupleState (tupleGroup.putG 20 7))
def deposited : State := after (.tupleDepositAtHome 1) depositing
def taking : State := after (.tstak ⟨4, 20, false, 0, 2⟩) { deposited with groups := [tupleGroup.putG 20 7], tupleReqs := [] }
theorem wit_TupleRegion : s0.station.mode = .running ∧ (s0.vf? 0).isSome = true ∧ 0x10000 % 65536 = 0 := by decide
theorem wit_TupleDeposit : (match depositing.tupleReqs with
    | [r] => r.stage == .travelling && r.kind == .dep && (depositing.parkedAt r).isEmpty && decide ((depositing.storedAt r).length < depositing.share r)
    | _ => false) = true := by decide
theorem wit_TupleTake : (match taking.tupleReqs with
    | [r] => r.stage == .travelling && r.kind == .tak &&
      ((leastBy (fun (t : Tuple) => t.seq) ((taking.storedAt r).filter fun t => r.accepts t.tag t.fields)).isSome)
    | _ => false) = true ∧
    (match ({ taking with tuples := [] } : State).tupleReqs with
    | [r] => !r.wait && ({ taking with tuples := [] } : State).storedAt r == []
    | _ => false) = true := by decide
def taken : State := match taking.tupleReqs with | [r] => after (.tupleTakeAtHome r.id) taking | _ => taking
theorem wit_TupleResult : (match taken.tupleReqs with
    | [r] => (match r.stage with | .result 0 7 [] false => ((taken.group? r.grp).bind fun g => g.path r.slot).isSome | _ => false)
    | _ => false) = true ∧ taken.tuples = [] := by decide
theorem test_tupleResultDelivery : (match taken.tupleReqs with | [r] => gAfter (.tupleResultDelivery r.id) taken 5 | _ => none) = some 7 := by decide

/-! ## Witnesses: engines -/

/-- FIFOs of two contexts' banks for A and B, bound to q0 and q1, with a full K of 32 in cells. -/
def mmaGroup : Group :=
  { g0 with qreg := [some ⟨0, 2⟩, some ⟨1, 2⟩, none, none, none, none, none, none], g := [(21, 32)], path0 := some { p0 with mask := 0x01 } }
def mmaState (g : Group) : State :=
  (withFifo (scr g []) (fifo0 [])).modCluster 0 fun c =>
    { c with fifos := [{ fifo0 (List.replicate 32 (row1 0)) with bound := [(0, 0)] },
                       { fifo0 (List.replicate 16 (row1 0)) with first := 1, bound := [(0, 1)] }] }
def mmaWord : LaneMma := ⟨0, 20, 0, 1, true⟩
theorem wit_Mma : let s := mmaState mmaGroup
    ready0 (formMma mmaWord) = true ∧ s.streamOf mmaGroup 0 = some 0 ∧ s.streamOf mmaGroup 1 = some 1 ∧ s.streamOf mmaGroup 2 = none ∧
    (fmtRec 0 32).ok (s.gregsNow mmaGroup 20 8) (mmaGroup.window 0) = true ∧ (fmtRec 0 0).ok (s.gregsNow g0 20 8) (g0.window 0) = false ∧
    (quartersOf 1).length ≤ s.entriesFree 0 := by decide
theorem wit_Mma_scratch : s0.badRun mmaGroup [(0, 64)] = some 0 ∧ (mmaState mmaGroup).badRun mmaGroup [(0, 64)] = none := by decide
/-- The operation posted, and a table with no entry left. -/
def posted : State := after (.mma mmaWord) (mmaState mmaGroup)
def fullTable : State := posted.modCluster 0 fun c => { c with sets := (c.sets.map fun x => List.replicate 64 x).flatten }
theorem wit_Mma_full : fullTable.entriesFree 0 < (quartersOf 1).length := by decide
theorem test_mma : (posted.cluster? 0).map (fun c => c.sets.map fun x => (x.quarters, x.desc.k)) = some [([0], 32)] := by decide
theorem wit_Mopf : ready0 bareForm = true ∧ s0.writesPending g0 = false := by decide
theorem wit_Mopf_pending : let s := after (.ld ⟨false, 1, 3, 2, 4⟩) (at_ gA)
    (s.group? 0).map (fun g => s.writesPending g) = some true := by decide
theorem wit_Mwait : (0 : Nat) < ({ g0 with outstanding := 1 } : Group).outstanding ∧ ({ g0 with psnOps := 1 } : Group).psnOps ≠ 0 ∧ g0.outstanding ≤ 0 ∧
    g0.psnOps = 0 ∧ (∀ a ∈ ({ g0 with accRuns := [⟨0, 0, 3, true⟩] } : Group).accRuns, a.done = true ∧ a.quarter < 4) ∧ g0.accHit = [] := by decide
theorem wit_Factor : let s := scr factorGroup []
    ready0 (formCtl .absent (.ud 20 8) .absent regOnly) = true ∧ (facDesc false (s.gregsNow factorGroup 20 8)).ok 0 = true ∧
    (facDesc false (s.gregsNow g0 20 8)).ok 0 = false ∧ s.badArray factorGroup (facDesc false (s.gregsNow factorGroup 20 8)) = none ∧
    (s0.badArray factorGroup (facDesc false (s.gregsNow factorGroup 20 8))).isSome = true ∧ s.entriesFree 0 ≠ 0 ∧ fullTable.entriesFree 0 = 0 := by decide
/-- Time passed. -/
def later (n : Nat) (s : State) : State := { s with ticks := s.ticks + n }
/-- A command posted, started, and its matrix due. -/
def factoring : State := after (.factorCommandStart 0) (later 48 (after (.mfac 20) (scr factorGroup [])))
theorem wit_FactorEvents : let s := after (.mfac 20) (scr factorGroup [])
    ((s.cluster? 0).bind fun c => (s.factorHead c).map fun k => (k.started, decide (k.cycle < (later 48 s).cycleNo 0), decide (s.cycleNo 0 ≤ k.cycle))) =
      some (false, true, true) ∧
    ((factoring.cluster? 0).bind fun c => (factoring.factorHead c).map fun k => (k.started, decide (factoring.ticks < k.due),
      decide (k.due ≤ factoring.ticks + 100000))) = some (true, true, true) := by decide
theorem wit_FixedPoint : (30 : Nat) < 31 ∧ (-7 : Int) ≠ 0 ∧ (-1 : Int) < 0 := by decide
theorem test_fixed_point : rdiv (-7) 2 = -4 ∧ isqrt 2 = 1 ∧ isqrt 3 = 2 ∧ qmulWord 30 0x80000000 0x80000000 = 0x7FFFFFFF := by decide
/-- A sparse operation that only waits for its bitmap, a pass granted, and its time over. -/
def sparseGroup : Group := { mmaGroup with g := [(20, 0x01000000), (21, 32)] }
def granted : State := after (.passGrant 0) (later 48 posted)
theorem wit_Bitmap : let s := after (.mma mmaWord) (mmaState sparseGroup)
    (match (s.cluster? 0).map fun c => (c, c.sets) with
      | some (c, [x]) => x.desc.form.sparse && x.bitmap.isNone && s.readyButBitmap c x && (s.group? x.grp).isSome
      | _ => false) = true := by decide
theorem wit_FusionWait : (match (posted.cluster? 0).map fun c => c.sets with
    | some [x] => !x.waited && decide (x.cycle + 16 * x.desc.form.fwait ≤ posted.cycleNo 0) && !x.promoted &&
      decide (x.cycle + 4096 < (later 100000 posted).cycleNo 0)
    | _ => false) = true := by decide
theorem wit_PassGrant : (match (later 48 posted).cluster? 0 with
    | some c => (later 48 posted).mayGrant c && (later 48 posted).dutyOpen 0 && ((later 48 posted).anchor c).isSome && c.id == 0
    | none => false) = true := by decide
/-- The pass once its rows have come, and its time is over. -/
def fed : State := (later 100000 granted).modCluster 0 fun c =>
  { c with pass := c.pass.map fun q => { q with streams := q.streams.map fun t => { t with need := 0 } } }
theorem wit_PassComplete : (match fed.cluster? 0 with
    | some c => c.draining.isNone && (match c.pass with
      | some q => !(q.streams.any fun t => t.need != 0) && decide (fed.passEnd 0 q ≤ fed.ticks)
      | none => false)
    | none => false) = true := by decide
theorem wit_Cbatch : ready0 (formCtl (.ud 5 1) .absent .absent regOnly) = true ∧ ready0 (formCtl .absent (.us 5) .absent regOnly) = true := by decide
/-- A copy posted. -/
def copying : State := after (.cpy 20) (scr copyGroup [(0, 9)])
def closed : State := after (.cbatch 5) copying
theorem wit_Cwait : (closed.group? 0).map (fun g => (closed.copiesOut g (covers g.batchNext 1), g.batches.length)) = some (true, 0) ∧
    s0.copiesOut g0 (covers 1 0) = false ∧ g0.batches = [] := by decide
theorem wit_CwaitRelease : ({ p0 with wait := .cwait 0 } : Path).wait = .cwait 0 ∧ ({ p0 with wait := .cwaitTime 0 1 100 } : Path).wait = .cwaitTime 0 1 100 ∧
    (100 : Nat) ≤ s0.now ∧ s0.now < 101 := by decide
theorem wit_Cpy : let s := scr copyGroup []
    let d := copyDesc (copyGroup.gregs 20 8)
    ready0 (formCtl .absent (.ud 20 8) .absent regOnly) = true ∧ copyDescOk (copyGroup.gregs 20 8) = true ∧ copyDescOk (g0.gregs 20 8) = false ∧
    d.dk ≠ 2 ∧ (firstBad d (fun r => if d.sk = 1 then s.badScratch copyGroup (d.srcAt copyGroup r) d.rowb else none)
      (fun r => if d.dk = 1 then s.badScratch copyGroup (d.dstAt copyGroup r) d.rowb else none)) = none ∧
    (pieceFault (s.mature.xlatPieces copyGroup (d.pieces copyGroup)).2).isNone = true ∧
    (pageOf (s.mature.xlatPieces copyGroup (d.pieces copyGroup)).2).isNone = true ∧
    ((s.mature.xlatPieces copyGroup (d.pieces copyGroup)).2.filterMap Piece.fetchOf).length = 0 := by decide
theorem wit_Vtenc : let s := at_ castGroup
    let d := castDesc (castGroup.gregs 20 8)
    castDescOk (castGroup.gregs 20 8) = true ∧ castDescOk (g0.gregs 20 8) = false ∧ (castGroup.addr d.sar).valid = true ∧
    ((d.ranges castGroup).findSome? fun r => badGlobal r.2.1 r.2.2) = none ∧ ((d.ranges castGroup).find? fun r => r.2.1 % 4 ≠ 0) = none ∧
    (pieceFault (s.mature.xlatPieces castGroup (d.pieces castGroup)).2).isNone = true ∧
    (pageOf (s.mature.xlatPieces castGroup (d.pieces castGroup)).2).isNone = true ∧
    ((s.mature.xlatPieces castGroup (d.pieces castGroup)).2.filterMap Piece.fetchOf).length = 0 ∧
    (((castDesc ((castGroup.putG 22 2).gregs 20 8)).ranges castGroup).find? fun r => r.2.1 % 4 ≠ 0).isSome = true := by decide
theorem wit_CopyComplete : (match (copying.cluster? 0).map fun c => c.copies with
    | some [k] => copying.sourcesReady k && (copying.copyMiss k).isNone && (copying.group? k.grp).isSome &&
      (match copying.group? k.grp with
        | some g => (((copying.mature.renew k.ctx).runCopy 0 g k ((k.segs.map fun p => rowCut (p.len + 1) p).flatten)).2.segs).isEmpty
        | none => false)
    | _ => false) = true := by decide
theorem test_copyComplete : (match (copying.cluster? 0).map fun c => c.copies with
    | some [k] => (scratchAfter (.copyComplete 0 k.id) copying)
    | _ => none) = some [(0, 9), (32, 9)] := by decide
/-- A casting command queued: its block is not due yet. -/
def casting : State := after (.vtenc 20) (at_ castGroup)
theorem wit_CastBlock : (match casting.castQueues.get? 0 with
    | some [k] => k.due != 0 && decide (casting.ticks < k.due) && decide (k.count ≤ k.next + 1) && casting.sourcesReady (k.copy k.src) && (casting.copyMiss (k.copy k.src)).isNone &&
      (casting.group? k.grp).isSome
    | _ => false) = true := by decide

/-! ## Witnesses: ends, path events and joins -/

/-- The lanes that leave with a path of the booted state at an EXIT. -/
def leaves (g : Group) (p : Path) : Mask := g.leaving false p s0.ticks
/-- Two paths with a full stack of one poisoned entry, at which the second slot would be filled. -/
def poisonedStack : Group := { twoPaths with path0 := some { p0 with mask := 0xFF00 }, stack := [pathEntry 8 0xFF none], stackPsn := [(0, 0)] }
/-- One path with a full stack of one poisoned JOIN entry. -/
def poisonedJoin : Group := { g0 with stack := [joinEntry 8 0xFF none], stackPsn := [(0, 0)] }
theorem wit_Exit_lastPoison : poisonedJoin.lastExit (leaves poisonedJoin p0) = true ∧ poisonedJoin.outstanding = 0 ∧
    (at_ poisonedJoin).copiesOut poisonedJoin (fun _ => true) = false ∧ poisonedJoin.psnOps = 0 ∧ poisonedJoin.batches = [] ∧
    (at_ poisonedJoin).released poisonedJoin 5 = true ∧ poisonedJoin.exitPsn false (leaves poisonedJoin p0) s0.ticks = true ∧
    g0.exitPsn false (leaves g0 p0) s0.ticks = false := by decide
theorem wit_Exit : g0.lastExit (leaves g0 p0) = true ∧ twoPaths.lastExit (leaves twoPaths { p0 with mask := 0xFFFF }) = false ∧
    twoPaths.exitPsn false (leaves twoPaths { p0 with mask := 0xFFFF }) s0.ticks = false ∧
    poisonedStack.lastExit (leaves poisonedStack { p0 with mask := 0xFF00 }) = false ∧
    poisonedStack.exitPsn false (leaves poisonedStack { p0 with mask := 0xFF00 }) s0.ticks = true ∧
    p0.pfx.length ≤ 1 ∧ 2 ≤ ({ p0 with pfx := [.imm 0, .imm 0] } : Path).pfx.length ∧ g0.outstanding = 0 ∧
    ({ g0 with outstanding := 1 } : Group).outstanding ≠ 0 ∧ s0.copiesOut g0 (fun _ => true) = false ∧ g0.psnOps = 0 ∧ g0.batches = [] ∧
    s0.released g0 5 = true := by decide
theorem wit_Trig : p0.released = false ∧ (at_ { g0 with horizons := List.replicate 8 200 }).released { g0 with horizons := List.replicate 8 200 } 5 = false := by decide
theorem wit_PathEvents : ({ p0 with wait := .icache } : Path).wait = .icache ∧ p0.wait ≠ .icache ∧
    (withFifo (at_ (bound1 3)) (fifo0 [row1 7])).queueReady (bound1 3) (some 1) none = true ∧ p0.promoted = false ∧ p0.stopped = false ∧ g0.park = none ∧ p0.awaits = [] ∧
    p0.idleAt + 256 * s0.cycle 0 ≤ (later 3000 s0).ticks ∧ g0.stopping = false ∧ s0.mustFollow 0 false = false ∧
    ({ p0 with idleAt := 2400 } : Path).idleAt + 256 * s0.cycle 0 > s0.ticks ∧
    p0.busyUntil + 256 * s0.cycle 0 ≤ (later 3000 s0).ticks ∧ p0.chainAt + 256 * s0.cycle 0 ≤ (later 3000 s0).ticks ∧
    p0.readyAt + 256 * s0.cycle 0 ≤ (later 3000 s0).ticks ∧ p0.holdUntil + 256 * s0.cycle 0 ≤ (later 3000 s0).ticks ∧
    twoPaths.path true ≠ none ∧ (twoPaths.path true).map (fun o => (s0.inChain twoPaths o, decide (o.chainAt + 256 * s0.cycle 0 ≤ (later 3000 s0).ticks))) = some (false, true) ∧ s0.ticks < 2400 + 256 * s0.cycle 0 ∧ 0 < ({ p0 with holdUntil := 240 } : Path).holdUntil ∧
    ({ p0 with holdUntil := 240 } : Path).holdUntil ≤ s0.ticks := by decide
/-- Two paths of a split with a join at 8: one has arrived, or both are on their way. -/
def joinPaths (arrived : Mask) : Group :=
  { g0 with
    stack := [{ joinEntry 8 (BitVec.allOnes 32) none with arrived := arrived }]
    path0 := some { p0 with pc := 8, mask := 0xFFFF, join := some 0 }
    path1 := some { p0 with pc := 4, mask := 0xFF000000, join := some 0 } }
theorem wit_Joins : (0 : Mask) ||| 0xFFFF ≠ BitVec.allOnes 32 &&& ~~~(joinPaths 0).exited ∧
    (0xFFFF0000 : Mask) ||| 0xFFFF = BitVec.allOnes 32 &&& ~~~(joinPaths 0xFFFF0000).exited ∧ (joinPaths 0).path false ≠ none ∧
    (joinPaths 0).path true ≠ none ∧ (at_ (joinPaths 0)).inChain (joinPaths 0) p0 = false ∧ (joinPaths 0).entryPsn 0 = false ∧
    ({ joinPaths 0 with stackPsn := [(0, 0)] } : Group).entryPsn 0 = true ∧ (∀ x ∈ (joinPaths 0).stack, x.kind = .join ∧ x.pc = 8) ∧ 0 + 1 = (joinPaths 0).stack.length := by decide
theorem test_reachJoin : (match exec (.reachJoin 0 false) (at_ (joinPaths 0xFFFF0000)) with
    | .next t => (t.group? 0).map fun g => ((g.path false).map fun p => (p.pc, p.mask, p.join), g.stack.length)
    | _ => none) = some (some (8, 0xFFFFFFFF, none), 0) := by decide

/-! ## Witnesses: the host's commands and registers -/

theorem wit_HostSettings : Served s0 ∧ (s0.vf? 0).isSome = true ∧ (s0.part? 0).isSome = true ∧ (s0.ctx? 0).isSome = true ∧
    (List.replicate 16 (0 : BitVec 16)).length = 16 ∧ s0.fetches = [] :=
  ⟨rfl, by decide, by decide, by decide, by decide, rfl⟩
/-- A frame pool and windows inside function 0's window, with no live context. -/
def hostState : State := { s0 with vfs := [(0, { Vf.reset [0] false with windows := [(0, 2 ^ 20)] })], groups := [], contexts := [] }
theorem wit_FramePool : (hostState.vf? 0).map (fun v => v.windows[0]?) = some (some (0, 2 ^ 20)) ∧ 0x80000 + 8 * 2 ^ 16 ≤ 2 ^ 20 ∧ 0x80000 % 2 ^ 16 = 0 := by decide
theorem wit_BaseBound : (hostState.vf? 0).bind (fun v => v.parts.findIdx? fun q => q == 0) = some 0 ∧
    (∀ x ∈ hostState.contexts, x.2.vf = 0 → x.2.part = 0 → x.2.state.stopped = true) ∧
    (∃ x ∈ s0.contexts, x.2.vf = 0 ∧ x.2.part = 0 ∧ x.2.state = .live) ∧ 0x10000 % 65536 = 0 := by decide
theorem wit_RegisterWrites : ((s0.vf? 0).bind fun v => v.queues[0]?).isSome = true ∧ (s0.part? 0).isSome = true := by decide
theorem wit_RegisterWrites_record : (({ Part.reset { units := [], systemShare := 0, manifestArea := 0, allot := 0, floor := 0, dranovMask := 0, cxlMask := 0 } with
    fbRecords := [(0, ⟨0, 0, 0, 0, 0, 0, 0, 0, 0, 0, false, false, 0, true, 0⟩)] } : Part).fbRecords.get? 0).isSome = true := by decide

/-! ## Witnesses: pages, faults and translations -/

/-- Page 2 of the booted tables: a resident migratable page of frame 0x70000, or one that the host holds. -/
def pageState (pte : Nat) : State :=
  { s0 with
    vfs := [(0, { Vf.reset [0] false with windows := [(0, 2 ^ 20)], frames := [(0, 65536, 0x70000)] })]
    mem := s0.mem.setBytes 0x51010 (leBytes 8 pte) }
def resident : State := pageState 0x7006F
def away : State := pageState 0x30016F
theorem wit_SwapOut : resident.station.mode = .running ∧ (match resident.mature.walk 0 0x20000 false with
    | (s, .leaf e) => e.leaf.cls == 1 && e.res == 0 && (s.frameKeys e.vf e.part e.key e.size).length == e.size / 65536 &&
      (match s.frameKeys e.vf e.part e.key e.size with
        | k :: _ => s.pageQuiet e.vf e.page e.size k && !s.peerHeld k e.size
        | [] => false)
    | _ => false) = true := by decide
def swapping : State := after (.swapOut ⟨0, 0x20000, none, 0x400000⟩) resident
theorem wit_SwapCopy : (match swapping.swaps with
    | [w] => swapping.mature.mayReach w.remote && (swapping.mature.frameKeys w.vf w.part w.frame w.size).length == 1 && swapping.mature.mem.wf &&
      swapping.mature.pending.isEmpty && (swapping.mature.peerGap w.peerPage).isNone
    | _ => false) = true := by decide
/-- A load that fetches the page from the host. -/
def awayGroup : Group := { gA with areg := [AddrReg.reset, AddrReg.reset, { ar2 with base := 0x20000, limit := 0 }] ++ List.replicate 5 AddrReg.reset }
def fetching : State := after (.ld ⟨false, 1, 3, 2, 4⟩) { away with groups := [awayGroup], mem := away.mem.setBytes 0x51010 (leBytes 8 0x30116F) }
theorem wit_TileArrival : (match fetching.fetches with
    | [f] =>
      let s := fetching.mature
      match f.frame with
      | some fr => s.pageQuiet f.vf f.page f.size f.remote && (s.frameKeys f.vf f.part fr f.size).all (fun k => s.linesQuiet k 65536) && s.mayReach f.remote &&
        (s.frameKeys f.vf f.part fr f.size).length == f.size / 65536 && (s.swaps.all fun w => !w.isOf f.vf f.page) && (s.peerGap f.peerPage).isNone
      | none => false
    | _ => false) = true := by decide
theorem wit_TileArrival_parked : (match fetching.fetches with
    | [f] => (fetching.group? 0).map fun g => g.park == some (.fetch false 0x80 [f.id])
    | _ => none) = some true := by decide
theorem wit_FaultBuffer : (s0.part? 0).map (fun p => (p.fbHeld.length, decide ((BitVec.ofNat 32 0 - p.fbHead).toNat ≤ p.fbUsed),
    decide (p.fbUsed < (BitVec.ofNat 32 1 - p.fbHead).toNat))) = some (0, true, true) := by decide
/-- A load of a page that is not mapped: its group parks on the fault. -/
def faultGroup : Group := { gA with areg := [AddrReg.reset, AddrReg.reset, { ar2 with base := 0x40000, limit := 0 }] ++ List.replicate 5 AddrReg.reset }
def faulting : State :=
  (after (.ld ⟨false, 1, 3, 2, 4⟩) { s0 with groups := [faultGroup] }).withCtx fun c => { c with trapVec := 0x100 }
theorem wit_FaultReplies : (match (faulting.group? 0).bind fun g => g.park with
    | some (.page _ _ q _ _) => (faulting.parkedOn 0 q).isSome && (faulting.parkedOn 0 (q + 1)).isNone
    | _ => false) = true ∧ ((faulting.group? 0).bind fun g => (g.path false).map fun p => p.abort) = some false ∧ (faulting.ctx? 0).map (fun c => c.trapVec) = some 0x100 := by decide
theorem test_fbReplyAbort : (match (faulting.group? 0).bind fun g => g.park with
    | some (.page _ _ q _ _) => trapAfter (.fbReplyAbort 0 q) faulting
    | _ => none) = some 0x07 := by decide
def shooting : State := after (.shootdown 0 none 0 0x10000) s0
theorem wit_Shootdown : shooting.station.mode = .running ∧ (match shooting.shootdowns with
    | [d] => d.flights.isEmpty && d.copies.isEmpty && shooting.peerGrants.isEmpty
    | _ => false) = true := by decide
/-- A shootdown that a load was under way at. -/
def shootingLoad : State := after (.shootdown 0 none 0 0x10000) (after (.ld ⟨false, 1, 3, 2, 4⟩) (at_ gA))
theorem wit_Shootdown_waits : (match shootingLoad.shootdowns with
    | [d] => d.flights.any fun f => (shootingLoad.travellersOf fun _ => true).contains f
    | _ => false) = true := by decide
theorem wit_PeerTranslation : (match s0.mature.walk 0 0 false with
    | (s, .leaf e) => (match s.place e e.page with | .mem _ => e.leaf.cls != 2 && !s.timeLost | _ => false)
    | _ => false) = true ∧ (match s0.mature.walk 0 0x40000 false with | (_, .leaf _) => false | _ => true) = true := by decide
def peering : State := after (.peerTranslationRequest 3 0 0) s0
theorem wit_PeerGrant : (match peering.peerGrants with
    | [l] => l.peer == 3 && l.write && decide (l.expiry ≤ peering.now + 16000) && (peering.grantFor 3 l.id 0 4).isSome && (peering.grantFor 2 l.id 0 4).isNone
    | _ => false) = true ∧ peering.dranovUp 0 = true ∧ (3 : Nat) < 256 := by decide
theorem wit_Cxl : s0.portUp 18 = true ∧ (s0.vf? 0).map (fun v => (v.secure, s0.confine v 0 0x1000, s0.confine v 0 (2 ^ 20))) = some (false, some 0x1000, none) ∧
    s0.secureKey 0x1000 = false := by decide
theorem wit_Cxl_secure : let s : State := { hostState with vfs := [(0, { Vf.reset [0] false with windows := [(0, 2 ^ 20)] }),
      (1, { Vf.reset [0] true with windows := [(0, 2 ^ 20)] })] }
    s.secureKey 0x1000 = true ∧ (s.vf? 0).map (fun v => (v.secure, s.confine v 0 0x1000)) = some (false, some 0x1000) := by decide

/-! ## Witnesses: launches -/

/-- Function 0 whose queue 0 holds two records at 0x1000. -/
def queued (f : SubQueue → SubQueue) : State :=
  { s0 with vfs := [(0, { Vf.reset [0] false with windows := [(0, 2 ^ 20)],
                                                  queues := (f { SubQueue.reset with addr := 0x10, size := 2 }) :: List.replicate 15 SubQueue.reset })] }
theorem wit_SqEnable : ((queued id).vf? 0).bind (fun v => (v.queues[0]?).map fun x => (x.enable, v.queueCause { x with rd := 0, wr := 0 })) = some (false, 0) ∧
    (s0.vf? 0).bind (fun v => (v.queues[0]?).map fun x => v.queueCause { x with rd := 0, wr := 0 }) ≠ some 0 := by decide
def enabled : State := after (.sqEnable 0 0) (queued id)
theorem wit_Doorbell : (enabled.vf? 0).bind (fun v => (v.queues[0]?).map fun x => (x.enable, v.queueCause x, decide ((1 + 2 - x.wr.toNat) % 2 ≤ x.freeRecords),
    decide ((1 : BitVec 16).toNat < x.size.toNat), decide (x.size.toNat ≤ (2 : BitVec 16).toNat))) = some (true, 0, true, true, true) := by decide
/-- Both records in use: no record is free. -/
theorem wit_Doorbell_full : (({ SubQueue.reset with size := 4, enable := true, wr := 3, rd := 0 } : SubQueue).freeRecords) < (2 + 4 - 3) % 4 := by decide
def rung : State := after (.sqDoorbell 0 0 1) enabled
/-- The bytes of a record: one block of 32 lanes, 8 vector and 64 group registers, interval code 4, context 0. -/
def record : List Byte :=
  List.replicate 0xC 0 ++ [1, 0, 0, 0, 1, 0, 0, 0, 1, 0, 0, 0, 32, 0, 1, 0, 8, 1, 0, 0] ++ List.replicate 7 0 ++ [16] ++ List.replicate 6 0 ++ [4] ++
    List.replicate 0xD1 0
def withRecord (s : State) : State := { s with mem := s.mem.setBytes 0x1000 record }
theorem wit_RecordRead : let s := (withRecord rung).withCtx fun c => { c with loop := { c.loop with hi := [96, 256, 12, 16, 0] } }
    s.nextQueue = some 0 ∧ record.length = 256 ∧
    ((s.vf? 0).bind fun v => (v.queues[0]?).map fun x =>
      (s.confine v x.part.toNat (x.addr.toNat * 256 + 256 * x.rd.toNat), s.lpbReason 0 v x 1 (parseLpb record))) = some (some 0x1000, 0) ∧
    (parseLpb record).bitmap = 0 ∧ (firstPoison s.poison 0x1000 256).isNone = true := by decide
theorem wit_RecordRead_bad : ((rung.vf? 0).bind fun v => (v.queues[0]?).map fun x => decide (rung.lpbReason 0 v x 1 (parseLpb (List.replicate 256 0)) ≠ 0)) = some true := by decide
/-- A launch of one block that waits, in a context that has been granted 96 slots on one core. -/
def waitingState (l : Launch → Launch) : State :=
  State.withCtx { s0 with launches := s0.launches.map fun x => l { x with started := [], lpb := { x.lpb with vRegs := 8, floor := 1 } },
                          blocks := [], groups := [], ticks := 24 * 200000 } fun c =>
    { c with loop := { c.loop with pos := [1, 1, 0, 0, 0], hi := [96, 256, 12, 16, 0] } }
theorem wit_BlockPlace : let s := waitingState id
    (s.nextBlock 0).map (fun x => (x.1.id, x.2)) = some (0, 0) ∧ ((s.launch? 0).bind fun l => s.placement l 0) = some (0, [(0, 0)], []) := by decide
theorem wit_Reserve : let s := waitingState (fun l => { l with lpb := { l.lpb with scratch := 4096 } })
    (match s.launch? 0, s.ctx? 0 with
      | some l, some c => l.waiting && l.started.isEmpty && l.reserved.isEmpty && decide (128000 * 24 ≤ s.ticks) && s.eligibleBlock l 0 &&
        s.eligibleBefore l 0 (s.ticks - 128000 * 24) && (s.placement l 0).isNone && c.state == .live &&
        (leastBy (fun (x : Nat × Cluster) => s.lacking c l.lpb x.1 x.2) ((s.clusterOrder c.part).filter fun x => s.poolOk c l.lpb x.2 && !s.reservedFor x.1 l 0)).isSome
      | _, _ => false) = true := by decide
/-- A launch whose block has exited, with a bitmap in the mapped page. -/
def finishedState : State :=
  { s0 with launches := s0.launches.map fun l => { l with complete := [(0, 0)], exited := [0], lpb := { l.lpb with bitmap := 0x2000 } }, groups := [], blocks := [] }
theorem wit_BitmapBitSet : (match finishedState.launch? 0 with
    | some l => l.isComplete 0 && l.bitsSet.isEmpty &&
      (match (finishedState.mature.bitmapXlat l.lpb .atomic (l.lpb.bitmap + 0 / 8) 1).2 with
        | .keys [(0x62000, 1)] => true
        | _ => false)
    | none => false) = true := by decide
/-- R230: a byte of the bitmap past the canonical range faults, and sets BMFAULT. -/
def pastEnd : State :=
  { finishedState with launches := finishedState.launches.map fun l => { l with lpb := { l.lpb with bitmap := 2 ^ 56 } } }
theorem wit_BitmapFault : (match pastEnd.launch? 0 with
    | some l => (match (pastEnd.mature.bitmapXlat l.lpb .atomic (l.lpb.bitmap + 0 / 8) 1).2 with | .fault => true | _ => false) &&
      ((pastEnd.vf? l.vf).bind fun v => v.queues[l.queue]?).isSome
    | none => false) = true := by decide
theorem test_bitmapFault : ((after (.bitmapBitSet 0 0) pastEnd).vf? 0).bind (fun v => (v.queues[0]?).map fun x => x.bmFault) = some true := by decide
def bitWritten : State := after (.bitmapBitSet 0 0) finishedState
theorem wit_LaunchComplete : (match bitWritten.launch? 0 with
    | some l => !l.finished && l.exited.length == l.lpb.total && l.bitsSet.length == l.complete.length &&
      ((bitWritten.vf? l.vf).bind fun v => v.queues[l.queue]?).isSome && decide (l.visible ≤ bitWritten.now)
    | none => false) = true ∧
    (({ bitWritten with ticks := 0 } : State).launch? 0).map (fun l => decide (({ bitWritten with ticks := 0 } : State).now < l.visible)) = some true := by decide
theorem test_launchComplete : (match exec (.launchComplete 0) bitWritten with
    | .next t => (t.vf? 0).bind fun v => (v.queues[0]?).map fun x => x.done
    | _ => none) = some 1 := by decide

/-! ## Witnesses: contexts, loops and power -/

def ctxReq (n : Nat) : CtxReq := { ctx := n, vf := 0, part := 0, rootPart := 0, rootAddr := 0x20000, cls := 3, floor := 3, members := [] }
theorem wit_ContextCreate : Served s0 ∧ (s0.vf? 0).bind (fun v => v.parts[0]?) = some 0 ∧ (s0.part? 0).isSome = true ∧ s0.ctx? 4095 = none ∧
    (s0.ctx? 0).isSome = true ∧ (ctxReq 4095).ctx < 4096 ∧ (ctxReq 4095).cls < 4 ∧ (ctxReq 4095).floor < 4 := ⟨rfl, by decide⟩
theorem wit_ContextDestroy : Served s0 ∧ s0.group? 0 = some g0 := ⟨rfl, rfl⟩
/-- A suspended context. -/
def suspended : State := s0.withCtx fun c => { c with state := .suspended }
def paramSet (lo : Nat) : LoopParams := { kp := 0x100, ki := 0, imin := -1, imax := 1, base := 0, lo := [lo, 1, 0, 0, 0], hi := [lo, 1, 0, 0, 0] }
theorem wit_LoopParams : (suspended.ctx? 0).map (fun c => c.state) = some .suspended ∧
    (suspended.part? 0).map (fun p => (paramsOk (paramSet 96) (p.limits 0), paramsOk (paramSet 97) (p.limits 0))) = some (true, false) := by decide
/-- A context whose interval of code 4 ends at 16,384 ns, there. -/
def loopState (f : LoopRegs → LoopRegs) : State :=
  let l : LoopRegs → LoopRegs := fun l =>
    { l with ivl := 4, nextBoundary := 16384, tgt := 10, beats := 4, kp := 0x100, imin := -100, imax := 100, base := 5,
             lo := [1, 1, 0, 0, 0], hi := [9, 9, 0, 0, 0] }
  { s0.withCtx fun c => { c with loop := f (l c.loop) } with ticks := 24 * 16384 }
theorem wit_LoopLaw : ((loopState id).ctx? 0).map (fun c => decide (c.loop.ivl ≠ 0) && decide (c.loop.nextBoundary ≤ (loopState id).now) && c.merge.isNone &&
    !c.loop.opening && c.members.isEmpty && c.loop.pendingSet.isNone && c.loop.tgtOld.isNone && c.loop.liveThroughout && decide (c.loop.tgt ≠ 0) &&
    decide (c.loop.imin ≤ c.loop.imax) && decide (c.loop.ltop < 65536)) = some true := by decide
/-- KP 1.0, error 6, BASE 5, Ltop 16: the level is 11. -/
theorem test_loopBoundary : (match exec (.loopBoundary 0) (loopState id) with
    | .next t => (t.ctx? 0).map fun c => (c.loop.meas, c.loop.level, c.loop.integ, c.loop.lsat)
    | _ => none) = some (4, 11, 6, false) := by decide
theorem test_loopBoundary_held : (match exec (.loopBoundary 0) (loopState fun l => { l with downs := [(9000, some 9500)] }) with
    | .next t => (t.ctx? 0).map fun c => (c.loop.meas, c.loop.held)
    | _ => none) = some (0, true) := by decide
/-- A context that spans modules 0 and 1, with the merge of its boundary begun. -/
def spanning (leader : Nat) (counts : List (Nat × Nat × Bool)) (ns : Nat) : State :=
  let s := s0.withCtx fun c => { c with members := [leader, 7], merge := some { boundary := 16384, started := true, tgt := 0, stamp := (0, 0), counts := counts, done := false } }
  { s with ticks := 24 * ns, moduleNo := if leader = 0 then 0 else 7 }
theorem wit_MergeFlit : let s := spanning 0 [] 16384
    (s.ctx? 0).map (fun c => (c.leader, c.members.contains 7, (c.merge.map fun m => (m.boundary, m.done)))) = some (0, true, some (16384, false)) ∧
    s.moduleNo = 0 ∧ s.linkUp = true ∧ (0 : Nat) ∈ [0, 7] ∧ s.now ≤ 16384 + 3000 ∧ (spanning 0 [] 19385).now = 19385 := by decide
theorem wit_MergeDeadline : (spanning 0 [(0, 3, true)] 19384).now = 19384 ∧ (spanning 0 [(0, 3, true)] 19383).now < 16384 + 3000 := by decide
theorem test_mergeCountDeadline : (match exec (.mergeCountDeadline 0) (spanning 0 [(0, 3, true)] 19384) with
    | .next t => (t.ctx? 0).map fun c => (c.loop.partialMerge, c.loop.meas, c.merge.map fun m => m.done)
    | _ => none) = some (true, 3, some true) := by decide
theorem wit_Result : let s := spanning 3 [] 20384
    (s.ctx? 0).map (fun c => (c.leader, decide (c.leader ≠ s.moduleNo))) = some (3, true) ∧ s.now ≤ 16384 + 4000 ∧ 16384 + 4000 ≤ s.now ∧ s.linkUp = true := by decide
theorem wit_Allocation : let s := { s0 with ticks := 24 * 16384 }
    (s.part? 0).map (fun p => (p.grantsDue.isNone, decide (p.nextAlloc ≤ s.now), decide (s0.now < p.nextAlloc))) = some (true, true, true) ∧
    s.boundaryOpen 0 = false := by decide
def allocated : State := nextOf (execAllocation 0 { s0 with ticks := 24 * 16384 }) s0
theorem wit_Grants : (allocated.part? 0).map (fun p => p.grantsDue) = some (some 24384) ∧
    (allocated.ctx? 0).map (fun c => (c.part, c.state)) = some (0, .live) := by decide
theorem wit_LinkFrame : let s := { s0 with ticks := 24 * 1024 }
    s.nextFrame ≤ s.now ∧ s.parts.length = 1 ∧ (s.served 0).length = 1 ∧ (s.ctx? 0).isSome = true := by decide
/-- One partition throttled to CEIL 1, or not at all, with its share EFF of 100. -/
def powered (duty ceil : Nat) : State :=
  { s0 with ticks := 24 * 1048576, parts := s0.parts.map fun p => { p with eff := 100, duty := duty, ceil := ceil } }
theorem wit_Meter : (powered 64 0).nextMeter ≤ (powered 64 0).now ∧ (powered 64 0).pwrIdle ≤ (powered 64 0).pwrCap ∧
    (powered 8 1).parts.map (fun p => (decide (p.eff < min 65535 101), decide (p.duty ≤ 8), decide (p.ceil < 3), decide (0 < p.ceil))) = [(true, true, true, true)] ∧
    (powered 64 0).parts.map (fun p => (decide (8 < p.duty), decide (min 65535 93 ≤ p.eff), decide (16 * min 65535 93 < 15 * p.eff),
      decide (15 * p.eff ≤ 16 * min 65535 94), p.ceil)) = [(true, true, true, true, 0)] := by decide
theorem test_meterWindowEnd : (match exec (.meterWindowEnd [101] 0) (powered 64 0) with | .next t => t.parts.map fun p => (p.duty, p.ceil) | _ => []) = [(56, 0)] ∧
    (match exec (.meterWindowEnd [93] 0) (powered 56 1) with | .next t => t.parts.map fun p => (p.duty, p.ceil) | _ => []) = [(56, 0)] := by decide
theorem wit_ThrottleDrain : let s := ({ s0 with ticks := 240000000 } : State).modCluster 0 fun c => { c with fastSince := some 0 }
    (s.cluster? 0).map (fun c => c.fastSince) = some (some 0) ∧ 0 + 10000000 * 24 ≤ s.ticks ∧ (s.ctx? g0.ctx).map (fun c => c.state) = some .live := by decide
/-- A partition throttled to CEIL 2: an empty cluster of pool 1 is to go to pool 2. -/
def throttled : State := { s0 with parts := s0.parts.map fun p => { p with ceil := 2 } }
theorem wit_Pool : Served throttled ∧ (throttled.cluster? 1).map (fun c => (c.moving.isNone, throttled.clusterEmpty 1 c, c.inService.length,
    throttled.poolFor 1 c)) = some (true, true, 4, some 2) ∧ (s0.cluster? 1).map (fun c => decide (s0.poolFor 1 c ≠ some 3)) = some true := ⟨rfl, by decide⟩
theorem wit_PoolDone : (((after (.poolReassign 1 2) throttled).cluster? 1).map fun c => c.moving) = some (some (2, 2400 + 50000 * 24)) := by decide
theorem wit_Epoch : let s := { s0 with ticks := 20000 }
    (s.cluster? 0).map (fun c => (c.epochs[0]?, decide (0 < (c.cycles s.ticks - 1) / 1024), c.left.length)) = some (some 0, true, 0) ∧
    (s0.cluster? 0).map (fun c => decide ((c.cycles s0.ticks - 1) / 1024 ≤ 0)) = some true ∧ s.clusterPart 0 = some 0 ∧
    (s.groupsOn 0).map (fun g => decide (g.since ≤ 1024)) = [true] := by decide
def preempting : State := nextOf (execPreempt 0 s0) s0
theorem wit_Preempt : (s0.ctx? 0).map (fun c => c.state) = some .live ∧ preempting.drained 0 = true ∧
    (preempting.ctx? 0).map (fun c => c.state) = some (.stopping .preempt 2400) := by decide
/-- A store keeps the context from draining, for more than 80 µs. -/
def busyPreempt : State := { nextOf (execPreempt 0 (after (.st ⟨false, 1, 3, 2, 4⟩) (at_ gA))) s0 with ticks := 2400 + 80000 * 24 }
theorem wit_Preempt_timeout : busyPreempt.drained 0 = false ∧ (2400 : Nat) + 80000 * 24 ≤ busyPreempt.ticks ∧ preempting.ticks < 2400 + 80000 * 24 := by decide
def saved : State := nextOf (execPreemptDrainComplete 0 preempting) preempting
theorem wit_Restore : Served saved ∧ (saved.ctx? 0).map (fun c => (c.state, c.image.map fun i => i.psn)) = some (.saved, some false) ∧
    ((saved.vf? 0).map fun v => v.parts.contains 0) = some true := ⟨rfl, by decide⟩
def roomy : State := { saved with contexts := saved.contexts.map fun x => (x.1, { x.2 with loop := { x.2.loop with lo := [1, 1, 0, 0, 0], hi := [96, 256, 12, 16, 0] } }) }
theorem wit_Restore_room : (match roomy.ctx? 0, roomy.part? 0 with
    | some c, some p => (match c.image with
      | some img => (roomy.mature.placeImage 0 0 img).isSome &&
        p.fits (roomy.mature.coresIn 0).length ({ c with loop := c.loop.clampRanges (p.limits c.floor), part := 0 } :: roomy.mature.served 0)
      | none => false)
    | _, _ => false) = true := by decide

/-- A saved image with a lost granule, one that no cluster has room for, and a context whose floors no longer fit its partition. -/
def savedWith (f : Image → Image) : State :=
  { saved with contexts := saved.contexts.map fun x => (x.1, { x.2 with image := x.2.image.map f }) }
theorem wit_Restore_poison : ((savedWith fun i => { i with psn := true }).ctx? 0).map (fun c => (c.state, c.image.map fun i => i.psn)) =
    some (.saved, some true) := by decide
theorem wit_Restore_noRoom : let s := { saved with clusters := [] }
    (match s.ctx? 0 with
      | some c => (match c.image with | some img => (s.mature.placeImage 0 0 img).isNone && !img.psn | none => false)
      | none => false) = true := by decide
def crowded : State := { saved with contexts := saved.contexts.map fun x => (x.1, { x.2 with loop := { x.2.loop with lo := [96, 256, 12, 16, 1], hi := [96, 256, 12, 16, 1] } }) }
theorem wit_Restore_tight : let s := { crowded with contexts := crowded.contexts ++ [(1, { Context.fresh 1 0 0 0 0x20000 0 0 [] with
      loop := { c0.loop with lo := [96, 256, 12, 16, 0], hi := [96, 256, 12, 16, 0] } })] }
    (match s.ctx? 0, s.part? 0 with
    | some c, some p => (match c.image with
      | some img => (s.mature.placeImage 0 0 img).isSome &&
        !p.fits (s.mature.coresIn 0).length ({ c with loop := c.loop.clampRanges (p.limits c.floor), part := 0 } :: s.mature.served 0)
      | none => false)
    | _, _ => false) = true := by decide

/-! ## Witnesses: errors, links and time -/

theorem wit_MemoryError : (2 ^ 40 - 1 : Nat) < 2 ^ 40 ∧ s0.contexts ≠ [] := by decide
/-- A line of L2 in way 12, the first of the system's four ways, and way 11, filled by context 0. -/
def cached : State := { s0 with l2 := [(0, ⟨0, 0, 12, 0, 0, true, [5], (false, false)⟩), (1, ⟨0, 1, 11, 0, 0, false, [], (false, false)⟩)], wayFills := [(11, [0]), (10, [1, 2, 3, 4, 5])] }
theorem wit_TagParity : (cached.parts.findIdx? fun p => p.cfg.units.contains (0 / 4)) = some 0 ∧ (cached.part? 0).isSome = true ∧
    (cached.mature.l2.get? 0).map (fun l => (l.slice, l.way)) = some (0, 12) ∧ (cached.mature.ownedLine 0).isNone = true ∧ cached.contexts.wf = true ∧
    (cached.ctx? 0).map (fun c => (c.state, c.part)) = some (.live, 0) ∧ 0 ∈ (cached.wayFills.get? (16 * 0 + 11)).getD [] ∧
    4 < ((cached.wayFills.get? (16 * 0 + 10)).getD []).length ∧ 16 - 4 ≤ 12 := by decide
theorem test_tagParity : ((after (.l2TagParityError 0 11 1) cached).ctx? 0).map (fun c => c.state) = some (.stopping .fault 2400) ∧
    ((after (.l2TagParityError 0 9 1) cached).ctx? 0).map (fun c => c.state) = some .live := by decide
theorem wit_BankError : ((withFifo s0 (fifo0 [])).cluster? 0).map (fun c => (decide (15 < c.banks.length), (c.banks[0]?).map fun b => b.owner)) =
    some (true, some (some 0)) ∧ ((withFifo s0 (fifo0 [])).ctx? 0).map (fun c => c.state) = some .live := by decide
theorem wit_RegisterError : (s0.group? 0).map (fun g => g.ctx) = some 0 := rfl
theorem wit_EngineReset : (copying.cluster? 0).map (fun c => c.copies.map fun k => (k.grp, k.batch)) = some [(0, 1)] ∧ (copying.group? 0).isSome = true := by decide

/-- Port 3 as given. -/
def porting (p : Port) : State := { s0 with ports := s0.ports.set 3 p }
theorem wit_Ports : (porting Port.reset).ports[3]? = some Port.reset ∧ Port.reset.state = .up ∧ Port.reset.window = s0.now / 2 ^ 20 ∧
    ({ Port.reset with replays := 62 } : Port).replays + 1 < 64 ∧ 63 ≤ ({ Port.reset with replays := 63 } : Port).replays ∧ Port.reset.resets = [] ∧
    ({ Port.reset with state := .down } : Port).state = .down ∧ ({ Port.reset with state := .retraining } : Port).state = .retraining ∧
    (5 : Nat) ≤ 255 ∧ (255 : Nat) < 256 := by decide
theorem test_linkCrcError : (after (.linkCrcError 3) (porting { Port.reset with replays := 63 })).ports[3]? =
    some { state := .retraining, replays := 0, window := 0, resets := [100], dropped := 0 } := by decide
theorem test_linkReset_third : ((after (.linkReset 3) (porting { Port.reset with resets := [90, 80] })).ports[3]?).map (fun p => p.state) = some .down := by decide
/-- Context 0 spans modules 0 and 7; its target was last written at 100 ns by module 0. -/
def targeted : State := s0.withCtx fun c => { c with members := [0, 7], tgtStamp := (100, 0) }
theorem wit_Target : targeted.dranovUp 3 = true ∧ (targeted.ctx? 0).map (fun c => (c.members.contains 7, c.tgtStamp.1)) = some (true, 100) ∧ (100 : Nat) < 101 ∧ (99 : Nat) < 100 := by decide
theorem test_target : ((after (.stationControlFlit 3 (.target 0 7 101 9)) targeted).ctx? 0).map (fun c => c.loop.tgt) = some 9 := by decide
/-- Module 0 follows module 7's time. -/
def following (lost : Bool) : State := { s0 with timeMaster := some 7, timeLost := lost }
theorem wit_Time : (following false).follows = true ∧ (following true).follows = true ∧ s0.follows = false ∧ s0.gTick ≤ s0.ticks := by decide
theorem test_timeFlit : (after (.timeFlit ⟨150, 0⟩) (following false)).now = 150 ∧ (after (.timeFlit ⟨50, 7⟩) (following false)).now = 100 ∧
    (after (.timeFlit ⟨90, 25⟩) (following false)).now = 115 := by decide
theorem wit_Time_master : ({ s0 with timeMaster := some 0 } : State).moduleNo = 0 ∧ s0.linkUp = true := by decide

/-! ## Witnesses: the station, resets and whole steps -/

def stationed (f : Station → Station) : State := { s0 with station := f s0.station }
def image1 : FwImage := { body := [1], version := 2, securityVersion := 0, signature := [] }
/-- A second image in slot B. -/
def twoImages : State := stationed fun t => { t with imageB := some image1 }
theorem wit_Mailbox : s0.station.mode ≠ .recovery ∧ s0.station.runB = false ∧ s0.station.life ≠ .returned ∧
    (stationed fun t => { t with kex := some [] }).station.kex = some [] ∧ (stationed fun t => { t with mode := .recovery }).station.mode = .recovery ∧
    (stationed fun t => { t with life := .returned }).station.life = .returned := by decide
theorem wit_Update : Served twoImages ∧ twoImages.station.image (!twoImages.station.runB) = some image1 ∧ s0.station.image (!s0.station.runB) = none ∧
    ((enabled.vf? 0).bind fun v => (v.queues[0]?).map fun x => x.state) = some .running :=
  ⟨rfl, rfl, rfl, by decide⟩
/-- An update whose watchdog ends at 100 ns, which is now, or at 99 ns. -/
def updating (due : Nat) : State := stationed fun t => { t with mode := .updating due }
theorem wit_Updating : (updating 100).station.mode = .updating 100 ∧ (updating 100).now = 100 ∧ (updating 99).now = 100 ∧
    (stationed fun t => { t with mode := .restarting 100 (some 105) }).station.mode = .restarting 100 (some 105) := by decide
theorem test_firmwareHeartbeat : (after .firmwareHeartbeat (updating 100)).station.mode = .running ∧
    (after .firmwareHeartbeat (updating 99)).station.mode = .updating 99 := by decide
theorem wit_Resets : s0.station.mode ≠ .recovery ∧ s0.station.life.next = some .returned ∧ Served s0 ∧ (s0.part? 0).isSome = true ∧
    (s0.vf? 0).isSome = true ∧ (s0.ctx? 0).map (fun c => (c.part, c.vf)) = some (0, 0) ∧
    (s0.part? 0).map (fun p => p.cfg.units.contains (0x60000 / 2 ^ 36)) = some true ∧
    (s0.vf? 0).map (fun v => s0.inWindows v 0x60000) = some true :=
  ⟨by decide, by decide, rfl, by decide, by decide, by decide, by decide, by decide⟩
theorem test_vfReset : (after (.vfReset 0) s0).mem = [] ∧ (after (.vfReset 0) s0).contexts = [] ∧
    ((after (.vfReset 0) s0).vf? 0).map (fun v => v.scopeMax) = some 5 := by decide
theorem wit_Reset_clusters : (State.reset.clusters.get? 63).map (fun b => b.banks.length) = some 16 ∧ (s0.vf? 0).isSome = true := by decide
theorem wit_OnlyThree : (Instr.writeVisible 0).isWord = false ∧ (s0.groups.map fun g => g.id).Nodup ∧ goes (exec .correctableError s0) = true ∧
    (s0.group? 0).isSome = true := by decide
theorem wit_StepKeepsMemory : MemOk s0 ∧ goes (step s0) = true := ⟨by show s0.mem.wf = true; decide, by decide⟩

/-! ## Witnesses: further clauses -/

/-- A FIFO whose two rows of the cycle have moved. -/
def spentFifo : Fifo := { fifo0 [row1 7] with rate := (s0.cycleNo 0, 2, 2) }
theorem wit_Queue_rate : (fifo0 [row1 7]).accepts (s0.cycleNo 0) = true ∧ (fifo0 [row1 7]).delivers (s0.cycleNo 0) = true ∧
    spentFifo.accepts (s0.cycleNo 0) = false ∧ spentFifo.delivers (s0.cycleNo 0) = false ∧ spentFifo.rows.length < spentFifo.depth := by decide
theorem test_queueRate : ((pathAfter (.mov ⟨false, false, 1, 0xF5⟩) (withFifo (at_ (bound1 3)) spentFifo)).map fun p => p.wait) =
    some (.queue (some 1) none) := by decide
/-- Slot 0's trap delivered in this cycle; slot 1 is at its word. -/
def bothTrap : Group := { twoPaths with trap := { TrapRegs.reset with handler := true }, path1 := some { p0 with mask := 0xFFFF0000, stopped := true },
                                        ret := some { mask := 0xFFFF, join := none, sp := 0, other := none, at_ := 2400, own := p0 } }
theorem wit_LateTrap : (bothTrap.trap.handler && true && ((bothTrap.path true).map fun p => p.stopped).getD false && (at_ bothTrap).sameCycle bothTrap) = true ∧
    (handler.trap.handler && false) = false ∧ ((at_ bothTrap).ctx? 0).map (fun c => c.state) = some .live := by decide
theorem wit_BankCycles : (scr gA []).bankCycles gA [(0, 4), (256, 4), (512, 4)] = 3 ∧ (scr gA []).bankCycles gA [(0, 4), (4, 4)] = 1 := by decide
/-- The fault of group 0 while its other path is in a chain. -/
def chainedFault : State :=
  let s := faulting.putWord 0x60000 0x0D818283
  { s with groups := s.groups.map fun g => { g with path1 := some { chained1 with mask := 0xFF00 } } }
theorem wit_FaultReplies_chain : (match (chainedFault.group? 0).bind fun g => g.park with
    | some (.page _ _ q _ _) => (chainedFault.parkedOn 0 q).map fun x => chainedFault.chainHolds x.1 x.2.1
    | _ => none) = some true ∧
    (match (faulting.group? 0).bind fun g => g.park with
    | some (.page _ _ q _ _) => (faulting.parkedOn 0 q).map fun x => faulting.chainHolds x.1 x.2.1
    | _ => none) = some false := by decide

/-- A grant to peer 3 on the resident page, in force. -/
def pageGrant (recalled : Bool) : PeerLease :=
  { id := 5, peer := 3, vf := 0, part := 0, page := 0x20000, size := 65536, key := 0x70000, write := true, expiry := 1000, recalled := recalled, asked := false }
def granting (recalled : Bool) : State := { resident with peerGrants := [pageGrant recalled] }
theorem wit_SwapOut_peer : (granting false).holdsRun (pageGrant false) 0x70000 65536 = true ∧ (granting true).peerHeld 0x70000 65536 = true ∧
    resident.peerHeld 0x70000 65536 = false ∧ Served resident := ⟨by decide, by decide, by decide, rfl⟩
theorem test_swapOut_recalls : (after (.swapOut ⟨0, 0x20000, none, 0x400000⟩) (granting false)).peerGrants = [pageGrant true] ∧
    (after (.swapOut ⟨0, 0x20000, none, 0x400000⟩) (granting false)).swaps = [] := by decide
theorem wit_TileArrival_carried : (match fetching.fetches with
    | [f] => fetching.mature.carried f.id && !(fetching.mature.timeLost && isPeer f.remote) && fetching.clusters.all fun x => x.2.lines.all fun l => l.away.isNone
    | _ => false) = true ∧ (match swapping.swaps with | [w] => swapping.mature.carried w.id | _ => false) = true := by decide
/-- A lease of this module on peer 3's page that it has asked for, and one granted. -/
def lease (asked recalled : Bool) : PeerLease :=
  { id := 6, peer := 3, vf := 0, part := 0, page := 0x30000, size := 65536, key := peerKey 3 0, write := true, expiry := 50, recalled := recalled, asked := asked }
def leasing (l : PeerLease) : State := { s0 with peerLeases := [l], routes := [(3, [0])] }
theorem wit_OwnLease : s0.linkUp = true ∧ ((leasing (lease true false)).ctx? 0).map (fun c => (c.id, c.vf)) = some (0, 0) ∧
    (leasing (lease true false)).mayReach (peerKey 3 0) = true ∧ (lease true false).page ≤ 0x30000 ∧ 0x3FFFF < 0x30000 + (lease true false).size ∧
    (leasing (lease false true)).leaseBusy (lease false true) = false ∧ (pageGrant false).expiry ≤ 1000 ∧ (lease false false).expiry ≤ s0.now := by decide
theorem wit_PeerFlit : (match peering.peerGrants with
    | [l] => (peering.grantRuns l 0 4 == some [(0x60000, 4)]) && (({ peering with vfs := [] } : State).grantRuns l 0 4).isNone
    | _ => false) = true ∧ (1 : Nat) ≠ s0.moduleNo ∧ 0 + 4 ≤ 2 ^ 52 := by decide
theorem test_peerMemoryFlit_poison : (match peering.peerGrants with
    | [l] => ((after (.peerMemoryFlit (.write 3 0 l.id 0 [1] [true])) peering).pending.map fun w => (w.key, w.psn))
    | _ => []) = [(0x60000, true)] := by decide
theorem wit_Cxl_runs : (s0.vf? 0).map (fun v => (s0.confineRun v 0 0x1000 4, s0.confineRun v 0 (2 ^ 20 - 2) 4)) = some (some [(0x1000, 4)], none) := by decide

/-- Queue 0 of function 0 enabled with SIZE 0. -/
def sizeless : State := queued fun x => { x with size := 0, enable := true, state := .running }
theorem wit_Doorbell_cause : ((sizeless.vf? 0).bind fun v => (v.queues[0]?).map fun x => (x.enable, decide (v.queueCause x ≠ 0))) = some (true, true) ∧
    ((queued id).vf? 0).bind (fun v => (v.queues[0]?).map fun x => x.enable) = some false := by decide
/-- SQ.WR holds what was written where a check fails (R5, R220). -/
theorem test_sqDoorbell_writes : ((after (.sqDoorbell 0 0 7) enabled).vf? 0).bind (fun v => (v.queues[0]?).map fun x => (x.wr, x.state, x.cause)) =
    some (7, .error, 3) := by decide
theorem wit_BlockPlace_boundary : ((waitingState id).launch? 0).map (fun l => ((waitingState id).boundaryFirst l, l.waiting)) = some (false, true) := by decide
theorem wit_LoopParams_shared : (s0.ctx? 0).map (fun c => c.loop.ivl) = some 0 ∧ (suspended.part? 0).map (fun p =>
    (p.fitsShared [{ c0 with loop := { c0.loop with pendingSet := some (paramSet 96) } }] LoopRegs.los,
     p.fitsShared [{ c0 with loop := { c0.loop with lo := [1, 1, 12, 0, 0] } }, { c0 with id := 1, loop := { c0.loop with lo := [1, 1, 1, 0, 0] } }] LoopRegs.los)) = some (true, false) := by decide
theorem test_loopParams_now : ((after (.loopParamsSet 0 (paramSet 4)) s0).ctx? 0).map (fun c => (c.loop.kp, c.loop.lo)) = some (0x100, [4, 1, 0, 0, 0]) := by decide
/-- A third module's flit is not in. -/
theorem wit_MergeFlit_late : let s := spanning 0 [] 19385
    s.now = 16384 + 3001 ∧ (s.ctx? 0).map (fun c => c.members) = some [0, 7] := by decide
theorem wit_RegisterWindow : (0 : Nat) < 16 ∧ (1024 : Nat) ≤ 1024 ∧ (64 * 3 + 0x18) % 64 ∉ [0, 8, 12, 20] := by decide
theorem test_registerWindow : ((after (.registerWrite (.window 0 0 0x1000)) s0).vf? 0).bind (fun v => (v.queues[0]?).map fun x => x.addr) = some 0x10 ∧
    (s0.windowRead 0 0x1000, (queued id).windowRead 0 0) = (0, 0x1000) := by decide
theorem wit_AddPart : (0 : Nat) ∉ ({ Vf.reset [1] false with windows := [] } : Vf).parts ∧ (s0.part? 0).isSome = true := by decide

/-- What errors strike: a manifest entry, a stack entry, a tuple, an image. -/
theorem wit_Errors : fullStack.stack = [] ∧ (match deposited.tuples with | [u] => u.psn | _ => true) = false ∧
    ((saved.ctx? 0).bind fun c => c.image.map fun i => i.psn) = some false := by decide
theorem test_errors : ((after (.hbmUncorrectableError (.image 0)) saved).ctx? 0).bind (fun c => c.image.map fun i => i.psn) = some true ∧
    (after (.l2DataUncorrectableError (.tuple 0)) deposited).tuples.map (fun u => u.psn) = [true] ∧
    ((after (.hbmUncorrectableError (.stack 0 0)) (at_ (joinPaths 0))).group? 0).map (fun g => g.entryPsn 0) = some true := by decide
/-- A dirty line that is dropped leaves what HBM holds. -/
theorem test_tagParity_dirty : (after (.l2TagParityError 0 12 0) cached).mem.byte 0 = 5 := by decide

/-- A target written here at 120 ns, after the boundary at 110 ns, which has not been made; the one before it was of 90 ns. -/
def lateTarget : State := s0.withCtx fun c =>
  { c with members := [0, 7], tgtStamp := (120, 0), loop := { c.loop with tgt := 6, nextBoundary := 110, tgtOld := some (4, 90, 0) } }
theorem wit_Target_early : (lateTarget.ctx? 0).map (fun c => (c.loop.tgtOld, decide (105 < c.loop.nextBoundary), decide (105 < c.tgtStamp.1))) =
    some (some (4, 90, 0), true, true) := by decide
theorem test_target_early : ((after (.stationControlFlit 3 (.target 0 7 105 9)) lateTarget).ctx? 0).map (fun c => (c.loop.tgt, c.loop.tgtOld)) =
    some (6, some (9, 105, 7 * 2 ^ 20)) := by decide
theorem wit_Members : (targeted.ctx? 0).map (fun c => decide (c.members ≠ [])) = some true ∧ targeted.moduleNo ∈ [0, 9] := by decide
theorem wit_Resync : (following true).timeLost = true ∧ (following true).linkUp = true := by decide

theorem wit_Recovery : (stationed fun t => { t with mode := .recovery }).station.mode = .recovery ∧
    (stationed fun t => { t with mode := .restarting 100 none }).station.inCharge = false ∧
    (stationed fun t => { t with life := .manufacture }).station.life = .manufacture ∧ s0.station.life = .deployed := by decide
theorem wit_VfReset : (∀ x ∈ s0.contexts, x.2.rowTable = none) ∧ s0.moduleNo = 0 := by decide
/-- CPY of one row from scratchpad 0 to queue 1. -/
def queueCopy : Group := { bound1 1 with g := [(20, 1 + 4 * 2 + 128), (23, 128), (24, 1)] }
theorem wit_Cpy_queue : (withFifo (at_ (bound1 1)) (fifo0 [])).fifoOf (bound1 1) 1 = some (fifo0 [], 1) ∧ (1 : BitVec 2).getLsbD 0 = true ∧
    copyDescOk (queueCopy.gregs 20 8) = true ∧ (copyDesc (queueCopy.gregs 20 8)).dk = 2 ∧ (copyDesc (queueCopy.gregs 20 8)).dar = 1 := by decide
theorem wit_Tuples_inOrder : (match depositing.tupleReqs with | [r] => depositing.inOrder r | _ => false) = true ∧
    (match taking.tupleReqs with | [r] => taking.inOrder r | _ => false) = true := by decide
/-- Where a take has arrived at a home in a cycle, no deposit arrives there in that cycle any more (R184). -/
theorem test_tupleOrder : (match depositing.tupleReqs with
    | [r] => [0, 1].map fun d => ({ depositing with tupleOrder := [(r.slice, depositing.ticks / 12 - d, 1, 0)] } : State).inOrder r
    | _ => []) = [false, true] := by decide

/-! ## Witnesses: queues of many readers, traps of one cycle, and releases -/

/-- A multicast FIFO of two subscribers: group 0, at the second row, and another that has retired. -/
def manyFifo : Fifo :=
  { fifo0 [row1 7, row1 8] with mc := true, subs := 2, base := 5, readers := [⟨0, 1, 6, false⟩, ⟨9, 1, 5, true⟩] }
theorem wit_Queue_multicast : let s := withFifo (at_ (bound1 3)) manyFifo
    s.fifoOf (bound1 3) 1 = some (manyFifo, 3) ∧ (manyFifo.reader? 0 1).map (fun r => r.pos) = some 6 ∧ manyFifo.base ≤ 6 ∧
    (manyFifo.rows[6 - manyFifo.base]?).isSome = true ∧ manyFifo.delivers (s.cycleNo 0) = true ∧ manyFifo.bound ≠ [] := by decide
/-- R157: the subscriber takes the second row; the first has been taken by both, and leaves with it. -/
theorem test_multicast_pop : vAfter (.mov ⟨false, false, 1, 0xF5⟩) (withFifo (at_ (bound1 3)) manyFifo) 1 7 = some 8 ∧
    ((((withFifo (at_ (bound1 3)) manyFifo).popRow (bound1 3) 1).fifoOf (bound1 3) 1).map fun x => (x.1.rows.length, x.1.base)) = some (0, 7) := by decide
/-- Slot 1's trap was delivered in this cycle; slot 0 is at its word. -/
def slotOneFirst : Group :=
  { twoPaths with trap := { TrapRegs.reset with handler := true, slot := true }, path0 := some { p0 with mask := 0xFFFF, stopped := true },
                  path1 := some { p0 with mask := 0xFFFF0000, pc := 0x100 },
                  ret := some { mask := 0xFFFF0000, join := none, sp := 0, other := none, at_ := 2400, own := { p0 with mask := 0xFFFF0000, pc := 0x40 } } }
def bothInOne : State := (at_ slotOneFirst).withCtx fun c => { c with trapVec := 0x100 }
theorem wit_FirstTrap : bothInOne.sameCycle slotOneFirst = true ∧ (bothInOne.ctx? 0).map (fun c => (c.state, c.trapVec)) = some (.live, 0x100) ∧
    (slotOneFirst.path true).map (fun o => (o.pc, o.pfx.length, o.chain.len)) = some (0x100, 0, 0) := by decide
/-- R270: slot 0's trap is the one delivered, and slot 1 stands at its word again. -/
theorem test_firstTrap : ((bothInOne.trapPath 0 false .illegal 1 0).group? 0).map (fun g => (g.trap.slot, g.trap.cause, g.trap.pc)) =
    some (false, Cause.illegal.code, 0) ∧
    ((bothInOne.trapPath 0 false .illegal 1 0).group? 0).bind (fun g => (g.path true).map fun p => (p.pc, p.stopped)) = some (0x40, true) := by decide
/-- A port that went down took a write of the group with it. -/
def losing : Group := { g0 with lost := some 0x1234, path0 := some { p0 with wait := .fence 2 } }
theorem wit_Fence_lost : let s := (at_ losing).withCtx fun c => { c with trapVec := 0x100 }
    s.settled losing 2 0 = true ∧ losing.lost = some 0x1234 ∧ (s.ctx? 0).map (fun c => c.trapVec) = some 0x100 ∧ losing.trap.handler = false ∧ s.chainHolds losing false = false := by decide
theorem test_fence_lost : (((after (.fenceRelease 0 false) ((at_ losing).withCtx fun c => { c with trapVec := 0x100 })).group? 0).map fun g =>
    (g.trap.cause, g.trap.addr, g.lost)) = some (Cause.poison.code, 0x1234, none) := by decide
theorem wit_Branches_targets : ¬((p0.wordPc.toNat : Int) + 4 * signedImm Prefixes.none 0x8000 16 ≥ 0) ∧
    trapAfter (.brnz ⟨9, 0x8000⟩) (at_ (g0.putG 9 1)) = some 0x06 ∧ trapAfter (.call ⟨40, 0x8000⟩) s0 = some 0x06 := by decide
/-- A SYSRD that has issued behind a load reads nothing again. -/
def aheadGroup : Group := g0.withPath fun p => { p with ahead := [⟨0, some 77, [], [], 1⟩] }
theorem wit_SystemRead_ahead : ((at_ aheadGroup).group? 0).bind (fun g => (g.path false).map fun p => p.ahead.map fun a => decide (a.pc = p.pc)) = some [true] ∧
    wellFormed (.sysrd ⟨5, 0x05⟩) = true ∧ wellFormed (.syswr ⟨6, 0x51⟩) = true := by decide
theorem test_sysrd_ahead : gAfter (.sysrd ⟨5, 0x05⟩) (at_ aheadGroup) 5 = some 77 := by decide

/-! ## Witnesses: memory words -/

theorem wit_Atom_bounds : ({ gA with gCount := 5 } : Group).gCount < 5 + atomRegs 0 ∧ 4 + atomRegs 0 ≤ ({ gA with gCount := 5 } : Group).gCount := by decide
theorem wit_Checks : 6 ≤ (memScope ⟨none, none, some ⟨6, 0, 0, 0⟩⟩).toNat ∧ (memScope Prefixes.none).toNat ≤ (at_ gA).scopeMax gA ∧ (g0.addr 2).valid = false ∧
    (at_ fencing).released fencing 2 = false ∧ p0.released = false := by decide
/-- An update-only line that holds 3 at the word of lane 7, and the word that adds 5 to it there. -/
def heldLine : CLine :=
  { line := 0x61000 / 128, kind := .updateOnly, bank := 0, used := 0, ctx := 0, psn := (false, false), partials := [⟨0, 4, 0, 3⟩], away := none }
def localAdd : State :=
  (at_ { gA.withPath (fun p => { p with pfx := [.mem ⟨1, 0, 0, 0⟩] }) with v := [(39, 5)] }).modCluster 0 fun c => { c with lines := [heldLine] }
theorem wit_LocalRed : (redWord ⟨false, 1, 3, 2, 0⟩ ⟨.v 1, .v 3, .absent, Prefixes.none, none, false⟩ gA).isLocal localAdd gA ⟨none, none, some ⟨1, 0, 0, 0⟩⟩ = true ∧
    (localAdd.cluster? 0).map (fun c => (c.line? (0x61000 / 128)).map fun l => (decide (l.kind = .updateOnly), l.away.isNone)) = some (some (true, true)) ∧
    localAdd.flights.isEmpty = true ∧ contributed 0 4 [⟨0, 4, 0, 3⟩] 0 5 = [⟨0, 4, 0, 8⟩] := by decide
theorem test_localRed : ((after (.red ⟨false, 1, 3, 2, 0⟩) localAdd).cluster? 0).map (fun c => c.lines.map fun l => l.partials) = some [[⟨0, 4, 0, 8⟩]] ∧
    (after (.red ⟨false, 1, 3, 2, 0⟩) localAdd).flights.isEmpty = true := by decide
theorem test_loadWords : loadWords 5 [1, 2, 3, 4, 5, 6, 7, 8] = [0x04030201, 0x08070605] := by decide
/-- Block 0 with a poisoned granule at 0. -/
def poisonedScratch : State :=
  let s := scr gA []
  { s with blocks := s.blocks.map fun b => { b with psn := [(0, 0)] } }
theorem test_lds_poison : trapAfter (.lds ⟨false, 1, 3, 4⟩) poisonedScratch = some Cause.poison.code := by decide
theorem wit_ScratchTraps : (laneTrap ((scr gA []).scratchLanes gA 4 (fun _ => 4096) [7])).isSome = true ∧
    (poisonedScratch.scratchPoison gA 0 4).isSome = true := by decide

/-! ## Witnesses: tuples -/

/-- A deposit whose release is not complete, and the state in which it is. -/
def holding : State := after (.tsdep ⟨4, 20, 0, 2⟩) (tupleState { (tupleGroup.putG 20 7) with horizons := List.replicate 8 200 })
theorem wit_TupleReleasing : (match holding.tupleReqs, (holding.group? 0).bind fun g => g.path false with
    | [q], some p => decide (q.stage = .releasing) && decide (p.wait = .tuple q.id) && ((holding.group? 0).map fun g => holding.settled g 5 p.upTo) == some false &&
      ((holding.group? 0).map fun g => (later 24000 holding).settled g 5 p.upTo && g.lost.isNone) == some true
    | _, _ => false) = true := by decide
theorem wit_TuplePlainPage : (s0.mature.translate 0 false .tuple 0).2 = .mem 0x60000 := by decide
/-- A take that waits at its home, a second deposit of its tag, and the take where 512 are parked already. -/
def waitingTake : State :=
  after (.tstak ⟨4, 20, true, 0, 2⟩) (tupleState (tupleGroup.putG 20 7))
def parkedTake : State := match waitingTake.tupleReqs with | [r] => after (.tupleTakeAtHome r.id) waitingTake | _ => waitingTake
def answering : State := { parkedTake with tupleReqs := parkedTake.tupleReqs ++ depositing.tupleReqs.map fun r => { r with id := 99 }, tupleOrder := [] }
theorem wit_TupleParked : (match waitingTake.tupleReqs with
    | [r] => waitingTake.inOrder r && r.wait && (waitingTake.storedAt r).isEmpty
    | _ => false) = true ∧
    (parkedTake.tupleReqs.map fun r => decide (r.stage = .parked)) = [true] ∧
    (match answering.tupleReqs.find? fun x => x.id == 99 && x.kind == .dep && x.stage == .travelling with
      | some r => answering.inOrder r && (answering.parkedAt r).all (fun x => x.id != 99) &&
        (leastKey (fun x => [x.arrived, x.rank]) ((answering.parkedAt r).filter fun x => x.kind == .tak && x.accepts r.tag r.vals)).isSome
      | none => false) = true := by decide
theorem test_tupleParked : ((after (.tupleDepositAtHome 99) answering).tupleReqs.map fun r => decide (r.stage = .result 0 7 [] false)) = [true, false] ∧
    (after (.tupleDepositAtHome 99) answering).tuples.isEmpty = true := by decide

/-! ## Witnesses: engines -/

theorem wit_Mtrs : let g := { factorGroup with g := [(20, 0x100), (21, 1), (22, 1), (24, 16), (25, 8)] }
    let s := scr g []
    (facDesc true (s.gregsNow g 20 8)).ok ((s.gregsNow g 20 8)[0]?.getD 0) = true ∧ s.badArray g (facDesc true (s.gregsNow g 20 8)) = none ∧
    (scr g []).entriesFree 0 ≠ 0 := by decide
/-- LU of the 1×1 matrix 9, its matrix due; and the first matrix of a command of two. -/
def rooted (batch : Nat) : State :=
  later 100000 (after (.factorCommandStart 0) (later 48 (after (.mfac 20)
    (scr { factorGroup with g := [(20, 1), (21, 1), (22, BitVec.ofNat 32 batch), (25, 8), (27, 16)] } [(0, 9), (16, 5)]))))
theorem wit_FactorMatrix : ((rooted 1).cluster? 0).bind (fun c => ((rooted 1).factorHead c).map fun k => (k.started, decide (k.due ≤ (rooted 1).ticks), k.next + 1,
      k.form.batch, ((rooted 1).block? k.block).isSome, ((rooted 1).group? k.grp).isSome)) = some (true, true, 1, 1, true, true) ∧
    ((rooted 2).cluster? 0).bind (fun c => ((rooted 2).factorHead c).map fun k => (k.next + 1, k.form.batch)) = some (1, 2) := by decide
/-- R138, R140: the pivot is 9, of row 0; no pivot was regularized and nothing saturated. -/
theorem test_factorValues : let d := facDesc false [1, 1, 1, 0, 0, 8, 0, 16]
    let x := d.run (d.load [(0, 9), (16, 5)] 0)
    x.a = [9] ∧ x.piv = [0] ∧ x.status ⟨0, 0⟩ = 0xFF00FF00 := by decide
theorem test_factorMatrix : ((after (.factorMatrixComplete 0) (rooted 1)).group? 0).map (fun g => g.outstanding) = some 0 ∧
    ((after (.factorMatrixComplete 0) (rooted 2)).cluster? 0).map (fun c => c.factor.map fun k => k.next) = some [1] := by decide
theorem wit_FactorValues : (0 : Nat) < 1 ∧ ([9] : List Int).length = 1 * 1 := by decide
theorem wit_CleanSet : (match (fed.cluster? 0).bind fun c => c.pass with
    | some q => q.sets.all fun x => !x.psn && (q.rowsFor x.id true ++ q.rowsFor x.id false).all (fun r => r.psn == (false, false)) &&
        x.quarters.all (fun i => decide (i < 4) && (match fed.group? x.grp with | some g => !(x.side.getD (fed.sideOf g x)).taint.contains i | none => false)) &&
        decide x.quarters.Nodup
    | none => false) = true := by decide
/-- The same pass with a cast window, in or past its last compute cycle. -/
def unreadPass : State := fed.modCluster 0 fun c =>
  { c with pass := c.pass.map fun q => { q with sets := q.sets.map fun x => { x with desc := { x.desc with win := some WinReg.reset } } } }
theorem wit_ReadSides : (match unreadPass.cluster? 0 with
    | some c => c.draining.isNone && (match c.pass with
      | some q => !(q.streams.any fun t => t.need != 0) && decide (unreadPass.computeEnd 0 q ≤ unreadPass.ticks + unreadPass.cycle 0) &&
          q.sets.any MSet.unread && q.sets.all fun x => (unreadPass.group? x.grp).isSome
      | none => false)
    | none => false) = true := by decide
theorem test_residue : ((after (.matrixResidueError 0) granted).cluster? 0).map (fun c => (c.pass.isNone, c.sets.length)) = some (true, 0) ∧
    ((after (.matrixResidueError 0) granted).group? 0).map (fun g => (g.outstanding, g.psnOps)) = some (0, 1) := by decide
theorem wit_Vtenc_fault : (pieceFault [{ va := 0x1000, len := 4, x := .fault 0 .protection, isSrc := true, row := 0 }]).isSome = true := by decide

/-! ## Witnesses: the host, pages and peers -/

theorem wit_WindowUpper : ((s0.vf? 0).bind fun v => v.queues[15]?).isSome = true ∧ (15 : Nat) < 16 := by decide
/-- R289: the upper half of SQ.BASE lies at 0x04 of the queue's window. -/
theorem test_windowUpper : ((after (.registerWrite (.window 0 4 0x30001)) s0).vf? 0).bind (fun v => (v.queues[0]?).map fun x => (x.addr, x.part)) =
    some (0x0001000000, 3) := by decide
theorem test_hostRead : (match step { queued id with turns := [.hostRead 0 0] } with | .next t => t.outbox.getLast? | _ => none) =
    some (.hostData 0 0 0x1000) := by decide
theorem wit_AbortNoted : (match (chainedFault.group? 0).bind fun g => g.park with
    | some (.page _ _ q _ _) => ((after (.fbReplyAbort 0 q) chainedFault).group? 0).bind fun g => (g.path false).map fun p => p.abort
    | _ => none) = some true ∧ (chainedFault.part? 0).isSome = true := by decide
/-- The booted page without NS: secure memory, for a function outside the secure world. -/
def secured : State := { s0 with mem := s0.mem.setBytes 0x51000 (leBytes 8 0x6001F) }
theorem wit_SecurePeer : (match secured.mature.walk 0 0 false with
    | (s, .leaf e) => !e.leaf.ns && decide (e.leaf.cls ≠ 2) && (match s.place e e.page with | .mem _ => true | _ => false) &&
      ((s.vf? e.vf).map fun v => v.secure) == some false
    | _ => false) = true := by decide
theorem test_cxl_discarded : (after (.cxlMemAccess ⟨0, 0, 2 ^ 20, true, 0, [1]⟩) s0).station.logged = s0.station.logged + 1 ∧
    ((s0.vf? 0).map fun v => s0.confineRun v 0 (2 ^ 20) 1) = some none := by decide
theorem wit_Held : (stationed fun t => { t with mode := .restarting 100 none }).station.inCharge = false ∧
    (stationed fun t => { t with mode := .restarting 100 none }).station.mode ≠ .recovery := by decide

/-! ## Witnesses: numbers -/

theorem wit_Finite : IsFinite 0x7F7FFFFF ∧ ¬IsFinite 0x7F800000 ∧ IsFinite (halfAt 0x3F807F80 16) ∧ ¬IsFinite (halfAt 0x3F807F80 0) ∧
    field 0xFF800000 0 31 = 0x7F800000 ∧ field 0 0 31 = 0 ∧ isNaN (halfAt 0x7FC03F80 16) = true := by unfold IsFinite; decide
/-- R88: 1 + 2^-8 lies between two BF16 numbers and goes to the even one, as 1 + 3 × 2^-8 does; FP32 holds the sum. -/
theorem test_roundsOnce : rounded (2 ^ 149 + 2 ^ 141) (2 ^ 149) false = 0x3F808000 ∧ roundedHalf (2 ^ 149 + 2 ^ 141) (2 ^ 149) false = 0x3F80 ∧
    roundedHalf (2 ^ 149 + 3 * 2 ^ 141) (2 ^ 149) false = 0x3F82 ∧ rounded 0 1 true = 0x80000000 := by decide
theorem wit_Exact : exactly 0x40800000 = (2 ^ 151 : Nat) ∧ exactly 0xC3150000 = -149 * 2 ^ 149 ∧ exactly 0x42FE0000 = 127 * 2 ^ 149 ∧
    exactly 0x43000000 = 128 * 2 ^ 149 ∧ exactly 0xC3170000 = -151 * 2 ^ 149 ∧ exactly 1 = (2 ^ 0 : Nat) ∧ exactly 0x80000001 < 0 ∧
    exactly 0x3F800000 = (2 ^ 149 : Nat) ∧ 0x41200000 ≤ field 0xC1200000 0 31 ∧ exactly 0x80000000 = 0 := by decide
theorem wit_Integral : NearestInt 2 (5 * 2 ^ 148) (2 ^ 149) ∧ ¬NearestInt 3 (5 * 2 ^ 148) (2 ^ 149) ∧ NearestInt (-2) (-3 * 2 ^ 148) (2 ^ 149) := by
  unfold NearestInt; decide
/-- R90: code 0x40 is 1, and code 0x01 is 10^6. -/
theorem wit_Kd8 : kd8Units 0x40 = 32000000 ∧ kd8Units 1 = 32000000 * 10 ^ 6 ∧ field 0x00000080 0 8 = 128 ∧ field 0x00000140 0 8 = 64 ∧
    (0x80 : Mask).getLsbD 7 = true ∧ scaleGroup 8 0x80 7 = [7] ∧ scaleGroup 32 0x80000001 31 = [0, 31] := by decide
theorem wit_Bperm : (0x9543 / 2 ^ (4 * 0) % 16 : Nat) < 4 ∧ 4 ≤ (0x9543 / 2 ^ (4 * 1) % 16 : Nat) ∧ (0x9547 / 2 ^ (4 * 0) % 16 : Nat) < 8 ∧
    8 ≤ (0x9543 / 2 ^ (4 * 3) % 16 : Nat) ∧ bpermWord 0x9543 0x33221100 0x77665544 = 0x00554433 := by decide
/-- R327: a nibble of 8 or more gives a zero byte. -/
theorem test_bperm_zero : bpermWord 0x8F07 0x33221100 0x77665544 = 0x00000077 := by decide

/-! ## Witnesses: a queue in A and in D -/

/-- Queue 1 on the FIFO of bank 0, queue 2 on that of bank 1. -/
def pairGroup (role1 role2 : BitVec 2) : Group :=
  { g0 with qreg := [none, some ⟨0, role1⟩, some ⟨1, role2⟩, none, none, none, none, none] }
def pairState (g : Group) (first : List Row) (spent : Bool) : State :=
  (withFifo (at_ g) (fifo0 first)).modCluster 0 fun c =>
    { c with fifos := c.fifos ++ [{ fifo0 [] with first := 1, bound := [(0, 2)], rate := if spent then (s0.cycleNo 0, 2, 2) else (0, 0, 0) }] }
/-- 0 with its row, 1 for QUEUE, 2 for a park. -/
def verdict (x : Except Stop (Option Row)) : Nat × Option Row :=
  match x with
  | .ok r => (0, r)
  | .error (.trap .queue _ _) => (1, none)
  | .error (.park (.queue _ _)) => (2, none)
  | .error _ => (3, none)
/-- What a word meets that pops q1 alone, that pushes q2 alone, and that does both. -/
def verdicts (g : Group) (first : List Row) (spent : Bool) (m : Mask) : List (Nat × Option Row) :=
  let s := pairState g first spent
  [verdict (queueCheck s g m (some 1) none), verdict (queueCheck s g m none (some 2)), verdict (queueCheck s g m (some 1) (some 2))]
theorem wit_Queue_pair : verdicts (pairGroup 2 1) [row1 7] false 1 = [(0, some (row1 7)), (0, none), (0, some (row1 7))] ∧
    verdicts (pairGroup 2 1) [row1 7] true 1 = [(0, some (row1 7)), (2, none), (2, none)] ∧
    verdicts (pairGroup 2 1) [] false 1 = [(2, none), (0, none), (2, none)] ∧
    verdicts (pairGroup 1 1) [row1 7] false 1 = [(1, none), (0, none), (1, none)] ∧
    verdicts (pairGroup 2 2) [] false 1 = [(2, none), (1, none), (1, none)] := by decide
/-- R49: where A and D name one queue, its room does not count; both roles do. -/
theorem wit_Queue_same : let s := fun (rows : List Row) => withFifo (at_ (bound1 3)) { fifo0 rows with rate := (s0.cycleNo 0, 2, 0) }
    [verdict (queueCheck (s [row1 7]) (bound1 3) 1 (some 1) none), verdict (queueCheck (s [row1 7]) (bound1 3) 1 (some 1) (some 1)),
     verdict (queueCheck (s []) (bound1 3) 1 (some 1) (some 1)),
     verdict (queueCheck (withFifo (at_ (bound1 2)) (fifo0 [row1 7])) (bound1 2) 1 (some 1) (some 1))] =
    [(0, some (row1 7)), (0, some (row1 7)), (2, none), (1, none)] := by decide

/-! ## Witnesses: atomics at home, system registers, and several pending writes -/

/-- ATOM and RED of code 0 with 5 in lane 7, or 5 and 6 in lanes 7 and 8, on their way to 0x61000. -/
def adding (i : Instr) (m : Mask) : State :=
  after i (at_ { (gA.withPath fun p => { p with mask := m, pfx := [.mem ⟨5, 0, 0, 0⟩] }) with v := [(39, 5), (40, 6)] })
theorem wit_AtomicArrives : ([adding (.atom ⟨false, 1, 3, 2, 0⟩) 0x80, adding (.red ⟨false, 1, 3, 2, 0⟩) 0x80].all fun s =>
      match s.flight? 1 with
      | some f => (f.kind == .atom || f.kind == .red) && s.canWrite f (0x61000 / 128) && f.grp != noGroup && f.accs.length == 1 &&
          f.accs.all fun a => a.tile.isNone && a.key / 128 == 0x61000 / 128
      | none => false) = true := by decide
theorem wit_AtomicArrives_two : let s := adding (.red ⟨false, 1, 3, 2, 0⟩) 0x180
    (s.flight? 1).map (fun f => (s.canWrite f (0x61000 / 128), f.accs.map fun a => (a.lane, a.key, a.tile.isNone), decide (0x61000 % 128 + f.size ≤ 128))) =
      some (true, [(7, 0x61000, true), (8, 0x61000, true)], true) ∧ (s.atHome (0x61000 / 128)).pending = [] := by decide
/-- R310: 5 is added to 0; of two lanes at one place the second adds to what the first has left (R193). -/
theorem test_atomicArrives : ((after (.homeWriteArrival 1 (0x61000 / 128)) (adding (.red ⟨false, 1, 3, 2, 0⟩) 0x180)).pending.map fun w => w.data) =
    [[5, 0, 0, 0], [11, 0, 0, 0]] := by decide
/-- A second accepted write to byte 0x61001 beside the one to 0x61000. -/
def twoWrites : State :=
  { accepted with pending := accepted.pending ++ accepted.pending.map fun w => { w with id := w.id + 1, key := w.key + 1, data := [7] } }
theorem wit_StoreVisible_two : (twoWrites.pending.map fun x => x.id).Nodup ∧ twoWrites.pending.length = 2 ∧
    (twoWrites.pending.all fun w => decide (w.gwct ≤ twoWrites.now)) = true := by decide
theorem wit_SystemRead_launch : ((s0.launch? g0.launch).map fun l => decide (l.lpb.gx < 2 ^ 32 ∧ l.lpb.gy < 2 ^ 32 ∧ l.lpb.gz < 2 ^ 32)) = some true ∧
    ((s0.launch? g0.launch).bind fun l => (s0.block? g0.block).map fun b => decide (b.index < l.lpb.gx * l.lpb.gy * l.lpb.gz)) = some true ∧
    (s0.vf? g0.vf).isSome = true ∧ (s0.ctx? g0.ctx).map (fun c => (c.loop.pos.length, c.loop.ask.length)) = some (5, 5) := by decide

/-! ## Witnesses: exits and joins with a stack -/

/-- Two paths, of lanes 0 to 15 and 24 to 31, and the stack given. -/
def exiting (st : List StackEntry) : Group :=
  { twoPaths with path1 := some { p0 with mask := 0xFF000000 }, stack := st }
/-- The path of lanes 0 to 15 may exit, and others remain. -/
def exits (g : Group) : Bool :=
  (g.path true).isSome && !g.trap.handler && g.helper == 0 && 0xFFFF &&& g.exited == 0 && !g.lastExit 0xFFFF && !g.exitPsn false 0xFFFF s0.ticks
/-- A JOIN entry at 8 of the mask given at which the given lanes have arrived. -/
def arrivedEntry (m arrived : Mask) : StackEntry := { joinEntry 8 m none with arrived := arrived }
theorem wit_Exit_stack : (exits (exiting []) && exits (exiting [arrivedEntry 0xFFFFFFFF 0]) && exits (exiting [pathEntry 8 0xFF0000 none]) &&
      exits (exiting [joinEntry 8 0xFFFF none]) && exits (exiting [arrivedEntry 0xFFFFFF 0xFF0000]) &&
      exits (exiting [arrivedEntry 0xF0FFFF 0xF00000, arrivedEntry 0x0FFFFF 0x0F0000])) = true ∧
    (0 : Mask) ≠ 0xFFFFFFFF &&& ~~~0xFFFF ∧ (0xFF0000 : Mask) &&& 0xFFFF = 0 ∧ (0xFFFF : Mask) &&& ~~~0xFFFF = 0 ∧
    (0xFF0000 : Mask) = 0xFFFFFF &&& ~~~0xFFFF := by decide
/-- Slot 0 and the stack of group 0 after its path exits; of each entry, whether it is a PATH entry. -/
def afterExit (g : Group) : Option (Word × Mask) × List (Bool × Mask × Mask) :=
  match (after .exit (at_ g)).group? 0 with
  | some x => ((x.path false).map fun p => (p.pc, p.mask), x.stack.map fun e => (e.kind == .path, e.mask, e.arrived))
  | none => (none, [])
/-- R37, R38, R39: the slot is refilled; a merged path takes it; a second one becomes a PATH entry in its place. -/
theorem test_exitStack : afterExit (exiting [pathEntry 8 0xFF0000 none]) = (some (8, 0xFF0000), []) ∧
    afterExit (exiting [arrivedEntry 0xFFFFFF 0xFF0000]) = (some (8, 0xFF0000), []) ∧
    afterExit (exiting [arrivedEntry 0xF0FFFF 0xF00000, arrivedEntry 0x0FFFFF 0x0F0000]) = (some (8, 0x0F0000), [(true, 0xF00000, 0)]) := by decide
/-- Slot 0 at its join with a PATH entry above or below the JOIN entry. -/
def refilling (above : Bool) : Group :=
  let j := arrivedEntry 0xFFFFFFFF 0
  let e := pathEntry 16 0xFF0000 none
  { joinPaths 0 with stack := if above then [j, e] else [e, j], path0 := some { p0 with pc := 8, mask := 0xFFFF, join := some (if above then 0 else 1) } }
theorem wit_Joins_refill : ([true, false].all fun a => (refilling a).entryPsn 0 == false && (refilling a).entryPsn 1 == false &&
    !(at_ (refilling a)).inChain (refilling a) p0 && ((refilling a).path true).isSome) = true ∧
    (0 : Mask) ||| 0xFFFF ≠ 0xFFFFFFFF &&& ~~~(refilling true).exited := by decide
/-- R39: the emptied slot is refilled, and the entry, RETIRED, leaves the stack at the top. -/
theorem test_refill : ([true, false].map fun a => ((after (.reachJoin 0 false) (at_ (refilling a))).group? 0).map fun x =>
    ((x.path false).map fun p => p.pc, x.stack.map fun e => (e.kind, e.arrived))) =
    [some (some 16, [(.join, 0xFFFF)]), some (some 16, [(.retired, 0), (.join, 0xFFFF)])] := by decide

/-! ## Witnesses: grants, transfers, errors and resets -/

theorem wit_LoopAsks : ((loopState id).ctx? 0).map (fun c => (c.loop.lo[4]?, c.loop.hi[4]?)) = some (some 0, some 0) := by decide
/-- Two contexts, the second of the later class, that ask for 60 and 50 of the 96 slots at an allocation. -/
def contested : State :=
  let c := fun (i k ask : Nat) => { c0 with id := i, cls := k, loop := { c0.loop with lo := [1, 1, 0, 0, 0], ask := [ask, 1, 0, 0, 0] } }
  { s0 with ticks := 24 * 16384, contexts := [(0, c 0 0 60), (1, c 1 1 50)] }
theorem wit_Allocation_grants : (contested.part? 0).map (fun p => (p.grantsDue.isNone, decide (p.nextAlloc ≤ contested.now),
      p.fits (contested.coresIn 0).length ((contested.served 0).map fun c => c.latchVps (((contested.vf? c.vf).map fun v => v.vps).getD [])))) =
      some (true, true, true) ∧ contested.boundaryOpen 0 = false ∧ contested.contexts.wf = true ∧
    ((contested.served 0).map fun c => c.id).Nodup ∧ ((contested.served 0).all fun c => decide (contested.ctx? c.id = some c)) = true ∧
    (contested.contexts.all fun x => decide (x.2.state ≠ .suspended)) = true ∧
    ((contested.served 0).all fun c => decide (c.cls < 4) && (c.loop.lo.zip c.loop.ask).all fun x => decide (x.1 ≤ x.2)) = true := by decide
/-- R249: the class that comes first has what it asks for, and the other what is left. -/
theorem test_contested : let t := after (.allocation 0) contested
    [0, 1].map (fun i => (t.ctx? i).map fun c => (c.loop.nextPos.headD 0, c.loop.short)) = [some (60, false), some (36, true)] := by decide
/-- Eight page transfers have begun, and the saved context goes to another partition. -/
def eightTransfers : State :=
  { saved with contexts := saved.contexts.map fun x => (x.1, { x.2 with part := 1 })
               swaps := (List.range 8).flatMap fun i => swapping.swaps.map fun w => { w with id := 100 + i } }
theorem wit_Restore_waits : (eightTransfers.ctx? 0).map (fun c => (decide (c.part ≠ 0), c.state, c.image.isSome)) = some (true, .saved, true) ∧
    8 ≤ eightTransfers.transfers.length ∧ saved.transfers.length < 8 ∧ Served eightTransfers := ⟨by decide, by decide, by decide, rfl⟩
theorem wit_BankError_frame : let s := { withFifo s0 (fifo0 []) with contexts := [(0, c0), (1, { c0 with id := 1 })] }
    s.contexts.wf = true ∧ (s.ctx? 1).isSome = true ∧ (s.cluster? 0).map (fun c => c.banks.all fun b => decide (b.owner ≠ some 1)) = some true := by decide
theorem wit_MatrixReset : (granted.cluster? 0).map (fun c => (c.passes.map fun p => p.sets.map fun x => (x.grp, x.quarters.length), c.factor.length)) =
    some ([[(0, 1)]], 0) ∧ (granted.group? 0).map (fun g => (g.outstanding, g.psnOps)) = some (1, 0) := by decide
theorem test_matrixReset : ((after (.engineReset (.matrix 0)) granted).group? 0).map (fun g => (g.outstanding, g.psnOps)) = some (0, 1) := by decide
/-- Function 0 whose contexts have stopped, with a grant to a peer in its partition that has not run out, or has. -/
def boundGrant (expiry : Nat) : State := { hostState with peerGrants := [{ pageGrant false with expiry := expiry }] }
theorem wit_BaseBound_peers : ((boundGrant 100000).peerGrants.all fun l => l.vf == 0 && l.part == 0 && decide ((boundGrant 100000).now < l.expiry)) = true ∧
    ((boundGrant 0).peerGrants.all fun l => decide (l.expiry ≤ (boundGrant 0).now)) = true := by decide
theorem test_baseBound_waits : ((after (.baseBoundSet 0 0 0x10000 0x10000) (boundGrant 100000)).vfs == (boundGrant 100000).vfs) = true ∧
    (after (.baseBoundSet 0 0 0x10000 0x10000) (boundGrant 100000)).held.length = 1 := by decide
end Sys2Proof.Machine
end

section
/-!
The two statements on words that push divergence-stack entries (R32 to R34), both refuted. An entry stands in reserved memory, and its
line passes through the system share of L2 (R35, R159): the model does this in `State.stackSeen`. `Completes` says that every field of
the state but the groups and the contexts is as before, so no word that completes in its terms fills a line of L2. At reset L2 holds no
line: a word that pushes there fills the line of the new entry and is a counterexample.
-/
namespace Sys2Proof.Claims
open Sys2Proof.Machine

/-! ## L2 and a word that completes -/

theorem completes_keeps_l2 {s t : State} {g g' : Group} {slot : Bool} {p' : Path} {cls : Nat}
    (h : Completes s t g g' slot p' cls) : t.l2 = s.l2 := by
  rw [h.rest]

/-- The lines that L2 holds after a word, none where the word does not go on. -/
def linesAfter (i : Instr) (s : State) : List Nat :=
  match exec i s with
  | .next t => t.l2.map fun e => e.1
  | _ => []

theorem linesAfter_of_next {i : Instr} {s t : State} (h : exec i s = .next t) : linesAfter i s = t.l2.map fun e => e.1 := by
  unfold linesAfter
  rw [h]

/-! ## The states of the counterexamples -/

/-- A group of the module at reset with its 32 lanes on one path at offset 0, and room for one entry on its stack. -/
def onePath : Group := Group.fresh 0 0 0 0 0 0 false 0 0 0 1 1 1 (BitVec.allOnes 32) 0 0 0

/-- The path of that group. -/
def wholePath : Path := Path.start 0 (BitVec.allOnes 32) none 0

/-- A path of lanes 0 and 1. -/
def pairPath : Path := { wholePath with mask := 3 }

/-- Lanes 0 and 1 on the path of slot 0, the others on that of slot 1; v0 is 4 in lane 1 and 0 in every other lane. -/
def twoTargets : Group :=
  { onePath with v := [(1, 4)], path0 := some pairPath, path1 := some { wholePath with mask := ~~~3 } }

/-- What the checks of R74 leave of a word whose D alone may name a register, with no PFX word before it. -/
def operandsOf (d : Loc) : Operands :=
  { d := d, a := .absent, b := .absent, ps := Prefixes.none, chain := none, readsLatch := false }

theorem jset_operands :
    (formCtl .absent .absent .absent immOnly).operands onePath wholePath (jsetOk 1) = .ok (operandsOf .absent) := rfl

theorem jmpv_operands : (formV 0).operands twoTargets pairPath = .ok (operandsOf (.v 0)) := rfl

/-- The machine at reset with one group, whose slot 0 executes. -/
def resetWith (g : Group) : State := { State.reset with groups := [g], cur := some (g.id, false) }

theorem resetWith_at {g : Group} {p : Path} (h : g.path false = some p) : (resetWith g).At g false p := by
  simp [State.At, State.here, resetWith, State.group?, h]

/-- A word that fills a line at reset does not complete in the terms of `Completes`. -/
theorem not_completes_of_fill {i : Instr} {t : State} {g g' : Group} {slot : Bool} {p' : Path} {cls line : Nat}
    (hl : linesAfter i (resetWith g) = [line]) (ht : exec i (resetWith g) = .next t) :
    ¬ Completes (resetWith g) t g g' slot p' cls := by
  intro hc
  have hempty : t.l2 = [] := completes_keeps_l2 hc
  rw [linesAfter_of_next ht, hempty] at hl
  cases hl

/-- JSET fills the line of the entry it has pushed. -/
theorem linesAfter_jset : linesAfter (.jset 1) (resetWith onePath) = [stackKey 0 onePath 0 / 128] := by decide

/-- JMPV to two targets fills the line of the entry of the second where the other slot is taken. -/
theorem linesAfter_jmpv : linesAfter (.jmpv 0) (resetWith twoTargets) = [stackKey 0 twoTargets 0 / 128] := by decide

/-! ## The obligations -/

/-- Refutes O19: JSET at reset, with room on the stack, pushes its JOIN entry and so fills the entry's line into L2. -/
theorem not_divergentBranchSplits : ¬ Obligations.DivergentBranchSplits := by
  unfold Obligations.DivergentBranchSplits
  rintro ⟨-, hjset⟩
  obtain ⟨hinRange, -⟩ := hjset 1 (resetWith onePath) onePath false wholePath _ (resetWith_at rfl) jset_operands
  obtain ⟨hroom, -⟩ := hinRange (by decide)
  obtain ⟨t, g', ht, hc, -⟩ := hroom (by decide)
  exact not_completes_of_fill linesAfter_jset ht hc

/-- Refutes O20: JMPV of two lanes to the offsets 0 and 4 at reset, with the other slot taken and room on the stack, pushes the PATH entry of
offset 4 and so fills the entry's line into L2. -/
theorem not_vectorJumpsGroupByTarget : ¬ Obligations.VectorJumpsGroupByTarget := by
  unfold Obligations.VectorJumpsGroupByTarget
  intro h
  obtain ⟨hjmpv, -⟩ := h 0 (resetWith twoTargets) twoTargets false pairPath _ (resetWith_at rfl) jmpv_operands
  obtain ⟨htaken, -⟩ := hjmpv 0 [4] (by decide) (by decide)
  obtain ⟨t, g', ht, hc, -⟩ := htaken (by decide) (by decide)
  exact not_completes_of_fill linesAfter_jmpv ht hc

end Sys2Proof.Claims
end

section
/-!
The loop law at an interval boundary (R241 to R243, R247), for a context of one module. The parts of a boundary are said apart: the ladder
that forms the demanded positions, the next interval, the update of R242, what a boundary does to the registers, and the event itself.
-/
namespace Sys2Proof.Claims
open Sys2Proof.Machine

/-! ## Arithmetic of the update -/

theorem clampInt_eq_max_min {lo hi : Int} (h : lo ≤ hi) (x : Int) : clampInt x lo hi = max lo (min hi x) := by
  unfold clampInt
  split
  · omega
  · split <;> omega

/-- A level clamped to a 16-bit range stands in its register unchanged. -/
theorem toNat_ofNat_clamped {top : Nat} (h : top < 65536) (x : Int) :
    ((BitVec.ofNat 16 (max 0 (min (top : Int) x)).toNat).toNat : Int) = max 0 (min (top : Int) x) := by
  rw [BitVec.toNat_ofNat, Nat.mod_eq_of_lt (by omega)]
  omega

/-! ## The ladder (R247) -/

/-- An actuator gets what the ones before it leave of the level, up to its own range. -/
theorem formAsks_getElem? {rs : List (Nat × Nat)} {j lo hi : Nat} (rest : Nat) (h : rs[j]? = some (lo, hi)) :
    (formAsks rest rs)[j]? = some (lo + min (rest - ((rs.take j).map fun y => y.2 - y.1).sum) (hi - lo)) := by
  induction rs generalizing rest j with
  | nil => simp at h
  | cons r rs ih =>
    obtain ⟨rlo, rhi⟩ := r
    cases j with
    | zero =>
      obtain ⟨rfl, rfl⟩ : rlo = lo ∧ rhi = hi := by simpa using h
      simp [formAsks]
    | succ j =>
      have hleft (above : Nat) : rest - min rest (rhi - rlo) - above = rest - (rhi - rlo + above) := by omega
      simp only [formAsks, List.getElem?_cons_succ, List.take_succ_cons, List.map_cons, List.sum_cons]
      rw [ih _ h, hleft]

/-! ## The next interval (R240, R241) -/

theorem lt_boundaryAfter (now code : Nat) : now < boundaryAfter now code := by
  unfold boundaryAfter
  rw [mul_comm]
  exact Nat.lt_mul_div_succ now (by positivity)

theorem boundaryAfter_mod (now code : Nat) : boundaryAfter now code % 2 ^ (code + 10) = 0 := Nat.mul_mod_left _ _

theorem nextInterval_takeSet {l : LoopRegs} (h : l.pendingSet = none) : l.nextInterval.takeSet = l.nextInterval := by
  have hset : l.nextInterval.pendingSet = none := h
  simp only [LoopRegs.takeSet, hset]

/-! ## The update (R242) -/

/-- e of R242. -/
def loopError (t m : Nat) : Int := max (-32768) (min 32767 ((t : Int) - m))

/-- Inew of R242. -/
def newIntegral (l : LoopRegs) (t m : Nat) : Int := max l.imin (min l.imax (l.integ + loopError t m))

/-- x of R242, the level before it is clamped. -/
def freeLevel (l : LoopRegs) (t m : Nat) : Int :=
  (l.base.toNat : Int) + ((l.kp.toNat : Int) * loopError t m + (l.ki.toNat : Int) * newIntegral l t m) / 256

/-- L of R242: x clamped to 0 to Ltop. -/
def newLevel (l : LoopRegs) (t m : Nat) : Int := max 0 (min (l.ltop : Int) (freeLevel l t m))

/-- The model's update is the computation of R242, where IMIN to IMAX is a range. -/
theorem update_eq {l : LoopRegs} (t m : Nat) (h : l.imin ≤ l.imax) :
    l.update t m =
      ({ l with integ := newIntegral l t m, isat := decide (newIntegral l t m ≠ l.integ + loopError t m),
                level := BitVec.ofNat 16 (newLevel l t m).toNat, lsat := decide (newLevel l t m ≠ freeLevel l t m) }).withAsks := by
  have hlev (x : Int) : clampInt x 0 l.ltop = max 0 (min (l.ltop : Int) x) := clampInt_eq_max_min (by omega) x
  have herr : clampInt ((t : Int) - m) (-32768) 32767 = loopError t m := clampInt_eq_max_min (by decide) _
  have hint : clampInt (l.integ + loopError t m) l.imin l.imax = newIntegral l t m := clampInt_eq_max_min h _
  simp only [LoopRegs.update, herr, hint, hlev]
  rfl

theorem update_integ {l : LoopRegs} (t m : Nat) (h : l.imin ≤ l.imax) : (l.update t m).integ = newIntegral l t m := by
  rw [update_eq t m h]; rfl

theorem update_isat {l : LoopRegs} (t m : Nat) (h : l.imin ≤ l.imax) :
    (l.update t m).isat = true ↔ newIntegral l t m ≠ l.integ + loopError t m := by
  rw [update_eq t m h]; exact decide_eq_true_iff

theorem update_level {l : LoopRegs} (t m : Nat) (h : l.imin ≤ l.imax) (htop : l.ltop < 65536) :
    ((l.update t m).level.toNat : Int) = newLevel l t m := by
  rw [update_eq t m h]; exact toNat_ofNat_clamped htop _

theorem update_lsat {l : LoopRegs} (t m : Nat) (h : l.imin ≤ l.imax) :
    (l.update t m).lsat = true ↔ newLevel l t m ≠ freeLevel l t m := by
  rw [update_eq t m h]; exact decide_eq_true_iff

/-- The demanded positions follow from the level that the update gives (R241 step 4). -/
theorem update_ask (l : LoopRegs) (t m : Nat) :
    (l.update t m).ask = formAsks (l.update t m).level.toNat (l.lo.zip l.hi) := rfl

/-! ## What a boundary does to the registers (R243) -/

theorem outcome_of_held (l : LoopRegs) (t : BitVec 16) (m : Nat) : l.outcome t m true = { l with held := true } := rfl

theorem outcome_without_target (l : LoopRegs) (m : Nat) :
    l.outcome 0 m false = { l with held := false, meas := BitVec.ofNat 16 m } := rfl

theorem outcome_with_target (l : LoopRegs) {t : BitVec 16} (m : Nat) (ht : t ≠ 0) :
    l.outcome t m false = ({ l with held := false, meas := BitVec.ofNat 16 m } : LoopRegs).update t.toNat m := by
  exact if_neg ht

/-- Whatever a boundary does, the new interval's count and its end stand. -/
theorem outcome_keeps_interval (l : LoopRegs) (t : BitVec 16) (m : Nat) (held : Bool) :
    (l.outcome t m held).beats = l.beats ∧ (l.outcome t m held).late = l.late ∧
      (l.outcome t m held).nextBoundary = l.nextBoundary := by
  cases held with
  | true => exact ⟨rfl, rfl, rfl⟩
  | false =>
    by_cases ht : t = 0
    · subst ht
      exact ⟨rfl, rfl, rfl⟩
    · rw [outcome_with_target l m ht]
      exact ⟨rfl, rfl, rfl⟩

/-- A boundary that is not held clears HELD and records the count in MEAS. -/
theorem outcome_records (l : LoopRegs) (t : BitVec 16) (m : Nat) :
    (l.outcome t m false).held = false ∧ (l.outcome t m false).meas = BitVec.ofNat 16 m := by
  by_cases ht : t = 0
  · subst ht
    exact ⟨rfl, rfl⟩
  · rw [outcome_with_target l m ht]
    exact ⟨rfl, rfl⟩

/-! ## The event -/

/-- What is written into a context depends on the context that stands there alone. -/
theorem modCtx_congr {s : State} {cid : Nat} {c : Context} {f g : Context → Context} (hc : s.ctx? cid = some c) (h : f c = g c) :
    s.modCtx cid f = s.modCtx cid g := by
  have hget : s.contexts.get? cid = some c := hc
  simp only [State.modCtx, Map.modify, hget, h]

/-- The registers after a boundary of a context of one module. -/
def boundaryLoop (l : LoopRegs) : LoopRegs := l.nextInterval.outcome l.tgt (min l.beats 65535) (!l.liveThroughout)

/-- LOOP_BOUNDARY of a context of one module, when its boundary has come, writes that context's loop registers and nothing else. -/
theorem exec_loopBoundary_single {s : State} {cid : Nat} {c : Context} (hc : s.ctx? cid = some c) (hivl : c.loop.ivl ≠ 0)
    (hdue : c.loop.nextBoundary ≤ s.now) (hmerge : c.merge = none) (hopen : c.loop.opening = false) (hone : c.members = [])
    (hset : c.loop.pendingSet = none) (htgt : c.loop.tgtOld = none) :
    exec (.loopBoundary cid) s = .next (s.modCtx cid fun c' => { c' with loop := boundaryLoop c.loop }) := by
  have hcomes : (c.loop.ivl == 0 || decide (s.now < c.loop.nextBoundary) || c.mergeOpen) = false := by
    simp [hivl, Nat.not_lt.mpr hdue, Context.mergeOpen, hmerge]
  have hev : onLoopBoundary cid s = some (s.modCtx cid fun c' => { c' with loop := boundaryLoop c.loop }) := by
    simp only [onLoopBoundary, hc, hcomes, hopen, hone, htgt, nextInterval_takeSet hset, Bool.false_eq_true, if_false, Option.getD_none,
      List.isEmpty_nil, Bool.true_or, if_true, Option.some.injEq]
    exact modCtx_congr hc (by simp [hone, boundaryLoop])
  exact congrArg s.occurs hev

theorem boundaryLoop_of_held {l : LoopRegs} (h : l.liveThroughout = false) :
    boundaryLoop l = { l.nextInterval with held := true } := by
  rw [boundaryLoop, h]; exact outcome_of_held _ _ _

theorem boundaryLoop_of_live {l : LoopRegs} (h : l.liveThroughout = true) :
    boundaryLoop l = l.nextInterval.outcome l.tgt (min l.beats 65535) false := by
  rw [boundaryLoop, h]; rfl

/-- The registers that the update of a boundary starts from (R241 steps 1 and 3): those of the new interval with the count in MEAS. -/
def counted (l : LoopRegs) : LoopRegs := { l.nextInterval with held := false, meas := BitVec.ofNat 16 (min l.beats 65535) }

theorem boundaryLoop_without_target {l : LoopRegs} (h : l.liveThroughout = true) (ht : l.tgt = 0) : boundaryLoop l = counted l := by
  rw [boundaryLoop_of_live h, ht]; exact outcome_without_target _ _

theorem boundaryLoop_with_target {l : LoopRegs} (h : l.liveThroughout = true) (ht : l.tgt ≠ 0) :
    boundaryLoop l = (counted l).update l.tgt.toNat (min l.beats 65535) := by
  rw [boundaryLoop_of_live h, outcome_with_target _ _ ht]; rfl

/-- The demanded position of each actuator after a boundary with a target. -/
theorem boundaryLoop_ask {l : LoopRegs} (h : l.liveThroughout = true) (ht : l.tgt ≠ 0) {j lo hi : Nat}
    (hlo : l.lo[j]? = some lo) (hhi : l.hi[j]? = some hi) :
    (boundaryLoop l).ask[j]? =
      some (lo + min ((boundaryLoop l).level.toNat - (((l.lo.zip l.hi).take j).map fun y => y.2 - y.1).sum) (hi - lo)) := by
  have hrange : (l.lo.zip l.hi)[j]? = some (lo, hi) := List.getElem?_zip_eq_some.mpr ⟨hlo, hhi⟩
  rw [boundaryLoop_with_target h ht, update_ask]
  exact formAsks_getElem? _ hrange

/-! ## The obligation -/

/-- Settles O50: the event writes `boundaryLoop` into the context, and its registers are taken case by case (held, target 0, a target). -/
theorem loopLawAtABoundary : Obligations.LoopLawAtABoundary := by
  unfold Obligations.LoopLawAtABoundary
  intro s cid c hc hivl hdue hmerge hopen hone hset htgt
  have hctx : (s.modCtx cid fun c' => { c' with loop := boundaryLoop c.loop }).ctx? cid = some { c with loop := boundaryLoop c.loop } := by
    simp [State.ctx?_modCtx, hc]
  obtain ⟨hbeats, hlate, hnext⟩ := outcome_keeps_interval c.loop.nextInterval c.loop.tgt (min c.loop.beats 65535) (!c.loop.liveThroughout)
  refine ⟨_, _, exec_loopBoundary_single hc hivl hdue hmerge hopen hone hset htgt, hctx, hbeats, hlate, ?_, ?_, rfl, rfl, ?_, ?_⟩
  · exact hnext ▸ lt_boundaryAfter c.loop.nextBoundary c.loop.ivl
  · exact hnext ▸ boundaryAfter_mod c.loop.nextBoundary c.loop.ivl
  · intro hdown
    rw [boundaryLoop_of_held hdown]
    exact ⟨rfl, rfl, rfl, rfl⟩
  · intro hlive
    obtain ⟨hheld, hmeas⟩ := outcome_records c.loop.nextInterval c.loop.tgt (min c.loop.beats 65535)
    refine ⟨?_, ?_, fun hoff => ?_, fun hon hrange htop => ?_⟩
    · rw [boundaryLoop_of_live hlive, hheld]
    · rw [boundaryLoop_of_live hlive, hmeas, BitVec.toNat_ofNat, Nat.mod_eq_of_lt (by omega)]
    · rw [boundaryLoop_without_target hlive hoff]
      exact ⟨rfl, rfl⟩
    · have hupd := boundaryLoop_with_target hlive hon
      refine ⟨?_, ?_, ?_, ?_, fun j lo hi hlo hhi => boundaryLoop_ask hlive hon hlo hhi⟩
      · rw [hupd]; exact update_integ (l := counted c.loop) _ _ hrange
      · rw [hupd]; exact update_level (l := counted c.loop) _ _ hrange htop
      · rw [hupd]; exact update_isat (l := counted c.loop) _ _ hrange
      · rw [hupd]; exact update_lsat (l := counted c.loop) _ _ hrange

end Sys2Proof.Claims
end

section
/-!
The plain lane words of two, three and one sources (R299, R300, R315). What a plain lane word leaves once its operands and queues are there
is said for every form; then each row of the tables `laneTwo`, `laneFloatTwo`, `laneThree`, `laneOne` and `laneFloatOne` is shown to be such
a word with the row's energy class and the row's function. Where the model computes a function in another way than the row writes it, the
two are proved equal for every operand first.
-/
namespace Sys2Proof.Claims
open Sys2Proof.Machine

/-! ## What a plain lane word leaves -/

/-- A plain lane word whose checks pass writes `body` of its sources to its destination, and changes what `WritesLanes` allows. -/
theorem lanePlain_writes {s : State} {g : Group} {slot : Bool} {p : Path} (h : s.At g slot p) {f : Form} {acc : Bool} {cls : Nat}
    {ok : Prefixes → Bool} {r : Operands} {row : Option Row} (ho : f.operands g p ok = .ok r)
    (hb : accInBounds g f.u acc r.d = true) (hq : queueCheck s g p.lanes r.a.queue? r.d.queue? = .ok row)
    (body : Prefixes → Word → Word → Word → Word) :
    ∃ t, lanePlain f acc cls ok body s = .next t ∧
      WritesLanes s t g slot p r f.nw (if f.u then 0 else cls) fun i =>
        body r.ps (r.laneSrc g row r.a i) (r.laneSrc g row r.b i) (if acc then accSrc g f.u r.d i else 0) := by
  obtain ⟨-, hgroup, hpath⟩ := State.here_some h
  exact ⟨_, lanePlain_next h ho hb hq body, State.laneResult_writes hgroup hpath ..⟩

/-- An accumulating lane word whose D is no group register of the group, under U = 1, raises REG_BOUNDS (R27, R299). -/
theorem lanePlain_regBounds {s : State} {g : Group} {slot : Bool} {p : Path} (h : s.At g slot p) {f : Form} {acc : Bool} {cls : Nat}
    {ok : Prefixes → Bool} {r : Operands} (ho : f.operands g p ok = .ok r) (hb : accInBounds g f.u acc r.d = false)
    (body : Prefixes → Word → Word → Word → Word) :
    lanePlain f acc cls ok body s = .next (s.trapPath g.id slot .regBounds p.lanes 0) := by
  unfold lanePlain
  rw [State.word_at h]
  simp only [ho, hb, trapIf, bind, Except.bind, Bool.not_false, if_true, State.settle]

theorem accInBounds_of_not_acc (g : Group) (u : Bool) (d : Loc) : accInBounds g u false d = true := by
  simp [accInBounds]

theorem accInBounds_acc_iff (g : Group) (u : Bool) (d : Loc) : accInBounds g u true d = true ↔ u = false ∨ d.num < g.gCount := by
  simp [accInBounds]

section
variable {s : State} {g : Group} {slot : Bool} {p : Path} {r : Operands} {row : Option Row}

/-- A word of two sources. -/
theorem lane2_writes {o : LaneR} (h : s.At g slot p) (ho : (formR o regOnly).operands g p = .ok r)
    (hq : queueCheck s g p.lanes r.a.queue? r.d.queue? = .ok row) (cls : Nat) (f : Word → Word → Word) :
    ∃ t, lane2 o cls f s = .next t ∧
      WritesLanes s t g slot p r o.nw (if o.u then 0 else cls) fun i => f (r.laneSrc g row r.a i) (r.laneSrc g row r.b i) :=
  lanePlain_writes h ho (accInBounds_of_not_acc ..) hq fun _ a b _ => f a b

/-- An accumulating word. -/
theorem lane3_writes {o : LaneR} (h : s.At g slot p) (ho : (formR o regOnly).operands g p = .ok r)
    (hb : o.u = false ∨ r.d.num < g.gCount) (hq : queueCheck s g p.lanes r.a.queue? r.d.queue? = .ok row) (cls : Nat)
    (f : Word → Word → Word → Word) :
    ∃ t, lane3 o cls f s = .next t ∧
      WritesLanes s t g slot p r o.nw (if o.u then 0 else cls) fun i =>
        f (r.laneSrc g row r.a i) (r.laneSrc g row r.b i) (if o.u then g.greg r.d.num else g.vreg r.d.num i) :=
  lanePlain_writes (acc := true) h ho ((accInBounds_acc_iff ..).mpr hb) hq fun _ a b d => f a b d

theorem lane3_regBounds {o : LaneR} (h : s.At g slot p) (ho : (formR o regOnly).operands g p = .ok r) (hu : o.u = true)
    (hd : g.gCount ≤ r.d.num) (cls : Nat) (f : Word → Word → Word → Word) :
    lane3 o cls f s = .next (s.trapPath g.id slot .regBounds p.lanes 0) := by
  have hout : accInBounds g o.u true r.d = false := by simp [accInBounds, hu, hd]
  exact lanePlain_regBounds h ho hout fun _ a b d => f a b d

/-- A word of one source. -/
theorem lane1_writes {o : LaneU} (h : s.At g slot p) (ho : (formA o.u o.nw o.d o.a regOnly).operands g p = .ok r)
    (hq : queueCheck s g p.lanes r.a.queue? r.d.queue? = .ok row) (cls : Nat) (f : Word → Word) :
    ∃ t, lane1 o cls f s = .next t ∧
      WritesLanes s t g slot p r o.nw (if o.u then 0 else cls) fun i => f (r.laneSrc g row r.a i) :=
  lanePlain_writes h ho (accInBounds_of_not_acc ..) hq fun _ a _ _ => f a

end

/-! ## A lane word depends on its function's values alone -/

theorem lane2_congr {f f' : Word → Word → Word} (h : ∀ a b, f a b = f' a b) (o : LaneR) (cls : Nat) (s : State) :
    lane2 o cls f s = lane2 o cls f' s := by
  rw [show f = f' from funext₂ h]

theorem lane1_congr {f f' : Word → Word} (h : ∀ a, f a = f' a) (o : LaneU) (cls : Nat) (s : State) :
    lane1 o cls f s = lane1 o cls f' s := by
  rw [show f = f' from funext h]

/-! ## Integer results of two sources (R361, R363, R364, R410, R462) -/

/-- Bits 63 to 32 of an integer's low 64 bits are the low 32 bits of its quotient by 2^32. -/
theorem extractLsb'_ofInt (z : Int) : (BitVec.ofInt 64 z).extractLsb' 32 32 = BitVec.ofInt 32 (z / 4294967296) := by
  apply BitVec.eq_of_toNat_eq
  simp only [BitVec.extractLsb'_toNat, BitVec.toNat_ofInt, Nat.shiftRight_eq_div_pow]
  omega

theorem mulHighS_eq (a b : Word) : mulHighS a b = (a.signExtend 64 * b.signExtend 64).extractLsb' 32 32 := by
  unfold mulHighS wordOf BitVec.signExtend
  rw [← BitVec.ofInt_mul, extractLsb'_ofInt]

theorem mulHighN_eq (a b : Word) : mulHighN a b = (a.setWidth 64 * b.setWidth 64).extractLsb' 32 32 := by
  have hprod : a.toNat * b.toNat < 2 ^ 64 := by
    have := Nat.mul_lt_mul'' a.isLt b.isLt
    omega
  apply BitVec.eq_of_toNat_eq
  rw [mulHighN, BitVec.toNat_ofNat, BitVec.extractLsb'_toNat, BitVec.toNat_mul, BitVec.toNat_setWidth_of_le (by decide),
    BitVec.toNat_setWidth_of_le (by decide), Nat.mod_eq_of_lt hprod, Nat.shiftRight_eq_div_pow]

theorem shlWord_eq (a b : Word) : shlWord a b = BitVec.ofNat 32 (a.toNat * 2 ^ b.toNat) := by
  have hshift : a <<< b.toNat = BitVec.ofNat 32 (a.toNat * 2 ^ b.toNat) := by
    apply BitVec.eq_of_toNat_eq
    simp [Nat.shiftLeft_eq]
  unfold shlWord
  split
  case isTrue h => rw [← hshift, BitVec.shiftLeft_eq_zero h]; rfl
  case isFalse => exact hshift

theorem shrWord_eq (a b : Word) : shrWord a b = BitVec.ofNat 32 (a.toNat / 2 ^ b.toNat) := by
  have hshift : a >>> b.toNat = BitVec.ofNat 32 (a.toNat / 2 ^ b.toNat) := by
    apply BitVec.eq_of_toNat_eq
    rw [BitVec.toNat_ushiftRight, Nat.shiftRight_eq_div_pow, BitVec.toNat_ofNat,
      Nat.mod_eq_of_lt (lt_of_le_of_lt (Nat.div_le_self ..) a.isLt)]
  unfold shrWord
  split
  case isTrue h => rw [← hshift, BitVec.ushiftRight_eq_zero h]; rfl
  case isFalse => exact hshift

/-- An arithmetic shift by 32 or more leaves the sign in every bit. -/
theorem sshiftRight_of_ge {n : Nat} (a : Word) (h : 32 ≤ n) : a.sshiftRight n = if a.msb then BitVec.allOnes 32 else 0 := by
  apply BitVec.eq_of_getLsbD_eq
  intro i hi
  have hout : ¬ n + i < 32 := by omega
  rw [BitVec.getLsbD_sshiftRight, if_neg hout]
  cases a.msb
  · simp
  · simp [hi, -BitVec.reduceAllOnes]

theorem sraWord_eq (a b : Word) : sraWord a b = BitVec.ofInt 32 (a.toInt / 2 ^ b.toNat) := by
  have hshift : a.sshiftRight b.toNat = BitVec.ofInt 32 (a.toInt / 2 ^ b.toNat) := by
    rw [BitVec.sshiftRight, Int.shiftRight_eq_div_pow, Nat.cast_pow, Nat.cast_ofNat]
  unfold sraWord
  split
  case isTrue h => rw [← hshift, sshiftRight_of_ge a h]
  case isFalse => exact hshift

/-- Of two values that agree where their keys do, it is the same to choose by < and by ≤ of the keys. -/
theorem ite_lt_eq_ite_le {α β : Type} [LinearOrder β] {m n : β} {x y : α} (h : m = n → x = y) :
    (if m < n then x else y) = if m ≤ n then x else y := by
  rcases lt_trichotomy m n with hlt | heq | hgt
  · rw [if_pos hlt, if_pos hlt.le]
  · rw [h heq, ite_self, ite_self]
  · rw [if_neg hgt.not_gt, if_neg hgt.not_ge]

theorem minS_eq (a b : Word) : minS a b = if a.toInt ≤ b.toInt then a else b := by
  simp only [minS, BitVec.slt_iff_toInt_lt]
  exact ite_lt_eq_ite_le BitVec.eq_of_toInt_eq

theorem maxS_eq (a b : Word) : maxS a b = if a.toInt ≤ b.toInt then b else a := by
  simp only [maxS, BitVec.slt_iff_toInt_lt]
  exact ite_lt_eq_ite_le fun h => (BitVec.eq_of_toInt_eq h).symm

theorem minN_eq (a b : Word) : minN a b = if a.toNat ≤ b.toNat then a else b := by
  simp only [minN, BitVec.ult_iff_toNat_lt]
  exact ite_lt_eq_ite_le BitVec.eq_of_toNat_eq

theorem maxN_eq (a b : Word) : maxN a b = if a.toNat ≤ b.toNat then b else a := by
  simp only [maxN, BitVec.ult_iff_toNat_lt]
  exact ite_lt_eq_ite_le fun h => (BitVec.eq_of_toNat_eq h).symm

/-- A comparison's word is 1 where what it decides holds, else 0 (R6). -/
theorem boolWord_of_iff {b : Bool} {P : Prop} [Decidable P] (h : b = true ↔ P) : boolWord b = if P then 1 else 0 :=
  if_congr h rfl rfl

theorem boolWord_beq (a b : Word) : boolWord (a == b) = if a = b then 1 else 0 := boolWord_of_iff beq_iff_eq

theorem boolWord_slt (a b : Word) : boolWord (a.slt b) = if a.toInt < b.toInt then 1 else 0 := boolWord_of_iff BitVec.slt_iff_toInt_lt

theorem boolWord_sle (a b : Word) : boolWord (a.sle b) = if a.toInt ≤ b.toInt then 1 else 0 := boolWord_of_iff BitVec.sle_iff_toInt_le

theorem boolWord_ult (a b : Word) : boolWord (a.ult b) = if a.toNat < b.toNat then 1 else 0 := boolWord_of_iff BitVec.ult_iff_toNat_lt

theorem boolWord_ule (a b : Word) : boolWord (a.ule b) = if a.toNat ≤ b.toNat then 1 else 0 := boolWord_of_iff BitVec.ule_iff_toNat_le

theorem boolWord_bne (a b : Word) : boolWord (a != b) = if a = b then 0 else 1 := by
  rw [boolWord_of_iff bne_iff_ne, ite_not]

theorem not_eq_xor (a : Word) : ~~~a = a ^^^ 0xFFFFFFFF := BitVec.xor_allOnes.symm

/-! ## Integer results of one source (R303, R331, R381) -/

theorem absWord_eq (a : Word) : absWord a = BitVec.ofNat 32 a.toInt.natAbs := by
  apply BitVec.eq_of_toNat_eq
  rw [absWord, ← BitVec.abs_eq, BitVec.toNat_abs, BitVec.toInt_eq_msb_cond, BitVec.toNat_ofNat]
  have hlt := a.isLt
  cases hm : a.msb
  case false => simp [Nat.mod_eq_of_lt hlt]
  case true =>
    have hge := BitVec.toNat_ge_of_msb_true hm
    simp only [if_true]
    omega

theorem clzWord_eq (a : Word) : clzWord a = BitVec.ofNat 32 (if a = 0 then 32 else 31 - Nat.log2 a.toNat) := by
  rw [clzWord, apply_ite (BitVec.ofNat 32)]
  rfl

theorem popcWord_eq (a : Word) : popcWord a = BitVec.ofNat 32 ((List.range 32).countP fun i => a.getLsbD i) := by
  rw [popcWord, List.countP_eq_length_filter]

/-- The reversal after its first n steps: bit j holds bit 31 - j once that one has been taken. -/
theorem getLsbD_brev_steps (a : Word) (n j : Nat) (hn : n ≤ 32) (hj : j < 32) :
    ((List.range n).foldl (fun r k => if a.getLsbD k then r ||| (1#32 <<< (31 - k)) else r) 0#32).getLsbD j =
      (decide (31 - j < n) && a.getLsbD (31 - j)) := by
  induction n with
  | zero => simp
  | succ n ih =>
    have hbit : (1#32 <<< (31 - n)).getLsbD j = decide (31 - j = n) := by
      rw [Bool.eq_iff_iff]
      simp only [BitVec.getLsbD_shiftLeft, BitVec.getLsbD_one, Bool.and_eq_true, Bool.not_eq_true', decide_eq_true_eq,
        decide_eq_false_iff_not]
      omega
    have hstep (r : Word) : (if a.getLsbD n then r ||| (1#32 <<< (31 - n)) else r).getLsbD j =
        (r.getLsbD j || a.getLsbD n && decide (31 - j = n)) := by
      cases a.getLsbD n
      · simp
      · simp [hbit]
    rw [List.range_succ, List.foldl_append, List.foldl_cons, List.foldl_nil, hstep, ih (by omega)]
    by_cases hjn : 31 - j = n
    · simp [hjn]
    · have hlt : 31 - j < n + 1 ↔ 31 - j < n := by omega
      simp [hjn, hlt]

theorem brevWord_eq (a : Word) : brevWord a = a.reverse := by
  apply BitVec.eq_of_getLsbD_eq
  intro j hj
  have hlast : 31 - j < 32 := by omega
  rw [BitVec.getLsbD_reverse, BitVec.getMsbD_eq_getLsbD]
  exact (getLsbD_brev_steps a 32 j le_rfl hj).trans (by simp [hlast, hj])

/-! ## Floating-point results (R354, R355) -/

theorem field_eq_extractLsb' (w : Word) (lo n : Nat) : field w lo n = (w.extractLsb' lo n).toNat := by
  rw [field, BitVec.extractLsb'_toNat, Nat.shiftRight_eq_div_pow]

/-- Changing bit 31 changes the sign of the value alone. -/
theorem fpOf_xor_sign (b : Word) : fpOf (b ^^^ 0x80000000) = fpNeg (fpOf b) := by
  have hexp : field (b ^^^ 0x80000000) 23 8 = field b 23 8 := by
    simp [field_eq_extractLsb', BitVec.extractLsb'_xor]
  have hfrac : field (b ^^^ 0x80000000) 0 23 = field b 0 23 := by
    simp [field_eq_extractLsb', BitVec.extractLsb'_xor]
  have hsign : bitAt (b ^^^ 0x80000000) 31 = !bitAt b 31 := by
    simp [bitAt]
  simp only [fpOf, hexp, hfrac, hsign]
  split
  · split <;> rfl
  · split <;> rfl

theorem fsub_eq (a b : Word) : fsub a b = fadd a (b ^^^ 0x80000000) := by
  rw [fadd, fpOf_xor_sign, fsub]

theorem fcmpLe_eq (a b : Word) : fcmpLe a b = (fcmpEq a b || fcmpLt a b) := by
  simp only [fcmpLe, fcmpEq, fcmpLt, ← Bool.and_or_distrib_left, le_iff_eq_or_lt, Bool.decide_or]
  rfl

/-- BF2FH reads the upper half, which stands in the lower one after a shift by 16 (R326). -/
theorem bf2fh_eq (a : Word) : bf2fh a = bf2f (a >>> 16) := by
  have hhalf : field a 16 16 = field (a >>> 16) 0 16 := by
    simp [field, Nat.shiftRight_eq_div_pow]
  rw [bf2fh, hhalf, bf2f]

/-! ## The rows of the tables -/

theorem laneTwo_encode : ∀ e ∈ laneTwo, encode (e.1 ⟨false, false, 1, 2, 3⟩) = some e.2.1 := by decide
theorem laneFloatTwo_encode : ∀ e ∈ laneFloatTwo, encode (e.1 ⟨false, false, 1, 2, 3⟩) = some e.2.1 := by decide
theorem laneThree_encode : ∀ e ∈ laneThree, encode (e.1 ⟨false, false, 1, 2, 3⟩) = some e.2.1 := by decide
theorem laneOne_encode : ∀ e ∈ laneOne, encode (e.1 ⟨false, false, 3, 5⟩) = some e.2.1 := by decide
theorem laneFloatOne_encode : ∀ e ∈ laneFloatOne, encode (e.1 ⟨false, false, 3, 5⟩) = some e.2.1 := by decide

theorem laneTwo_exec : ∀ e ∈ laneTwo, ∀ o s, exec (e.1 o) s = lane2 o e.2.2.1 e.2.2.2 s := by
  simp only [laneTwo, List.forall_mem_cons]
  refine ⟨?iadd, ?isub, ?imul, ?imulhs, ?imulhn, ?and, ?or, ?xor, ?andn, ?shl, ?shr, ?sra, ?imins, ?imaxs, ?iminn, ?imaxn,
    ?icmpeq, ?icmpne, ?icmplt, ?icmple, ?icmpltn, ?icmplen, ?mix, List.forall_mem_nil _⟩
  case imulhs => exact fun o s => lane2_congr mulHighS_eq o 1 s
  case imulhn => exact fun o s => lane2_congr mulHighN_eq o 1 s
  case andn => exact fun o s => lane2_congr (fun a b => congrArg (a &&& ·) (not_eq_xor b)) o 1 s
  case shl => exact fun o s => lane2_congr shlWord_eq o 1 s
  case shr => exact fun o s => lane2_congr shrWord_eq o 1 s
  case sra => exact fun o s => lane2_congr sraWord_eq o 1 s
  case imins => exact fun o s => lane2_congr minS_eq o 1 s
  case imaxs => exact fun o s => lane2_congr maxS_eq o 1 s
  case iminn => exact fun o s => lane2_congr minN_eq o 1 s
  case imaxn => exact fun o s => lane2_congr maxN_eq o 1 s
  case icmpeq => exact fun o s => lane2_congr boolWord_beq o 1 s
  case icmpne => exact fun o s => lane2_congr boolWord_bne o 1 s
  case icmplt => exact fun o s => lane2_congr boolWord_slt o 1 s
  case icmple => exact fun o s => lane2_congr boolWord_sle o 1 s
  case icmpltn => exact fun o s => lane2_congr boolWord_ult o 1 s
  case icmplen => exact fun o s => lane2_congr boolWord_ule o 1 s
  all_goals exact fun _ _ => rfl

theorem laneFloatTwo_exec : ∀ e ∈ laneFloatTwo, ∀ o s, exec (e.1 o) s = lane2 o e.2.2.1 e.2.2.2 s := by
  simp only [laneFloatTwo, List.forall_mem_cons]
  refine ⟨?fadd, ?fsub, ?fmul, ?fmin, ?fmax, ?fcmpeq, ?fcmplt, ?fcmple, ?fcmpun, ?badd2, ?bmul2, List.forall_mem_nil _⟩
  case fsub => exact fun o s => lane2_congr fsub_eq o 2 s
  case fcmple => exact fun o s => lane2_congr (fun a b => congrArg boolWord (fcmpLe_eq a b)) o 2 s
  all_goals exact fun _ _ => rfl

theorem laneThree_exec : ∀ e ∈ laneThree, ∀ o s, exec (e.1 o) s = lane3 o e.2.2.1 e.2.2.2 s := by
  simp only [laneThree, List.forall_mem_cons]
  refine ⟨?imad, ?sel, ?ffma, ?bfma2, ?bdot2, List.forall_mem_nil _⟩
  all_goals exact fun _ _ => rfl

theorem laneOne_exec : ∀ e ∈ laneOne, ∀ o s, exec (e.1 o) s = lane1 o e.2.2.1 e.2.2.2 s := by
  simp only [laneOne, List.forall_mem_cons]
  refine ⟨?mov, ?neg, ?not, ?abs, ?clz, ?popc, ?brev, List.forall_mem_nil _⟩
  case neg => exact fun o s => lane1_congr (fun a => (BitVec.zero_sub a).symm) o 1 s
  case not => exact fun o s => lane1_congr not_eq_xor o 1 s
  case abs => exact fun o s => lane1_congr absWord_eq o 1 s
  case clz => exact fun o s => lane1_congr clzWord_eq o 1 s
  case popc => exact fun o s => lane1_congr popcWord_eq o 1 s
  case brev => exact fun o s => lane1_congr brevWord_eq o 1 s
  all_goals exact fun _ _ => rfl

/-- The rows of the floating-point table name the model's functions, or write them out as the model does. -/
theorem laneFloatOne_exec : ∀ e ∈ laneFloatOne, ∀ o s, exec (e.1 o) s = lane1 o e.2.2.1 e.2.2.2 s := by
  simp only [laneFloatOne, List.forall_mem_cons]
  refine ⟨?fneg, ?fabs, ?f2i, ?f2iz, ?f2n, ?f2nz, ?i2f, ?n2f, ?f2bf, ?bf2f, ?bf2fh, ?rcp, ?rsq, ?sqrt, ?exp2, ?log2, ?sin, ?cos, ?tanh,
    ?floor, ?ceil, ?trunc, ?rint, ?dq8, List.forall_mem_nil _⟩
  case bf2fh => exact fun o s => lane1_congr bf2fh_eq o 2 s
  all_goals exact fun _ _ => rfl

/-! ## The obligations -/

/-- Settles O11: every row of the three tables is a plain lane word of its function, and such a word
completes with that function's values. -/
theorem laneSourceResults : Obligations.LaneSourceResults := by
  unfold Obligations.LaneSourceResults
  refine ⟨fun e he => ⟨laneTwo_encode e he, ?_⟩, fun e he => ⟨laneFloatTwo_encode e he, ?_⟩,
    fun e he => ⟨laneThree_encode e he, ?_⟩⟩
  · intro o s g slot p r row hat ho hq
    rw [laneTwo_exec e he]
    exact lane2_writes hat ho hq ..
  · intro o s g slot p r row hat ho hq
    rw [laneFloatTwo_exec e he]
    exact lane2_writes hat ho hq ..
  · intro o s g slot p r row hat ho
    rw [laneThree_exec e he]
    exact ⟨fun hd hq => lane3_writes hat ho hd hq .., fun hu hd => lane3_regBounds hat ho hu hd ..⟩

/-- Settles O12: every row of the two tables is a plain lane word of its function, and such a word completes with that function's values. -/
theorem laneUnaryResults : Obligations.LaneUnaryResults := by
  unfold Obligations.LaneUnaryResults
  refine ⟨fun e he => ⟨laneOne_encode e he, ?_⟩, fun e he => ⟨laneFloatOne_encode e he, ?_⟩⟩
  · intro o s g slot p r row hat ho hq
    rw [laneOne_exec e he]
    exact lane1_writes hat ho hq ..
  · intro o s g slot p r row hat ho hq
    rw [laneFloatOne_exec e he]
    exact lane1_writes hat ho hq ..

end Sys2Proof.Claims
end

section
/-!
The uniform arithmetic words (R435 to R438, R441 to R444, R447 to R453). What such a word leaves once its operands are there is said for
every form; then each row of the tables `uniTwo`, `uniThree`, `uniOne` and `uniShifts` is shown to be such a word with the row's function.
UADD64 and
USUB64 read and write their pairs as 64-bit words.
-/
namespace Sys2Proof.Claims
open Sys2Proof.Machine

/-! ## Operands -/

/-- A word whose operands are there has passed its check on the immediate of its PFX words (R67). -/
theorem operands_immediate_ok {f : Form} {g : Group} {p : Path} {ok : Prefixes → Bool} {r : Operands}
    (h : f.operands g p ok = .ok r) : ok r.ps = true := by
  unfold Form.operands at h
  split at h
  case h_1 => cases h
  case h_2 ps d a b _ =>
    cases hps : ok ps
    case false => simp [hps] at h
    case true =>
      simp only [hps] at h
      repeat' split at h
      all_goals (cases h <;> exact hps)

/-- A shift count that passes QMUL's check is used whole (R67, R102). -/
theorem qmulCount_of_ok {ps : Prefixes} (h : qmulOk ps = true) : qmulCount ps = (ps.imm.map fun v => v.toNat).getD 16 := by
  unfold qmulOk at h
  unfold qmulCount
  cases himm : ps.imm with
  | none => rfl
  | some v =>
    have hlt : v.toNat < 31 := by simpa [himm] using h
    exact Nat.mod_eq_of_lt (by omega)

/-! ## What a uniform word leaves -/

section
variable {s : State} {g : Group} {slot : Bool} {p : Path} {r : Operands}

/-- A uniform arithmetic word whose checks pass writes its result x to g[D] and, in its chain, to the latch. -/
theorem uniPlain_writes (h : s.At g slot p) {f : Form} {ok : Prefixes → Bool} (ho : f.operands g p ok = .ok r)
    {body : Prefixes → Word → Word → Word → Word} {x : Word}
    (hx : body r.ps (r.uniSrc g r.a) (r.uniSrc g r.b) (g.greg r.d.num) = x) :
    ∃ t, uniPlain f ok body s = .next t ∧ WritesG s t g slot (chained s p r x) r.d.num x 0 := by
  subst hx
  obtain ⟨-, hgroup, hpath⟩ := State.here_some h
  exact ⟨_, uniPlain_next h ho body, State.finishAt_writesG hgroup hpath ..⟩

/-- A uniform arithmetic word whose checks pass writes a result with the property P that its value has. -/
theorem uniPlain_writes_of (h : s.At g slot p) {f : Form} {ok : Prefixes → Bool} (ho : f.operands g p ok = .ok r)
    {body : Prefixes → Word → Word → Word → Word} {P : Word → Prop}
    (hP : P (body r.ps (r.uniSrc g r.a) (r.uniSrc g r.b) (g.greg r.d.num))) :
    ∃ t x, uniPlain f ok body s = .next t ∧ WritesG s t g slot (chained s p r x) r.d.num x 0 ∧ P x := by
  obtain ⟨t, ht, hw⟩ := uniPlain_writes h ho rfl
  exact ⟨t, _, ht, hw, hP⟩

/-- Completing a word that writes a run of group registers. -/
theorem finishAt_setGs_writes (hs : s.group? g.id = some g) (hp : g.path slot = some p) (d : Nat) (ws : List Word) (pc : Word)
    (c : Chain) (cls : Nat) :
    ∃ g', Completes s (s.finishAt (g.setGs d ws) slot pc c cls) g g' slot (p.done s.ticks pc c) cls ∧ g.OnlyGroupRegs g' slot ∧
      ∀ k, g'.greg k = (g.setGs d ws).greg k := by
  have hpath (b : Bool) : (g.setGs d ws).path b = g.path b := by rw [Group.setGs_only]; cases b <;> rfl
  refine ⟨_, State.finishAt_completes (by rw [hs]; rfl) (Group.setGs_id ..) (Group.setGs_ctx ..) ((hpath slot).trans hp) pc c cls,
    ⟨?_, ?_⟩, fun k => Group.greg_modPath ..⟩
  · rw [Group.setGs_only]; cases slot <;> rfl
  · rw [Group.path_modPath_other, hpath]

/-- A pair after it was written, low word first (R3). -/
theorem greg_setGs_pair (g : Group) (d k : Nat) (lo hi : Word) :
    (g.setGs d [lo, hi]).greg k = if k = d then lo else if k = d + 1 then hi else g.greg k := by
  simp only [Group.setGs, Group.greg_setG]
  by_cases hk : k = d
  · simp [hk]
  · simp [hk]

/-- UADD64 and USUB64 write the two words of their result. -/
theorem uniPair_writes {o : UniR} (h : s.At g slot p)
    (ho : (formUni (.ud o.d 2) (.ud o.a 2) (.ud o.b 2) regOnly).operands g p = .ok r) (f : DWord → DWord → DWord) :
    let x := f (pairOf g r.a.num) (pairOf g r.b.num)
    let lo := x.extractLsb' 0 32
    ∃ t g', uniPair o f s = .next t ∧ Completes s t g g' slot (chained s p r lo) 0 ∧ g.OnlyGroupRegs g' slot ∧
      ∀ k, g'.greg k = if k = r.d.num then lo else if k = r.d.num + 1 then x.extractLsb' 32 32 else g.greg k := by
  intro x lo
  obtain ⟨-, hgroup, hpath⟩ := State.here_some h
  obtain ⟨g', hcompletes, honly, hregs⟩ := finishAt_setGs_writes hgroup hpath r.d.num [lo, x.extractLsb' 32 32] p.nextPc
    (chainUni r.chain r.readsLatch lo) 0
  refine ⟨_, g', ?_, hcompletes, honly, fun k => (hregs k).trans (greg_setGs_pair ..)⟩
  unfold uniPair
  rw [State.word_at h, ho]
  rfl

end

/-! ## 64-bit values in pairs (R3) -/

theorem toNat_pairOf (g : Group) (n : Nat) : (pairOf g n).toNat = (g.greg (n + 1)).toNat * 2 ^ 32 + (g.greg n).toNat := by
  rw [pairOf, BitVec.toNat_append, ← Nat.shiftLeft_add_eq_or_of_lt (g.greg n).isLt, Nat.shiftLeft_eq]

theorem toNat_of_halves (x : DWord) : (x.extractLsb' 32 32).toNat * 2 ^ 32 + (x.extractLsb' 0 32).toNat = x.toNat := by
  have hlt := x.isLt
  simp only [BitVec.extractLsb'_toNat, Nat.shiftRight_eq_div_pow]
  omega

theorem toNat_sub_dword (x y : DWord) : (x - y).toNat = (x.toNat + 2 ^ 64 - y.toNat) % 2 ^ 64 := by
  have hlt := y.isLt
  rw [BitVec.toNat_sub]
  omega

/-! ## Immediates (R67, R436, R447) -/

theorem add_wordOf (a : Word) (z : Int) : a + wordOf z = BitVec.ofInt 32 (a.toInt + z) := by
  rw [wordOf, BitVec.ofInt_add, BitVec.ofInt_toInt]

/-- ULI's word from the upper half that the IMM word before it gives and the word's own lower half. -/
theorem toNat_uli (upper : Nat) (imm : BitVec 16) :
    (BitVec.ofNat 32 (upper * 65536 + imm.toNat)).toNat = upper % 65536 * 65536 + imm.toNat := by
  have hlt := imm.isLt
  rw [BitVec.toNat_ofNat]
  omega

/-- ULIH's word keeps the lower half of g[D]. -/
theorem toNat_ulih (imm : BitVec 16) (d : Word) : (imm ++ d.extractLsb' 0 16).toNat = imm.toNat * 65536 + d.toNat % 65536 := by
  rw [BitVec.toNat_append, ← Nat.shiftLeft_add_eq_or_of_lt (d.extractLsb' 0 16).isLt, Nat.shiftLeft_eq, BitVec.extractLsb'_toNat,
    Nat.shiftRight_zero]

/-! ## Immediate shifts (R452) -/

theorem shiftLeft_eq_ofNat (a : Word) (n : Nat) : a <<< n = BitVec.ofNat 32 (a.toNat * 2 ^ n) := by
  apply BitVec.eq_of_toNat_eq
  rw [BitVec.toNat_shiftLeft, Nat.shiftLeft_eq, BitVec.toNat_ofNat]

theorem ushiftRight_eq_ofNat (a : Word) (n : Nat) : a >>> n = BitVec.ofNat 32 (a.toNat / 2 ^ n) := by
  rw [← Nat.shiftRight_eq_div_pow, ← BitVec.toNat_ushiftRight, BitVec.ofNat_toNat, BitVec.setWidth_eq]

theorem sshiftRight_eq_ofInt (a : Word) (n : Nat) : a.sshiftRight n = BitVec.ofInt 32 (a.toInt / 2 ^ n) := by
  rw [BitVec.sshiftRight, Int.shiftRight_eq_div_pow, Nat.cast_pow, Nat.cast_ofNat]

theorem rotlWord_eq (a : Word) {n : Nat} (h : n < 32) :
    rotlWord a n =
      if n = 0 then a else BitVec.ofNat 32 (a.toNat * 2 ^ n) ||| BitVec.ofNat 32 (a.toNat / 2 ^ (32 - n)) := by
  have hrot : rotlWord a n = a <<< n ||| a >>> (32 - n) := by
    rw [rotlWord, BitVec.rotateLeft_def, Nat.mod_eq_of_lt h]
  rw [hrot]
  split
  case isTrue h0 => simp [h0, BitVec.ushiftRight_eq_zero]
  case isFalse => rw [shiftLeft_eq_ofNat, ushiftRight_eq_ofNat]

/-! ## A uniform word depends on its function's values alone -/

theorem uni2_congr {f f' : Word → Word → Word} (h : ∀ a b, f a b = f' a b) (o : UniR) (s : State) : uni2 o f s = uni2 o f' s := by
  rw [show f = f' from funext₂ h]

theorem uni1_congr {f f' : Word → Word} (h : ∀ a, f a = f' a) (o : UniU) (s : State) : uni1 o f s = uni1 o f' s := by
  rw [show f = f' from funext h]

/-- The amount of an immediate shift is less than 32. -/
theorem uniShift_congr {f f' : Word → Nat → Word} (h : ∀ a n, n < 32 → f a n = f' a n) (o : UniS) (s : State) :
    uniShift o f s = uniShift o f' s := by
  unfold uniShift
  simp only [h _ _ o.s.isLt]

/-! ## The rows of the tables -/

theorem uniTwo_encode : ∀ e ∈ uniTwo, encode (e.1 ⟨1, 2, 3⟩) = some e.2.1 := by decide
theorem uniThree_encode : ∀ e ∈ uniThree, encode (e.1 ⟨1, 2, 3⟩) = some e.2.1 := by decide
theorem uniOne_encode : ∀ e ∈ uniOne, encode (e.1 ⟨1, 2⟩) = some e.2.1 := by decide

theorem uniTwo_exec : ∀ e ∈ uniTwo, ∀ o s, exec (e.1 o) s = uni2 o e.2.2 s := by
  simp only [uniTwo, List.forall_mem_cons]
  refine ⟨?uadd, ?usub, ?umul, ?umulhs, ?umulhn, ?uand, ?uor, ?uxor, ?uandn, ?ushl, ?ushr, ?usra, ?umins, ?umaxs, ?uminn, ?umaxn,
    ?ucmpeq, ?ucmpne, ?ucmplt, ?ucmple, ?ucmpltn, ?ucmplen, ?ufadd, ?ufmul, List.forall_mem_nil _⟩
  case umulhs => exact fun o s => uni2_congr mulHighS_eq o s
  case umulhn => exact fun o s => uni2_congr mulHighN_eq o s
  case uandn => exact fun o s => uni2_congr (fun a b => congrArg (a &&& ·) (not_eq_xor b)) o s
  case ushl => exact fun o s => uni2_congr shlWord_eq o s
  case ushr => exact fun o s => uni2_congr shrWord_eq o s
  case usra => exact fun o s => uni2_congr sraWord_eq o s
  case umins => exact fun o s => uni2_congr minS_eq o s
  case umaxs => exact fun o s => uni2_congr maxS_eq o s
  case uminn => exact fun o s => uni2_congr minN_eq o s
  case umaxn => exact fun o s => uni2_congr maxN_eq o s
  case ucmpeq => exact fun o s => uni2_congr boolWord_beq o s
  case ucmpne => exact fun o s => uni2_congr boolWord_bne o s
  case ucmplt => exact fun o s => uni2_congr boolWord_slt o s
  case ucmple => exact fun o s => uni2_congr boolWord_sle o s
  case ucmpltn => exact fun o s => uni2_congr boolWord_ult o s
  case ucmplen => exact fun o s => uni2_congr boolWord_ule o s
  all_goals exact fun _ _ => rfl

theorem uniThree_exec : ∀ e ∈ uniThree, ∀ o s, exec (e.1 o) s = uni3 o e.2.2 s := by
  simp only [uniThree, List.forall_mem_cons]
  refine ⟨?usel, ?uffma, List.forall_mem_nil _⟩
  all_goals exact fun _ _ => rfl

theorem uniOne_exec : ∀ e ∈ uniOne, ∀ o s, exec (e.1 o) s = uni1 o e.2.2 s := by
  simp only [uniOne, List.forall_mem_cons]
  refine ⟨?umov, ?uneg, ?unot, ?uclz, ?upopc, ?ubrev, ?uffs, ?uf2i, ?ui2f, List.forall_mem_nil _⟩
  case uneg => exact fun o s => uni1_congr (fun a => (BitVec.zero_sub a).symm) o s
  case unot => exact fun o s => uni1_congr not_eq_xor o s
  case uclz => exact fun o s => uni1_congr clzWord_eq o s
  case upopc => exact fun o s => uni1_congr popcWord_eq o s
  case ubrev => exact fun o s => uni1_congr brevWord_eq o s
  all_goals exact fun _ _ => rfl

theorem uniShifts_exec : ∀ e ∈ uniShifts, ∀ o s, exec (e.1 o) s = uniShift o e.2 s := by
  simp only [uniShifts, List.forall_mem_cons]
  refine ⟨?ushli, ?ushri, ?usrai, ?urotli, List.forall_mem_nil _⟩
  case ushli => exact fun o s => uniShift_congr (fun a n _ => shiftLeft_eq_ofNat a n) o s
  case ushri => exact fun o s => uniShift_congr (fun a n _ => ushiftRight_eq_ofNat a n) o s
  case usrai => exact fun o s => uniShift_congr (fun a n _ => sshiftRight_eq_ofInt a n) o s
  case urotli => exact fun o s => uniShift_congr (fun a _ h => rotlWord_eq a h) o s

/-! ## The words with an immediate -/

theorem exec_uaddi (o : UniI) (s : State) : exec (.uaddi o) s = uniPlain (formUni (.ud o.d 1) (.us o.a) .absent regImm) anyImm
    (fun ps a _ _ => a + wordOf (signedImm ps o.imm.toNat 8)) s := rfl

theorem exec_uli (o : UniL) (s : State) : exec (.uli o) s = uniPlain (formUni (.ud o.d 1) .absent .absent regImm) uliOk
    (fun ps _ _ _ => BitVec.ofNat 32 ((ps.imm.map fun v => v.toNat).getD 0 * 65536 + o.imm.toNat)) s := rfl

theorem exec_ulih (o : UniL) (s : State) : exec (.ulih o) s = uniPlain (formUni (.ud o.d 1) .absent .absent regOnly) anyImm
    (fun _ _ _ d => o.imm ++ d.extractLsb' 0 16) s := rfl

theorem exec_uqmul (o : UniR) (s : State) : exec (.uqmul o) s = uniPlain (formUni (.ud o.d 1) (.us o.a) (.us o.b) regImm) qmulOk
    (fun ps a b _ => qmulWord (qmulCount ps) a b) s := rfl

/-! ## The obligation -/

/-- Settles O17: every row of the four tables, UADDI, ULI, ULIH and UQMUL are uniform arithmetic words of their functions, and such a word
completes with that function's value; UADD64 and USUB64 complete with the two words of the 64-bit sum or difference. -/
theorem uniformResults : Obligations.UniformResults := by
  unfold Obligations.UniformResults
  refine ⟨⟨fun e he => ⟨uniTwo_encode e he, ?two⟩, fun e he => ⟨uniThree_encode e he, ?three⟩⟩,
    ⟨fun e he => ⟨uniOne_encode e he, ?one⟩, fun e he => ?shifts⟩, ⟨?uaddi, ?uli, ?ulih, ?uqmul⟩, ?pairs⟩
  case two =>
    intro o s g slot p r hat ho
    rw [uniTwo_exec e he]
    exact uniPlain_writes hat ho rfl
  case three =>
    intro o s g slot p r hat ho
    rw [uniThree_exec e he]
    exact uniPlain_writes hat ho rfl
  case one =>
    intro o s g slot p r hat ho
    rw [uniOne_exec e he]
    exact uniPlain_writes hat ho rfl
  case shifts =>
    intro o s g slot p r hat ho
    rw [uniShifts_exec e he]
    exact uniPlain_writes hat ho rfl
  case uaddi =>
    intro o s g slot p r hat ho
    rw [exec_uaddi]
    exact uniPlain_writes_of hat ho (add_wordOf ..)
  case uli =>
    intro o s g slot p r hat ho
    rw [exec_uli]
    refine uniPlain_writes_of hat ho ⟨fun hnone => ?_, fun v hsome => ?_⟩
    · rw [hnone]; exact (toNat_uli 0 o.imm).trans (by simp)
    · rw [hsome]; exact toNat_uli v.toNat o.imm
  case ulih =>
    intro o s g slot p r hat ho
    rw [exec_ulih]
    exact uniPlain_writes_of hat ho (toNat_ulih ..)
  case uqmul =>
    intro o s g slot p r hat ho
    rw [exec_uqmul]
    have hcount := qmulCount_of_ok (operands_immediate_ok ho)
    exact uniPlain_writes_of hat ho (congrArg (qmulWord · (r.uniSrc g r.a) (r.uniSrc g r.b)) hcount)
  case pairs =>
    intro o s g slot p r hat ho
    refine ⟨?uadd64, ?usub64⟩
    case uadd64 =>
      obtain ⟨t, g', ht, hcompletes, honly, hregs⟩ := uniPair_writes hat ho fun a b => a + b
      refine ⟨t, g', _, _, ht, hcompletes, honly, hregs, ?_⟩
      rw [toNat_of_halves, BitVec.toNat_add, toNat_pairOf, toNat_pairOf]
    case usub64 =>
      obtain ⟨t, g', ht, hcompletes, honly, hregs⟩ := uniPair_writes hat ho fun a b => a - b
      refine ⟨t, g', _, _, ht, hcompletes, honly, hregs, ?_⟩
      rw [toNat_of_halves, toNat_sub_dword, toNat_pairOf, toNat_pairOf]

end Sys2Proof.Claims
end
